-- ==== Sys2Proof/Word.lean ====
section
/-! DEFINITION. The words of the GX9: a general or floating-point register, a byte of memory,
an instruction word, and the two containers of the model (a table keyed by number, and memory). -/

namespace Sys2Proof

/-- A byte of memory (R2). -/
abbrev Byte := BitVec 8

/-- A g or f register, a system register, a virtual or a system-physical address (R78, R272). -/
abbrev Word := BitVec 64

/-- An instruction word (R53). -/
abbrev Word32 := BitVec 32

/-- A table keyed by number: banks, tiles, threads, cores, contexts. Keys rise strictly. -/
abbrev Table (α : Type) := List (Nat × α)

/-- Memory: the bytes that differ from what an unlisted address reads as, addresses strictly rising. -/
abbrev Memory := List Host.Cell

end Sys2Proof
end

