-- ==== Sys2Proof/Config.lean ====
section
/-! DEFINITION. What one GX9 implementation fixes and the free values: constants without a body, so
that no proof can see one. Each is named in the assumption log. -/

namespace Sys2Proof.Config

/-- Cycles that pass in a step beyond the one it takes, by step number: the spec gives latencies and
bounds, not a schedule (log 3). -/
opaque freeCycles : Nat → Nat

/-- Which entry a full translation buffer replaces, by step number (R279 gives none; log 12). -/
opaque tlbVictim : Nat → Nat

/-- The set of a translation in a buffer of 8 ways, by context and page, modulo the number of sets (R279 gives none;
log 12). -/
opaque tlbSet : Nat → Nat → Nat

/-- Which word a full instruction cache gives up, by step number (R14, R118 give none; log 12). -/
opaque icacheVictim : Nat → Nat

/-- The signature by the module's attestation key over the SHA-256 digest of a report, byte by byte (R450; log 45). -/
opaque attestSignature : BitVec 256 → Nat → BitVec 8

/-- Digests of the management processor's ROM, firmware and configuration as the boot before State.reset measured them, and
of its ROM at any boot (R442, R450; log 45). -/
opaque measurement : Nat → BitVec 8

/-- An SLH-DSA-SHA2-192s signature of a message under a public key verifies (FIPS 205; R442; log 45). -/
opaque slhDsaVerifies : List (BitVec 8) → List (BitVec 8) → List (BitVec 8) → Bool

/-- The digest of the firmware key that was fused at manufacture, and the fused rollback counter (R442; log 45). -/
opaque fusedKeyDigest : BitVec 256
opaque fusedVersion : Nat

/-- A reading of a monitored quantity, by step number: energy, temperature, segment loss (log 46). -/
opaque reading : Nat → Nat → BitVec 64

/-- The clock of the domain that stamps records, by step number (log 46). -/
opaque stamp : Nat → BitVec 64

/-- What an accumulator takes up for a finite addend that is no multiple of 2^-320, which R47 holds to be none
(log 50). -/
opaque fineAddend : Bool → Nat → Int → BitVec 656

/-- Which of the two smallest levels a quotient of 0 takes, by step number and element (R203; log 51). -/
opaque tieLevel : Nat → Nat → Bool

/-- The code of an infinite element of a codebook block, by step number and element (R203; log 51). -/
opaque infLevel : Nat → Nat → Nat

/-- The die of the port by which this module reaches another module, and the die of the port there, each modulo 16: the
segments of other modules decide it (R392; log 79). -/
opaque colRoute : Nat → Nat × Nat

/-- A collective engine of another module grants a credit for a queue, by step number, node and communicator (R394;
log 79). -/
opaque farCredit : Nat → Nat → Nat → Bool

/-- The port of this module, modulo 64, through which accesses reach another module (R17, R273, R351; log 8). -/
opaque farPort : Nat → Nat

/-- The lowest number of another module on a segment: the other modules of the domain decide it (R349; log 60). -/
opaque segLowest : Nat → Nat

/-- Ports on a segment, minus 1, modulo 16: the other modules of the domain decide it (R349, R381; log 60). -/
opaque segPorts : Nat → Nat

/-- The sum of the cell weights of the partitions of other modules on a segment (R357; log 60). -/
opaque foreignWeight : Nat → Nat

/-- What a byte of a line whose L2 tag is struck holds until a rollback restores it, by step number and address
(R435: the line's data is lost; log 61). -/
opaque lostByte : Nat → Nat → BitVec 8

end Sys2Proof.Config
end

