-- ==== Sys2Proof/Machine/Bits.lean ====
section
/-! DEFINITION. Helpers on bits and bytes: fields, counts, byte order, and integer division. -/

namespace Sys2Proof.Machine

/-- Bits [lo+n-1:lo] of a number, as a number (R1). -/
def bits (x lo n : Nat) : Nat := x / 2 ^ lo % 2 ^ n

/-- Bit `i` of a number. -/
def bit (x i : Nat) : Bool := x / 2 ^ i % 2 == 1

/-- 1 for true, 0 for false. -/
def b2n (b : Bool) : Nat := if b then 1 else 0

/-- A number as a 64-bit word. -/
def w64 (n : Nat) : Word := BitVec.ofNat 64 n

/-- The value of the low `w` bits of `x` as a two's-complement number. -/
def sInt (w x : Nat) : Int :=
  let y := x % 2 ^ w
  if 2 * y < 2 ^ w then (y : Int) else (y : Int) - (2 ^ w : Nat)

/-- The two's-complement pattern of `i` in `w` bits. -/
def sPat (w : Nat) (i : Int) : Nat := (i % ((2 ^ w : Nat) : Int)).toNat

/-- A word that is the 32-bit `x` sign-extended (R88). -/
def sext32 (x : Word32) : Word := x.signExtend 64

/-- Number of significant bits of a number; 0 for 0. -/
def sizeOf2 (n : Nat) : Nat := if n = 0 then 0 else Nat.log2 n + 1

/-- Count of trailing zeros among `fuel` bits; `fuel` if all are 0. -/
def ctzN : Nat → Nat → Nat
  | 0, _ => 0
  | fuel + 1, n => if n % 2 = 1 then 0 else ctzN fuel (n / 2) + 1

/-- Count of leading zeros of the `w`-bit number `n` (R88). -/
def clzN (w n : Nat) : Nat := w - sizeOf2 (n % 2 ^ w)

/-- One plus the index of the lowest set bit; 0 if none (R88). -/
def ffsN (w n : Nat) : Nat := if n % 2 ^ w = 0 then 0 else ctzN w n + 1

/-- Number of set bits among the low `w` bits (R88). -/
def popN : Nat → Nat → Nat
  | 0, _ => 0
  | w + 1, n => n % 2 + popN w (n / 2)

/-- Bit order of the low `w` bits reversed (R88). -/
def brevN : Nat → Nat → Nat
  | 0, _ => 0
  | w + 1, n => (n % 2) * 2 ^ w + brevN w (n / 2)

/-- The `k` bytes of `n`, lowest first (R2). -/
def bytesOf : Nat → Nat → List Byte
  | 0, _ => []
  | k + 1, n => BitVec.ofNat 8 n :: bytesOf k (n / 256)

/-- The number that a list of bytes holds, lowest first (R2). -/
def numOf : List Byte → Nat
  | [] => 0
  | b :: bs => b.toNat + 256 * numOf bs

/-- The byte order of `k` bytes reversed (R88). -/
def bswapN : Nat → Nat → Nat
  | 0, _ => 0
  | k + 1, n => (n % 256) * 256 ^ k + bswapN k (n / 256)

/-- Round `n` up to a multiple of `k`. -/
def alignUp (n k : Nat) : Nat := (n + k - 1) / k * k

/-- The elements of a list taken `k` at a time, at most `fuel` groups. -/
def chunks {α : Type} (k : Nat) : Nat → List α → List (List α)
  | 0, _ => []
  | fuel + 1, l => l.take k :: chunks k fuel (l.drop k)

/-- A list with an element at its place, before those that it does not follow. -/
def insertBy {α : Type} (le : α → α → Bool) (x : α) : List α → List α
  | [] => [x]
  | y :: l => if le x y then x :: y :: l else y :: insertBy le x l

/-- A list in its order. -/
def sortBy {α : Type} (le : α → α → Bool) : List α → List α
  | [] => []
  | x :: l => insertBy le x (sortBy le l)

/-- The bits that are set in the low `w` bits of a number, lowest first. -/
def setBits (w n : Nat) : List Nat := (List.range w).filter (bit n)

/-- Integer square root of a number below 4^k, bit by bit. -/
def isqrt : Nat → Nat → Nat
  | 0, _ => 0
  | k + 1, n =>
    let r := 2 * isqrt k (n / 4)
    if (r + 1) * (r + 1) ≤ n then r + 1 else r

end Sys2Proof.Machine
end

