-- ==== Sys2Proof/Syntax.lean ====
section
/-! DEFINITION. The syntax of the GX9: every row of the opcode table is a constructor of `Instr`.
The rows with an encoding are the Cascon instruction words (R53, R56); the rows without one are the
module's own steps and the commands that reach it from outside, and carry plain operands. -/

namespace Sys2Proof

/-- A register field: g0–g31, or f0–f31 where the major declares it (R54). -/
abbrev Reg := Fin 32

/-- The round field (R39). -/
inductive Rnd where | rne | rtz | rup | rdn | rto
  deriving DecidableEq, Repr

/-- The precision modifier of FPU and FCV: FP32 or FP64 (R95). -/
inductive Prec where | s | d
  deriving DecidableEq, Repr

/-- The element width of a packed operation (R94). -/
inductive LaneW where | w8 | w16 | w32
  deriving DecidableEq, Repr

/-- The order codes of LDO, STO and the atomics (R75). -/
inductive Order where | plain | acquire | release | acqRel
  deriving DecidableEq, Repr

/-- The scopes (R168). -/
inductive Scope where | core | die | mod | dom | sys
  deriving DecidableEq, Repr

/-- The states of a defined bank tile, in code order (R155). -/
inductive TileSt where | empty | filling | ready | draining
  deriving DecidableEq, Repr

/-- The levels of CANCEL and COMPL, in code order (R318, R342). -/
inductive CLevel where | unit | launch | graph | phase | job
  deriving DecidableEq, Repr

/-- What a HOME_PERFORM_ACCESS performs (R163): an access in flight, the next write of a started copy
command, or an access that another module or the host has sent to a home of this module. -/
inductive AccessSel where
  | inflight (n : Nat)
  | copyWrite (h n : Nat)
  | external (spa size : Nat) (v : Word)
  deriving DecidableEq, Repr

/-- The agents that restart after a page reply (R288, R289). -/
inductive WalkAgent where
  | thread (h tid : Nat)
  | copy (h n : Nat)
  | collective (die queue : Nat)
  | command (id : Nat)
  | go (vf : Nat)
  | message (vf : Nat)
  deriving DecidableEq, Repr

/-- A packet between collective engines (R392): its header words, the exact partials of its elements,
the shared exponents of a BSI8 chunk, and the source bytes of ALLGATH and BCAST. -/
structure ColPacket where
  word0 : Word
  word1 : Word
  payload : List Int
  exps : List Nat
  raw : List Byte
  deriving DecidableEq, Repr

/-- What one port reads in a frame of one reduce chunk that the frame carries and of one chunk of the frame before: for each
pass of the first the counts of each slot on the 32 wavelengths; of the second the counts of the four reply slots on its
positions' wavelengths, four for each stage of a domain
operation, and whether the port's engine has found that members read a reply cell differently (R364, R368, R369, R374). -/
structure BusRx where
  passes : List (List (List Nat))
  reply : List Nat
  differ : Bool
  deriving DecidableEq, Repr

/-- Messages of the domain's management network (R349, R359, R362, R363, R369). A request goes to the segment's master,
which answers it by `joinResult`, or by `leaseGrant`, whose cells are guaranteed, lent and pool cells, or `noSlot`. -/
inductive NetMsg where
  | joinRequest (seg gid rank part n : Nat)
  | leaseRequest (seg gid part weight cells : Nat)
  | leaseEnd (seg gid : Nat)
  | joined (seg gid rank part n : Nat)
  | joinResult (seg gid rank status : Nat)
  | leaseGrant (seg gid own lent pool : Nat)
  | noSlot (seg gid : Nat)
  | abort (seg gid : Nat)
  | busErr (seg gid : Nat)
  | left (seg gid rank : Nat)
  /-- The lowest rate at which another port of a segment has trained (R356). -/
  | trained (seg rate : Nat)
  deriving DecidableEq, Repr

/-- The place of a corrected error (R426): storage whose datum is written back corrected, or an entry of a structure with
parity, by its place in it; an instruction cache by the address of the word. -/
inductive SoftPlace where
  | data
  | itlb (n : Nat)
  | dtlb (n : Nat)
  | clusterTlb (n : Nat)
  | nestedTlb (n : Nat)
  | icache (pc : Nat)
  | predictor (n : Nat)
  deriving DecidableEq, Repr

/-- A corrected error of the core that holds the storage. -/
structure SoftError where
  h : Nat
  place : SoftPlace
  deriving DecidableEq, Repr

/-- What boot finds (R442): the firmware and the configuration, the public key and the signature that come with the firmware,
its security version, and the code of a later step that fails, 0 where none does. -/
structure BootImage where
  firmware : List Byte
  config : List Byte
  key : List Byte
  signature : List Byte
  version : Nat
  failing : Nat
  deriving DecidableEq, Repr

/-- The place of an uncorrectable error (R428). -/
inductive ErrPlace where
  | unitState (h : Nat)
  | bank (h n : Nat)
  | regBank (h n : Nat)
  | parked (h n : Nat)
  | hbm (spa : Nat)
  | l2data (spa : Nat)
  /-- What a partition's journal or host gate holds for the job of a context. -/
  | journal (ctx : Nat)
  | unowned (part : Option Nat)
  /-- The castle store of a partition: what it holds of the unit that ran on a core, or of the n-th evicted one there. -/
  | castled (part h : Nat) (evicted : Option Nat)
  deriving DecidableEq, Repr

/-- The code of a Rnd in an instruction word. -/
def Rnd.code : Rnd → Nat
  | .rne => 0
  | .rtz => 1
  | .rup => 2
  | .rdn => 3
  | .rto => 4

/-- The code of a Prec in an instruction word. -/
def Prec.code : Prec → Nat
  | .s => 0
  | .d => 1

/-- The code of a LaneW in an instruction word. -/
def LaneW.code : LaneW → Nat
  | .w8 => 0
  | .w16 => 1
  | .w32 => 2

/-- The code of a Order in an instruction word. -/
def Order.code : Order → Nat
  | .plain => 0
  | .acquire => 1
  | .release => 2
  | .acqRel => 3

/-- The code of a Scope in an instruction word. -/
def Scope.code : Scope → Nat
  | .core => 0
  | .die => 1
  | .mod => 2
  | .dom => 3
  | .sys => 4

/-- The code of a TileSt in an instruction word. -/
def TileSt.code : TileSt → Nat
  | .empty => 0
  | .filling => 1
  | .ready => 2
  | .draining => 3

/-- The code of a CLevel in an instruction word. -/
def CLevel.code : CLevel → Nat
  | .unit => 0
  | .launch => 1
  | .graph => 2
  | .phase => 3
  | .job => 4

/-- The steps of the module that no instruction word spells, and the commands that reach it from
outside: the rows of the opcode table without an encoding, with the operands each one acts on. -/
inductive Event where
  /-- SRW to a bank's format register, waiting for earlier formatted accesses. (R38) -/
  | bfmtWrite (h tid : Nat)
  /-- Root write of an L2 allocation mask; other contexts set PDENY. (R297) -/
  | waymaskWrite (h : Nat) (v : Word)
  /-- Write of the watchdog LIMIT, which may only lower it. (R421) -/
  | wdogWrite (h : Nat) (v : Word)
  /-- A nonzero write activates a hardware loop level. (R122) -/
  | lcntWrite (h tid : Nat) (level : Fin 2) (v : Word)
  /-- Posts a trap record to the service core and rings DOORBELL. (R412) -/
  | trapMessagePost (n : Nat)
  /-- A nonzero REPLY write consumes a trap record, as RESUME or KILL. (R413) -/
  | trapReplyConsume (h off : Nat) (v : Word)
  /-- A late fault enters the thread's queue, or is lost. (R406) -/
  | lateFaultArrival (h tid code : Nat) (ply : Word32) (addr : Word) (unit : Nat)
  /-- Delivers a queued late fault at an instruction boundary. (R408) -/
  | lateFaultDelivery (h tid : Nat)
  /-- A waiting thread becomes ready when its wake condition holds. (R108) -/
  | threadWake (h tid : Nat)
  /-- A unit accepts a command waiting at dispatch once capacity frees. (R65) -/
  | unitAcceptCommand (h tid : Nat)
  /-- A home performs an arriving access in arrival order. (R163) -/
  | homePerformAccess (sel : AccessSel)
  /-- The last user of a DRAINING tile finishes: swap or undefine. (R161) -/
  | tileDrainEnd (h e : Nat)
  /-- Posts a page request into the handler's area and rings DOORBELL. (R287) -/
  | pageRequestPost (n : Nat)
  /-- A nonzero REPLY write consumes a page request, as RETRY or DENY. (R288) -/
  | pageReplyConsume (h off : Nat) (v : Word)
  /-- A waiting agent restarts its walk or access after the reply. (R288) -/
  | walkRestart (agent : WalkAgent)
  /-- A write to INVCTL starts a TLB invalidation. (R291) -/
  | invalidationRequest (h off : Nat) (v : Word)
  /-- Writes INVDONE once the invalidation and its drain are complete. (R291) -/
  | invalidationDone (n : Nat)
  /-- Each cycle, places waiting units on eligible cores. (R330) -/
  | unitPlacement (part : Nat)
  /-- Evicts a unit whose threads all wait at blocking points. (R414) -/
  | unitEvict (h : Nat)
  /-- A unit waiting 2 ms is raised one class. (R332) -/
  | unitAging (lnum index : Nat)
  /-- The unit completes when HEXIT of thread 0 is done and UCNT is 0. (R128) -/
  | unitComplete (h : Nat)
  /-- At a phase boundary, commits the ending phase and starts the graph. (R429) -/
  | phaseCommit (ctx graph : Nat)
  /-- Charges drawn energy to launches at least every 1 µs. (R334) -/
  | energyMeter (lnum nj : Nat)
  /-- The die power manager grants a waiting leave request. (R335) -/
  | leaveGrant (die : Nat)
  /-- Releases leave after 2,048 idle cycles. (R230) -/
  | leaveRelease (h engine : Nat)
  /-- Throttles engines past THROT or the current limit. (R454) -/
  | thermalThrottle (die level : Nat)
  /-- At TRIP, stops every unit and cuts core power. (R454) -/
  | thermalTrip (die : Nat)
  /-- COUNT reaches LIMIT × 2^20: threads stop and a WDT record is posted. (R423) -/
  | watchdogExpire (h : Nat)
  /-- Stops a resident unit after 2^20 cycles without a cancel point. (R311) -/
  | forcedUnitStop (h : Nat)
  /-- A VMAXX contribution arrives at a core of the span. (R201) -/
  | vmaxxContribution (n : Nat)
  /-- A VMAXX not combined after 2^24 cycles completes with TMO. (R202) -/
  | vmaxxTimeout (h seq : Nat)
  /-- An arrival message reaches a member and combines. (R251) -/
  | barrierArrival (n : Nat)
  /-- A release message sets RGEN ← GEN. (R251) -/
  | barrierRelease (n : Nat)
  /-- The vector unit checks and performs its next accepted command. (R192) -/
  | vectorCommandPerform (h : Nat)
  /-- An engine performs one indivisible step. (R218) -/
  | matrixEngineStep (h ms : Nat)
  /-- A matrix command completes. (R229) -/
  | matrixCommandComplete (h ms : Nat)
  /-- The copy engine starts an accepted command. (R241) -/
  | copyCommandStart (h n : Nat)
  /-- A copy command completes, with flags and any late fault. (R241) -/
  | copyCommandComplete (h n : Nat)
  /-- The quasi-random unit checks and performs its next command. (R267) -/
  | qrnCommandPerform (h : Nat)
  /-- At a chunk boundary, the engine chooses and runs a step. (R395) -/
  | collectiveChunkStep (die : Nat)
  /-- An engine pops the route head of a packet and acts on it. (R392) -/
  | collectivePacketReceive (die : Nat) (p : ColPacket)
  /-- COLTMO expires: the collective ends with TMO. (R397) -/
  | collectiveTimeout (die queue seq : Nat)
  /-- A 128 ns frame of the segment carries its cells. (R350) -/
  | busFrame (h handle : Nat) (rx : List BusRx)
  /-- Calibrates the thresholds, transmit delays and WLIM of a segment. (R353) -/
  | calibration (seg wlim : Nat) (excluded : List Nat)
  /-- A port trains to a rate; CUSE and guarantees are recomputed. (R356) -/
  | portTrainingDone (port rate : Nat) (ok : Bool)
  /-- The frame allocator grants a lease or NOSLOT. (R359) -/
  | leaseRequest (h handle : Nat) (lent pool : Nat)
  /-- The segment master checks a join against the group. (R362) -/
  | groupJoinCheck (h handle : Nat)
  /-- COLTMO of a bus operation expires with TMO. (R361) -/
  | busOpTimeout (h handle : Nat)
  /-- At T the interval stops, drains and swaps partition state. (R418) -/
  | castleStop (part : Nat)
  /-- At T + 32,000 the incoming partner's threads issue again. (R418) -/
  | castleResume (part : Nat)
  /-- A home returns a flush token after earlier accesses. (R419) -/
  | flushTokenReturn (h : Nat)
  /-- A single-bit error is corrected and counted. (R426) -/
  | correctableError (e : SoftError)
  /-- A link flit fails its CRC and is resent. (R426) -/
  | linkCrcError (h : Nat)
  /-- An uncorrectable error is charged to a tenant. (R428) -/
  | uncorrectableError (place : ErrPlace)
  /-- Charges covering tenants and fences the way. (R435) -/
  | l2TagParityError (die way spa : Nat)
  /-- The previous units have left the granted cores. (R303) -/
  | coreGrantComplete (ctx : Nat)
  /-- A revocation's drain ends and the quantity returns. (R312) -/
  | revocationComplete (n : Nat)
  /-- The deletion drain ends and the numbers are free. (R313) -/
  | contextDeleteComplete (ctx : Nat)
  /-- The drain of cores leaving a partition completes. (R293) -/
  | prepareDrainDone
  /-- A host access through VF BAR2 is translated by stage 2. (R438) -/
  | hostBar2Access (vf off size : Nat) (store : Option Word)
  /-- Writing 1 to GO checks and launches a job. (R440) -/
  | jobgoWrite (vf : Nat)
  /-- Stores a message and atomically counts it in the context. (R441) -/
  | hmsgWrite (vf : Nat) (v : Word)
  /-- A host write to a VF register without a row of its own. (R439) -/
  | bar0RegisterWrite (vf off : Nat) (v : Word)
  /-- A PCI Express FLR of a VF. (R437) -/
  | functionLevelReset (vf : Nat)
  /-- The PF clears VF Enable, resetting every VF. (R449) -/
  | vfEnableClear
  /-- The reset's drains end and access is restored. (R449) -/
  | vfResetEnd (vf : Nat)
  /-- The management processor answers a root's fault or trap. (R452) -/
  | mpServeRootRequest (n : Nat)
  /-- Verifies, measures and initialises the module at reset. (R442) -/
  | boot (b : BootImage)
  /-- Sets the module's number in the domain. (R443) -/
  | modnum (slot : Fin 16) (cmd : BitVec 512)
  /-- Creates a partition and its root. (R446) -/
  | pcreate (slot : Fin 16) (cmd : BitVec 512)
  /-- Deletes a partition's root and frees its interval. (R445) -/
  | pdestroy (slot : Fin 16) (cmd : BitVec 512)
  /-- Checks and drains a new partition layout. (R293) -/
  | prepare (slot : Fin 16) (cmd : BitVec 512)
  /-- Applies a prepared layout in one cycle. (R293) -/
  | commit (slot : Fin 16) (cmd : BitVec 512)
  /-- Abandons a prepared layout. (R293) -/
  | abort (slot : Fin 16) (cmd : BitVec 512)
  /-- Gives VFs to a partition, or takes them back. (R445) -/
  | vfassign (slot : Fin 16) (cmd : BitVec 512)
  /-- Sets castling pairs and slice times. (R417) -/
  | slice (slot : Fin 16) (cmd : BitVec 512)
  /-- Sets a die's leave capacity. (R454) -/
  | leavecap (slot : Fin 16) (cmd : BitVec 512)
  /-- Halts a thread or its unit. (R424) -/
  | debugHalt (slot : Fin 16) (cmd : BitVec 512)
  /-- Single-steps a halted thread. (R424) -/
  | debugStep (slot : Fin 16) (cmd : BitVec 512)
  /-- Resumes a halted thread or unit. (R424) -/
  | debugResume (slot : Fin 16) (cmd : BitVec 512)
  /-- Sets TSTAT.HALTEN of a thread. (R424) -/
  | debugHalten (slot : Fin 16) (cmd : BitVec 512)
  /-- Reads a halted thread's register. (R445) -/
  | debugRead (slot : Fin 16) (cmd : BitVec 512)
  /-- Writes a halted thread's register. (R445) -/
  | debugWrite (slot : Fin 16) (cmd : BitVec 512)
  /-- Copies a halted thread's ply ring to the host. (R409) -/
  | debugRing (slot : Fin 16) (cmd : BitVec 512)
  /-- Signs a report of measurements and layouts. (R450) -/
  | attest (slot : Fin 16) (cmd : BitVec 512)
  /-- Writes a module summary and clears the report list. (R451) -/
  | summary (slot : Fin 16) (cmd : BitVec 512)
  /-- Scrubs and unfences an L2 way. (R435) -/
  | unfence (slot : Fin 16) (cmd : BitVec 512)
  /-- Sets the PRESENT map and the port assignments. (R447) -/
  | domain (slot : Fin 16) (cmd : BitVec 512)
  /-- Writes or deletes domain-group entries. (R448) -/
  | grouptab (slot : Fin 16) (cmd : BitVec 512)
  /-- Command that performs a VF reset. (R449) -/
  | vfreset (slot : Fin 16) (cmd : BitVec 512)
  /-- A command slot with an unlisted OP returns BADARG. (R443) -/
  | mcmdReservedOp (slot : Fin 16) (cmd : BitVec 512)
  /-- A join result, lease grant or abort of an Eweus group arrives at a member module over the domain's management network. (R349) -/
  | managementNetworkMessage (m : NetMsg)
  /-- Die d is clock-gated or ungated, which stops or restarts the modulators and photodetectors of its Eweus ports. (R17) -/
  | dieClockGating (die : Nat) (gated : Bool)
  deriving DecidableEq, Repr

/-- One row of the opcode table each. -/
inductive Instr where
  /-- Writes a + b modulo 2^64 into d. (R88) -/
  | add (d : Reg) (a : Reg) (b : Reg)
  /-- Writes a − b modulo 2^64 into d. (R88) -/
  | sub (d : Reg) (a : Reg) (b : Reg)
  /-- Writes the low 64 bits of a × b into d. (R88) -/
  | mul (d : Reg) (a : Reg) (b : Reg)
  /-- Writes the high 64 bits of the signed product into d. (R88) -/
  | mulh (d : Reg) (a : Reg) (b : Reg)
  /-- Writes the high 64 bits of the unsigned product into d. (R88) -/
  | mulhz (d : Reg) (a : Reg) (b : Reg)
  /-- Writes the signed quotient into d, under div_int. (R89) -/
  | div (d : Reg) (a : Reg) (b : Reg)
  /-- Writes the unsigned quotient into d, under div_int. (R89) -/
  | divz (d : Reg) (a : Reg) (b : Reg)
  /-- Writes the signed remainder into d, under div_int. (R89) -/
  | rem (d : Reg) (a : Reg) (b : Reg)
  /-- Writes the unsigned remainder into d, under div_int. (R89) -/
  | remz (d : Reg) (a : Reg) (b : Reg)
  /-- Writes a AND b into d. (R88) -/
  | and (d : Reg) (a : Reg) (b : Reg)
  /-- Writes a OR b into d. (R88) -/
  | or (d : Reg) (a : Reg) (b : Reg)
  /-- Writes a XOR b into d. (R88) -/
  | xor (d : Reg) (a : Reg) (b : Reg)
  /-- Writes a AND NOT b into d. (R88) -/
  | andn (d : Reg) (a : Reg) (b : Reg)
  /-- Shifts a left by b[5:0]. (R88) -/
  | sll (d : Reg) (a : Reg) (b : Reg)
  /-- Shifts a right by b[5:0], filling with zeros. (R88) -/
  | srl (d : Reg) (a : Reg) (b : Reg)
  /-- Shifts a right by b[5:0], filling with the sign bit. (R88) -/
  | sra (d : Reg) (a : Reg) (b : Reg)
  /-- Rotates a left by b[5:0]. (R88) -/
  | rol (d : Reg) (a : Reg) (b : Reg)
  /-- Rotates a right by b[5:0]. (R88) -/
  | ror (d : Reg) (a : Reg) (b : Reg)
  /-- Writes 1 into d if a < b as signed values, else 0. (R88) -/
  | slt (d : Reg) (a : Reg) (b : Reg)
  /-- Writes 1 into d if a < b as unsigned values, else 0. (R88) -/
  | sltz (d : Reg) (a : Reg) (b : Reg)
  /-- Writes the signed minimum of a and b into d. (R88) -/
  | min (d : Reg) (a : Reg) (b : Reg)
  /-- Writes the signed maximum of a and b into d. (R88) -/
  | max (d : Reg) (a : Reg) (b : Reg)
  /-- Writes the unsigned minimum of a and b into d. (R88) -/
  | minz (d : Reg) (a : Reg) (b : Reg)
  /-- Writes the unsigned maximum of a and b into d. (R88) -/
  | maxz (d : Reg) (a : Reg) (b : Reg)
  /-- Writes a into d if the old d is nonzero, else b. (R88) -/
  | sel (d : Reg) (a : Reg) (b : Reg)
  /-- Writes the count of leading zeros of a into d. (R88) -/
  | clz (d : Reg) (a : Reg)
  /-- Writes the count of trailing zeros of a into d. (R88) -/
  | ctz (d : Reg) (a : Reg)
  /-- Writes 1 plus the index of the lowest set bit of a into d, or 0 if a is 0. (R88) -/
  | ffs (d : Reg) (a : Reg)
  /-- Writes the number of set bits of a into d. (R88) -/
  | popc (d : Reg) (a : Reg)
  /-- Writes a with its bit order reversed into d. (R88) -/
  | brev (d : Reg) (a : Reg)
  /-- Writes a with its byte order reversed into d. (R88) -/
  | bswap (d : Reg) (a : Reg)
  /-- Adds the 32-bit operands and sign-extends the result. (R88) -/
  | addw (d : Reg) (a : Reg) (b : Reg)
  /-- Subtracts the 32-bit operands and sign-extends the result. (R88) -/
  | subw (d : Reg) (a : Reg) (b : Reg)
  /-- Multiplies the 32-bit operands and sign-extends the low 32 bits. (R88) -/
  | mulw (d : Reg) (a : Reg) (b : Reg)
  /-- Writes the signed 32-bit quotient into d. (R89) -/
  | divw (d : Reg) (a : Reg) (b : Reg)
  /-- Writes the unsigned 32-bit quotient into d, sign-extended. (R89) -/
  | divwz (d : Reg) (a : Reg) (b : Reg)
  /-- Writes the signed 32-bit remainder into d. (R89) -/
  | remw (d : Reg) (a : Reg) (b : Reg)
  /-- Writes the unsigned 32-bit remainder into d, sign-extended. (R89) -/
  | remwz (d : Reg) (a : Reg) (b : Reg)
  /-- Shifts a[31:0] left by b[4:0] and sign-extends the result. (R88) -/
  | sllw (d : Reg) (a : Reg) (b : Reg)
  /-- Shifts a[31:0] right with zero fill and sign-extends the result. (R88) -/
  | srlw (d : Reg) (a : Reg) (b : Reg)
  /-- Shifts a[31:0] right with sign fill and sign-extends the result. (R88) -/
  | sraw (d : Reg) (a : Reg) (b : Reg)
  /-- Writes a plus the sign-extended imm16 into d. (R90) -/
  | addi (d : Reg) (a : Reg) (imm : BitVec 16)
  /-- Writes a AND the sign-extended imm16 into d. (R90) -/
  | andi (d : Reg) (a : Reg) (imm : BitVec 16)
  /-- Writes a OR the zero-extended imm16 into d. (R90) -/
  | ori (d : Reg) (a : Reg) (imm : BitVec 16)
  /-- Writes a XOR the zero-extended imm16 into d. (R90) -/
  | xori (d : Reg) (a : Reg) (imm : BitVec 16)
  /-- Signed compare of a against the sign-extended imm16. (R90) -/
  | slti (d : Reg) (a : Reg) (imm : BitVec 16)
  /-- Unsigned compare of a against the sign-extended imm16. (R90) -/
  | sltzi (d : Reg) (a : Reg) (imm : BitVec 16)
  /-- Shifts a left by an immediate amount. (R92) -/
  | slli (d : Reg) (a : Reg) (amt : Fin 64)
  /-- Shifts a right by an immediate amount, filling with zeros. (R92) -/
  | srli (d : Reg) (a : Reg) (amt : Fin 64)
  /-- Shifts a right by an immediate amount, filling with the sign bit. (R92) -/
  | srai (d : Reg) (a : Reg) (amt : Fin 64)
  /-- Rotates a right by an immediate amount. (R92) -/
  | rori (d : Reg) (a : Reg) (amt : Fin 64)
  /-- Shifts a[31:0] left by an immediate amount and sign-extends the result. (R92) -/
  | slliw (d : Reg) (a : Reg) (amt : Fin 32)
  /-- Shifts a[31:0] right by an immediate amount with zero fill and sign-extends the result. (R92) -/
  | srliw (d : Reg) (a : Reg) (amt : Fin 32)
  /-- Shifts a[31:0] right by an immediate amount with sign fill and sign-extends the result. (R92) -/
  | sraiw (d : Reg) (a : Reg) (amt : Fin 32)
  /-- Rotates a[31:0] right by an immediate amount and sign-extends the result. (R92) -/
  | roriw (d : Reg) (a : Reg) (amt : Fin 32)
  /-- Writes the sign-extended imm21 into d. (R91) -/
  | li (d : Reg) (imm : BitVec 21)
  /-- Shifts d left by 21 bits and ORs in imm21. (R91) -/
  | lsi (d : Reg) (imm : BitVec 21)
  /-- Packed addition modulo 2^w. (R94) -/
  | padd (d : Reg) (a : Reg) (b : Reg) (lane : LaneW)
  /-- Packed subtraction modulo 2^w. (R94) -/
  | psub (d : Reg) (a : Reg) (b : Reg) (lane : LaneW)
  /-- Packed saturating addition. (R94) -/
  | padds (d : Reg) (a : Reg) (b : Reg) (lane : LaneW) (z : Bool)
  /-- Packed saturating subtraction. (R94) -/
  | psubs (d : Reg) (a : Reg) (b : Reg) (lane : LaneW) (z : Bool)
  /-- Packed multiplication, keeping the low w bits. (R94) -/
  | pmul (d : Reg) (a : Reg) (b : Reg) (lane : LaneW)
  /-- Packed multiplication, keeping the high w bits. (R94) -/
  | pmulh (d : Reg) (a : Reg) (b : Reg) (lane : LaneW) (z : Bool)
  /-- Packed quotient under div_int. (R94) -/
  | pdiv (d : Reg) (a : Reg) (b : Reg) (lane : LaneW) (z : Bool)
  /-- Packed remainder under div_int. (R94) -/
  | prem (d : Reg) (a : Reg) (b : Reg) (lane : LaneW) (z : Bool)
  /-- Packed minimum. (R94) -/
  | pmin (d : Reg) (a : Reg) (b : Reg) (lane : LaneW) (z : Bool)
  /-- Packed maximum. (R94) -/
  | pmax (d : Reg) (a : Reg) (b : Reg) (lane : LaneW) (z : Bool)
  /-- Packed compare for equality, giving all ones or 0 per element. (R94) -/
  | pceq (d : Reg) (a : Reg) (b : Reg) (lane : LaneW)
  /-- Packed less-than compare. (R94) -/
  | pclt (d : Reg) (a : Reg) (b : Reg) (lane : LaneW) (z : Bool)
  /-- Packed shift left. (R94) -/
  | psll (d : Reg) (a : Reg) (b : Reg) (lane : LaneW)
  /-- Packed shift right with zero fill. (R94) -/
  | psrl (d : Reg) (a : Reg) (b : Reg) (lane : LaneW)
  /-- Packed shift right with sign fill. (R94) -/
  | psra (d : Reg) (a : Reg) (b : Reg) (lane : LaneW)
  /-- Packed count of leading zeros. (R94) -/
  | pclz (d : Reg) (a : Reg) (lane : LaneW)
  /-- Packed count of trailing zeros. (R94) -/
  | pctz (d : Reg) (a : Reg) (lane : LaneW)
  /-- Packed find-first-set. (R94) -/
  | pffs (d : Reg) (a : Reg) (lane : LaneW)
  /-- Packed count of set bits. (R94) -/
  | ppopc (d : Reg) (a : Reg) (lane : LaneW)
  /-- Extracts a bit field of a, zero-extended. (R93) -/
  | bextz (d : Reg) (a : Reg) (pos : Fin 64) (len : Fin 64)
  /-- Extracts a bit field of a, sign-extended. (R93) -/
  | bexti (d : Reg) (a : Reg) (pos : Fin 64) (len : Fin 64)
  /-- Deposits the low bits of a into a field of d. (R93) -/
  | bdep (d : Reg) (a : Reg) (pos : Fin 64) (len : Fin 64)
  /-- Loads a sign-extended byte. (R143) -/
  | lb (d : Reg) (base : Reg) (imm : BitVec 12) (look : Fin 16)
  /-- Loads a zero-extended byte. (R143) -/
  | lbz (d : Reg) (base : Reg) (imm : BitVec 12) (look : Fin 16)
  /-- Loads a sign-extended half word. (R143) -/
  | lh (d : Reg) (base : Reg) (imm : BitVec 12) (look : Fin 16)
  /-- Loads a zero-extended half word. (R143) -/
  | lhz (d : Reg) (base : Reg) (imm : BitVec 12) (look : Fin 16)
  /-- Loads a sign-extended word. (R143) -/
  | lw (d : Reg) (base : Reg) (imm : BitVec 12) (look : Fin 16)
  /-- Loads a zero-extended word. (R143) -/
  | lwz (d : Reg) (base : Reg) (imm : BitVec 12) (look : Fin 16)
  /-- Loads a double word. (R143) -/
  | ld (d : Reg) (base : Reg) (imm : BitVec 12) (look : Fin 16)
  /-- Stores the low byte of d. (R143) -/
  | sb (d : Reg) (base : Reg) (imm : BitVec 12) (look : Fin 16)
  /-- Stores the low half word of d. (R143) -/
  | sh (d : Reg) (base : Reg) (imm : BitVec 12) (look : Fin 16)
  /-- Stores the low word of d. (R143) -/
  | sw (d : Reg) (base : Reg) (imm : BitVec 12) (look : Fin 16)
  /-- Stores all 64 bits of d. (R143) -/
  | sd (d : Reg) (base : Reg) (imm : BitVec 12) (look : Fin 16)
  /-- Loads a word into f[d][31:0] and clears the upper bits. (R143) -/
  | flw (d : Reg) (base : Reg) (imm : BitVec 12) (look : Fin 16)
  /-- Loads a double word into f[d]. (R143) -/
  | fld (d : Reg) (base : Reg) (imm : BitVec 12) (look : Fin 16)
  /-- Stores f[d][31:0]. (R143) -/
  | fsw (d : Reg) (base : Reg) (imm : BitVec 12) (look : Fin 16)
  /-- Stores all 64 bits of f[d]. (R143) -/
  | fsd (d : Reg) (base : Reg) (imm : BitVec 12) (look : Fin 16)
  /-- Ordered load, plain or acquire, at a chosen scope. (R180) -/
  | ldo (d : Reg) (a : Reg) (b : Reg) (size : Fin 4) (acq : Bool) (scope : Scope) (look : Fin 16)
  /-- Ordered store, plain or release, at a chosen scope. (R180) -/
  | sto (d : Reg) (a : Reg) (b : Reg) (size : Fin 4) (rel : Bool) (scope : Scope) (look : Fin 16)
  /-- Atomic 32-bit add at the home. (R182) -/
  | atwadd (d : Reg) (a : Reg) (b : Reg) (order : Order) (scope : Scope) (look : Fin 16)
  /-- Atomic 32-bit AND at the home. (R182) -/
  | atwand (d : Reg) (a : Reg) (b : Reg) (order : Order) (scope : Scope) (look : Fin 16)
  /-- Atomic 32-bit OR at the home. (R182) -/
  | atwor (d : Reg) (a : Reg) (b : Reg) (order : Order) (scope : Scope) (look : Fin 16)
  /-- Atomic 32-bit XOR at the home. (R182) -/
  | atwxor (d : Reg) (a : Reg) (b : Reg) (order : Order) (scope : Scope) (look : Fin 16)
  /-- Atomic 32-bit signed maximum at the home. (R182) -/
  | atwmax (d : Reg) (a : Reg) (b : Reg) (order : Order) (scope : Scope) (look : Fin 16)
  /-- Atomic 32-bit signed minimum at the home. (R182) -/
  | atwmin (d : Reg) (a : Reg) (b : Reg) (order : Order) (scope : Scope) (look : Fin 16)
  /-- Atomic 32-bit unsigned maximum at the home. (R182) -/
  | atwmaxz (d : Reg) (a : Reg) (b : Reg) (order : Order) (scope : Scope) (look : Fin 16)
  /-- Atomic 32-bit unsigned minimum at the home. (R182) -/
  | atwminz (d : Reg) (a : Reg) (b : Reg) (order : Order) (scope : Scope) (look : Fin 16)
  /-- Atomic 64-bit add at the home. (R182) -/
  | atdadd (d : Reg) (a : Reg) (b : Reg) (order : Order) (scope : Scope) (look : Fin 16)
  /-- Atomic 64-bit AND at the home. (R182) -/
  | atdand (d : Reg) (a : Reg) (b : Reg) (order : Order) (scope : Scope) (look : Fin 16)
  /-- Atomic 64-bit OR at the home. (R182) -/
  | atdor (d : Reg) (a : Reg) (b : Reg) (order : Order) (scope : Scope) (look : Fin 16)
  /-- Atomic 64-bit XOR at the home. (R182) -/
  | atdxor (d : Reg) (a : Reg) (b : Reg) (order : Order) (scope : Scope) (look : Fin 16)
  /-- Atomic 64-bit signed maximum at the home. (R182) -/
  | atdmax (d : Reg) (a : Reg) (b : Reg) (order : Order) (scope : Scope) (look : Fin 16)
  /-- Atomic 64-bit signed minimum at the home. (R182) -/
  | atdmin (d : Reg) (a : Reg) (b : Reg) (order : Order) (scope : Scope) (look : Fin 16)
  /-- Atomic 64-bit unsigned maximum at the home. (R182) -/
  | atdmaxz (d : Reg) (a : Reg) (b : Reg) (order : Order) (scope : Scope) (look : Fin 16)
  /-- Atomic 64-bit unsigned minimum at the home. (R182) -/
  | atdminz (d : Reg) (a : Reg) (b : Reg) (order : Order) (scope : Scope) (look : Fin 16)
  /-- Atomic 32-bit swap. (R182) -/
  | swpw (d : Reg) (a : Reg) (b : Reg) (order : Order) (scope : Scope) (look : Fin 16)
  /-- Atomic 64-bit swap. (R182) -/
  | swpd (d : Reg) (a : Reg) (b : Reg) (order : Order) (scope : Scope) (look : Fin 16)
  /-- Atomic 32-bit compare-and-swap, using the register pair d, d+1. (R182) -/
  | casw (d : Reg) (a : Reg) (b : Reg) (order : Order) (scope : Scope) (look : Fin 16)
  /-- Atomic 64-bit compare-and-swap, using the register pair d, d+1. (R182) -/
  | casd (d : Reg) (a : Reg) (b : Reg) (order : Order) (scope : Scope) (look : Fin 16)
  /-- Sets the rectangle of a barrier register and checks held arrivals against it. (R250) -/
  | barcfg (a : Reg) (look : Fin 16) (n : Fin 8)
  /-- Increments GEN and contributes the core's arrival. (R251) -/
  | bararv (look : Fin 16) (n : Fin 8)
  /-- Waits until RGEN = GEN. (R251) -/
  | barwt (look : Fin 16) (n : Fin 8)
  /-- Adds g[a] to an arrival counter. (R249) -/
  | armc (a : Reg) (look : Fin 16) (n : Fin 16)
  /-- Waits until an arrival counter reaches 0. (R249) -/
  | waitc (look : Fin 16) (n : Fin 16)
  /-- Looks a key up in the tag table. (R150) -/
  | tglk (d : Reg) (a : Reg) (sz : Fin 8)
  /-- Fills a named way of the tag table, or traps TGSL. (R150) -/
  | tgset (a : Reg) (b : Reg) (sz : Fin 8) (way : Fin 4)
  /-- Invalidates the matching tag entries and counts them. (R150) -/
  | tginv (d : Reg) (a : Reg) (sz : Fin 8)
  /-- Reads the tag word or slot word of one entry. (R150) -/
  | tgrd (d : Reg) (a : Reg) (slotPart : Bool)
  /-- Invalidates every tag entry. (R150) -/
  | tgclr
  /-- Defines a bank tile. (R160) -/
  | tbdef (a : Reg) (b : Reg) (look : Fin 16) (entry : Fin 64)
  /-- Snapshots a tile entry into TSTATUS. (R161) -/
  | tbst (look : Fin 16) (entry : Fin 64)
  /-- Starts freeing a tile entry through DRAINING. (R161) -/
  | tbfree (look : Fin 16) (entry : Fin 64)
  /-- Waits until a tile entry is in the named state. (R161) -/
  | tbwait (look : Fin 16) (st : TileSt) (entry : Fin 64)
  /-- Publishes the shadow of a tile by a swap, after draining users. (R161) -/
  | publ (look : Fin 16) (entry : Fin 64)
  /-- Converts the elements of a source stream into the destination stream. (R195) -/
  | vcvt (look : Fin 16) (dst : Fin 4) (src : Fin 4) (rnd : Rnd)
  /-- Element-wise addition. (R195) -/
  | vadd (b : Reg) (look : Fin 16) (dst : Fin 4) (src : Fin 4) (rnd : Rnd)
  /-- Element-wise subtraction. (R195) -/
  | vsub (b : Reg) (look : Fin 16) (dst : Fin 4) (src : Fin 4) (rnd : Rnd)
  /-- Element-wise multiplication. (R195) -/
  | vmul (b : Reg) (look : Fin 16) (dst : Fin 4) (src : Fin 4) (rnd : Rnd)
  /-- Element-wise fused multiply-add with an addend selector. (R195) -/
  | vfma (a : Reg) (b : Reg) (look : Fin 16) (dst : Fin 4) (src : Fin 4) (rnd : Rnd)
  /-- Element-wise maximum. (R196) -/
  | vmax (b : Reg) (look : Fin 16) (dst : Fin 4) (src : Fin 4) (rnd : Rnd)
  /-- Element-wise minimum. (R196) -/
  | vmin (b : Reg) (look : Fin 16) (dst : Fin 4) (src : Fin 4) (rnd : Rnd)
  /-- Element-wise equality compare. (R196) -/
  | vceq (b : Reg) (look : Fin 16) (dst : Fin 4) (src : Fin 4) (rnd : Rnd)
  /-- Element-wise less-than compare. (R196) -/
  | vclt (b : Reg) (look : Fin 16) (dst : Fin 4) (src : Fin 4) (rnd : Rnd)
  /-- Element-wise less-or-equal compare. (R196) -/
  | vcle (b : Reg) (look : Fin 16) (dst : Fin 4) (src : Fin 4) (rnd : Rnd)
  /-- Element-wise select between y and the addend. (R195) -/
  | vsel (a : Reg) (b : Reg) (look : Fin 16) (dst : Fin 4) (src : Fin 4) (rnd : Rnd)
  /-- Multiplies each element by 2^n. (R195) -/
  | vscale (a : Reg) (look : Fin 16) (dst : Fin 4) (src : Fin 4) (rnd : Rnd)
  /-- Sets a stream's bank range, base element and direction. (R206) -/
  | vsbase (a : Reg) (b : Reg) (look : Fin 16) (stream : Fin 4)
  /-- Sets the count and stride of one dimension of a stream. (R206) -/
  | vsdim (a : Reg) (b : Reg) (look : Fin 16) (stream : Fin 4) (dim : Fin 4)
  /-- Enables a stream and binds it to the thread. (R206) -/
  | vson (look : Fin 16) (stream : Fin 4)
  /-- Disables a stream that the thread owns. (R206) -/
  | vsoff (look : Fin 16) (stream : Fin 4)
  /-- Sets the thread's vector length. (R206) -/
  | vsetvl (a : Reg) (look : Fin 16)
  /-- Waits for the thread's earlier vector commands to complete. (R207) -/
  | vwait (look : Fin 16)
  /-- Clears an accumulator tile as one step. (R226) -/
  | mclr (look : Fin 16) (ms : Fin 4) (k : Fin 4)
  /-- FP32 matrix multiply-accumulate into an XA640 tile. (R224) -/
  | mmaw (a : Reg) (b : Reg) (look : Fin 16) (ms : Fin 4) (k : Fin 4)
  /-- BF16 or FP16 matrix multiply-accumulate. (R224) -/
  | mmah (a : Reg) (b : Reg) (look : Fin 16) (ms : Fin 4) (k : Fin 4)
  /-- FP8 matrix multiply-accumulate. (R224) -/
  | mmae (a : Reg) (b : Reg) (look : Fin 16) (ms : Fin 4) (k : Fin 4)
  /-- INT8 matrix multiply-accumulate. (R224) -/
  | mmai (a : Reg) (b : Reg) (look : Fin 16) (ms : Fin 4) (k : Fin 4)
  /-- BSI8 matrix multiply-accumulate. (R224) -/
  | mmas (a : Reg) (b : Reg) (look : Fin 16) (ms : Fin 4) (k : Fin 4)
  /-- Codebook-weight multiply-accumulate, one rounding per superblock. (R225) -/
  | mmaq (a : Reg) (b : Reg) (look : Fin 16) (ms : Fin 4) (k : Fin 4)
  /-- Reads an accumulator tile out with one rounding per element. (R226) -/
  | mrd (a : Reg) (b : Reg) (look : Fin 16) (ms : Fin 4) (k : Fin 4) (rnd : Rnd)
  /-- Loads a tile register from a bank tile. (R226) -/
  | mld (a : Reg) (b : Reg) (look : Fin 16) (ms : Fin 4)
  /-- Stores a tile register to a bank tile, optionally incrementing a chunk counter. (R226) -/
  | mst (a : Reg) (b : Reg) (look : Fin 16) (ms : Fin 4)
  /-- Waits for the thread's matrix commands on the masked streams. (R227) -/
  | mwait (look : Fin 16) (mask : Fin 16)
  /-- Configures the format and shape of a tile register. (R215) -/
  | mcfg (a : Reg) (look : Fin 16) (m : Fin 16)
  /-- Sets the thread's copy shape. (R237) -/
  | cshape (a : Reg) (b : Reg) (look : Fin 16)
  /-- Copies memory into a bank tile. (R238) -/
  | chl (a : Reg) (b : Reg) (look : Fin 16) (cnt : Fin 16) (ce : Bool)
  /-- Copies a bank tile to memory. (R238) -/
  | clh (a : Reg) (b : Reg) (look : Fin 16) (cnt : Fin 16) (ce : Bool)
  /-- Copies between bank tiles with format conversion. (R239) -/
  | cbb (a : Reg) (b : Reg) (look : Fin 16) (cnt : Fin 16) (ce : Bool) (rnd : Rnd)
  /-- Multicasts a tile to cluster members with conversion. (R245) -/
  | cmc (a : Reg) (b : Reg) (look : Fin 16) (cnt : Fin 16) (ce : Bool) (rnd : Rnd)
  /-- Sets the thread's index state. (R244) -/
  | cidx (a : Reg) (b : Reg) (look : Fin 16)
  /-- Gathers indexed elements from memory into a tile. (R238) -/
  | cgath (a : Reg) (b : Reg) (look : Fin 16) (cnt : Fin 16) (ce : Bool)
  /-- Scatters tile elements to indexed memory. (R238) -/
  | cscat (a : Reg) (b : Reg) (look : Fin 16) (cnt : Fin 16) (ce : Bool)
  /-- Waits for the thread's earlier copy commands. (R247) -/
  | cwait (look : Fin 16)
  /-- Loads the direction words of dimensions from the scratchpad. (R261) -/
  | qld (a : Reg) (b : Reg) (look : Fin 16)
  /-- Loads the shift words of dimensions from the scratchpad. (R261) -/
  | qscr (a : Reg) (b : Reg) (look : Fin 16)
  /-- Computes one coordinate into QRES and QRESF. (R262) -/
  | qpt (a : Reg) (b : Reg) (look : Fin 16) (gray : Bool) (rnd : Rnd)
  /-- Writes C points into a stream from the cursor. (R264) -/
  | qseq (a : Reg) (b : Reg) (look : Fin 16) (gray : Bool) (stream : Fin 4) (rnd : Rnd)
  /-- Sets the thread's cursor in constant time. (R263) -/
  | qskip (a : Reg) (look : Fin 16)
  /-- Waits for the thread's earlier QRN commands. (R266) -/
  | qwait (look : Fin 16)
  /-- Binds a bus handle to a group and a port. (R361) -/
  | objoin (a : Reg) (look : Fin 16) (h : Fin 4)
  /-- Agrees bytes by maximum over the group on the bus. (R377) -/
  | obmax (a : Reg) (b : Reg) (look : Fin 16) (h : Fin 4)
  /-- Sums exactly over the group on the counting bus. (R377) -/
  | obred (a : Reg) (b : Reg) (look : Fin 16) (h : Fin 4) (rnd : Rnd)
  /-- Reads a segment word into BRES. (R381) -/
  | obstat (a : Reg) (look : Fin 16) (h : Fin 4)
  /-- Unbinds a bus handle after its operations end. (R363) -/
  | obleave (look : Fin 16) (h : Fin 4)
  /-- Requests a calibration or sets the partition's LEND bit. (R379) -/
  | obcal (a : Reg) (look : Fin 16)
  /-- Waits for the thread's earlier OBS commands. (R380) -/
  | obwait (look : Fin 16)
  /-- Opens a collective queue for a communicator. (R400) -/
  | colq (a : Reg) (look : Fin 16)
  /-- Stages a collective in a queue slot. (R400) -/
  | colput (a : Reg) (b : Reg) (look : Fin 16)
  /-- Starts every staged collective of a queue. (R400) -/
  | colgo (a : Reg) (look : Fin 16)
  /-- Waits for a collective to complete or end. (R400) -/
  | colwt (a : Reg) (b : Reg) (look : Fin 16)
  /-- Cancels a queue's collectives and optionally closes the queue. (R400) -/
  | colcan (a : Reg) (b : Reg) (look : Fin 16)
  /-- Waits until the thread's earlier COL commands are performed. (R400) -/
  | colsync (look : Fin 16)
  /-- Adds a node to a graph, or clears the graph. (R344) -/
  | gnode (a : Reg) (b : Reg) (look : Fin 16)
  /-- Adds a completion or gambit edge. (R344) -/
  | gedge (a : Reg) (b : Reg) (look : Fin 16) (gmb : Bool)
  /-- Runs a graph, optionally placing a phase boundary. (R344) -/
  | grun (a : Reg) (b : Reg) (look : Fin 16) (phase : Bool)
  /-- Launches an image from a descriptor. (R344) -/
  | launch (a : Reg) (look : Fin 16)
  /-- Adds to a shape slot, optionally making it final. (R344) -/
  | shapeAdd (a : Reg) (b : Reg) (look : Fin 16) (fin : Bool)
  /-- Sets a shape slot, optionally making it final. (R344) -/
  | shapeSet (a : Reg) (b : Reg) (look : Fin 16) (fin : Bool)
  /-- Reads a shape slot into GFRES. (R344) -/
  | shapeRead (a : Reg) (b : Reg) (look : Fin 16)
  /-- Gives the shape of a gambit launch that has no input slot. (R344) -/
  | confirm (a : Reg) (b : Reg) (look : Fin 16)
  /-- Cancels a unit, launch, graph, phase or job. (R345) -/
  | cancel (a : Reg) (look : Fin 16) (level : CLevel)
  /-- Reads a completion counter or RESULT into GFRES. (R344) -/
  | compl (a : Reg) (look : Fin 16) (res : Bool) (level : CLevel)
  /-- Waits until the thread's earlier GRF commands are performed. (R346) -/
  | grfwait (look : Fin 16)
  /-- Creates a child context. (R302) -/
  | ctxnew (a : Reg) (b : Reg) (look : Fin 16)
  /-- Grants a child a Hilbert interval of cores. (R303) -/
  | grantCores (a : Reg) (b : Reg) (look : Fin 16)
  /-- Records a memory extent of a child and composes it. (R304) -/
  | grantMem (a : Reg) (b : Reg) (look : Fin 16)
  /-- Recomposes pages of a child extent. (R306) -/
  | grantPages (a : Reg) (b : Reg) (look : Fin 16)
  /-- Moves collective queues to a child. (R307) -/
  | grantQueues (a : Reg) (b : Reg) (look : Fin 16)
  /-- Moves bus-cell weight to a child. (R307) -/
  | grantCells (a : Reg) (b : Reg) (look : Fin 16)
  /-- Binds a virtual function to a context. (R307) -/
  | grantVf (a : Reg) (b : Reg) (look : Fin 16)
  /-- Withdraws a child's core grant. (R309) -/
  | revokeCores (a : Reg) (b : Reg) (look : Fin 16)
  /-- Withdraws a child extent from the whole subtree. (R309) -/
  | revokeMem (a : Reg) (b : Reg) (look : Fin 16)
  /-- Withdraws the composed entries of pages. (R309) -/
  | revokePages (a : Reg) (b : Reg) (look : Fin 16)
  /-- Takes collective queues back from a child. (R309) -/
  | revokeQueues (a : Reg) (b : Reg) (look : Fin 16)
  /-- Takes cell weight back from a child. (R309) -/
  | revokeCells (a : Reg) (b : Reg) (look : Fin 16)
  /-- Dissolves a VF binding. (R309) -/
  | revokeVf (a : Reg) (b : Reg) (look : Fin 16)
  /-- Deletes a child context and its subtree. (R313) -/
  | ctxdel (a : Reg) (look : Fin 16)
  /-- Moves energy to or from a child. (R307) -/
  | ctxbud (a : Reg) (b : Reg) (look : Fin 16)
  /-- Snapshots a context into GRES. (R314) -/
  | ctxstat (a : Reg) (look : Fin 16)
  /-- Makes a NEW child LIVE and launches its job. (R308) -/
  | ctxenter (a : Reg) (b : Reg) (look : Fin 16)
  /-- Passes a request record to the parent's area. (R315) -/
  | reflect (a : Reg) (look : Fin 16)
  /-- Waits for the thread's earlier VIR commands to complete. (R316) -/
  | virwait (look : Fin 16)
  /-- Requests power leave ahead of use. (R347) -/
  | eleave (a : Reg) (look : Fin 16)
  /-- Moves energy between the context and a launch. (R347) -/
  | ebud (a : Reg) (b : Reg) (look : Fin 16)
  /-- Reads an energy or leave quantity into PRES. (R347) -/
  | eread (a : Reg) (look : Fin 16)
  /-- Waits for the thread's PWR commands and leave grants. (R347) -/
  | pwait (look : Fin 16)
  /-- Reads a unit status word after earlier commands are accepted. (R57) -/
  | mfc (d : Reg) (unit : Fin 16) (word : Fin 128)
  /-- Element-wise 2^x. (R198) -/
  | vexp2 (look : Fin 16) (dst : Fin 4) (src : Fin 4) (rnd : Rnd)
  /-- Element-wise log2 x. (R198) -/
  | vlog2 (look : Fin 16) (dst : Fin 4) (src : Fin 4) (rnd : Rnd)
  /-- Element-wise reciprocal. (R198) -/
  | vrcp (look : Fin 16) (dst : Fin 4) (src : Fin 4) (rnd : Rnd)
  /-- Element-wise reciprocal square root. (R198) -/
  | vrsq (look : Fin 16) (dst : Fin 4) (src : Fin 4) (rnd : Rnd)
  /-- Adds stream elements exactly into a q accumulator. (R199) -/
  | vsumx (look : Fin 16) (dst : Fin 4) (src : Fin 4) (rnd : Rnd)
  /-- Adds exact products into a q accumulator. (R199) -/
  | vdotx (b : Reg) (look : Fin 16) (dst : Fin 4) (src : Fin 4) (rnd : Rnd)
  /-- Reads a q accumulator out into RES. (R199) -/
  | vrdq (a : Reg) (look : Fin 16) (dst : Fin 4) (rnd : Rnd)
  /-- Clears a q accumulator. (R199) -/
  | vclrq (look : Fin 16) (dst : Fin 4) (rnd : Rnd)
  /-- Writes the maximum of stream elements into RES. (R200) -/
  | vmaxr (a : Reg) (look : Fin 16) (src : Fin 4) (rnd : Rnd)
  /-- Sends a contribution for a maximum along a span of the rank. (R201) -/
  | vmaxx (a : Reg) (b : Reg) (look : Fin 16) (rnd : Rnd)
  /-- Quantises stream elements into codebook or BSI8 records. (R203) -/
  | vqnt (b : Reg) (look : Fin 16) (dst : Fin 4) (src : Fin 4) (rnd : Rnd)
  /-- Holds the thread until its earlier accesses in scope are performed. (R184) -/
  | fence (scope : Scope)
  /-- Makes the last earlier load or atomic act as an acquire. (R184) -/
  | fencea (scope : Scope)
  /-- Makes the next store or atomic act as a release. (R184) -/
  | fencer (scope : Scope)
  /-- Branches if a = b. (R114) -/
  | beq (a : Reg) (b : Reg) (off : BitVec 13)
  /-- Branches if a ≠ b. (R114) -/
  | bne (a : Reg) (b : Reg) (off : BitVec 13)
  /-- Branches if a < b as signed values. (R114) -/
  | blt (a : Reg) (b : Reg) (off : BitVec 13)
  /-- Branches if a ≥ b as signed values. (R114) -/
  | bge (a : Reg) (b : Reg) (off : BitVec 13)
  /-- Branches if a < b as unsigned values. (R114) -/
  | bltz (a : Reg) (b : Reg) (off : BitVec 13)
  /-- Branches if a ≥ b as unsigned values. (R114) -/
  | bgez (a : Reg) (b : Reg) (off : BitVec 13)
  /-- Jumps by a signed word offset. (R115) -/
  | j (off : BitVec 26)
  /-- Jumps by a signed word offset and writes the link into g1. (R115) -/
  | jal (off : BitVec 26)
  /-- Jumps to g[a], or traps JMIS if the target is unaligned. (R116) -/
  | jr (a : Reg)
  /-- Jumps to g[a] and writes the link into g[d]. (R116) -/
  | jalr (d : Reg) (a : Reg)
  /-- Sets up the level-0 hardware loop, or skips the body when the count is 0. (R120) -/
  | loop0 (a : Reg) (n : BitVec 12)
  /-- Sets up the level-1 hardware loop, nested inside level 0. (R120) -/
  | loop1 (a : Reg) (n : BitVec 12)
  /-- Floating-point addition, correctly rounded. (R96) -/
  | fadd (d : Reg) (a : Reg) (b : Reg) (prec : Prec) (rnd : Rnd)
  /-- Floating-point subtraction, correctly rounded. (R96) -/
  | fsub (d : Reg) (a : Reg) (b : Reg) (prec : Prec) (rnd : Rnd)
  /-- Floating-point multiplication, correctly rounded. (R96) -/
  | fmul (d : Reg) (a : Reg) (b : Reg) (prec : Prec) (rnd : Rnd)
  /-- Floating-point division, correctly rounded. (R96) -/
  | fdiv (d : Reg) (a : Reg) (b : Reg) (prec : Prec) (rnd : Rnd)
  /-- Floating-point square root, correctly rounded. (R96) -/
  | fsqrt (d : Reg) (a : Reg) (prec : Prec) (rnd : Rnd)
  /-- Computes a × b + d with one rounding. (R96) -/
  | fma (d : Reg) (a : Reg) (b : Reg) (prec : Prec) (rnd : Rnd)
  /-- Computes d − a × b with one rounding. (R96) -/
  | fms (d : Reg) (a : Reg) (b : Reg) (prec : Prec) (rnd : Rnd)
  /-- Computes a × b − d with one rounding. (R96) -/
  | fnms (d : Reg) (a : Reg) (b : Reg) (prec : Prec) (rnd : Rnd)
  /-- Floating-point minimum with the NaN and signed-zero rules. (R97) -/
  | fmin (d : Reg) (a : Reg) (b : Reg) (prec : Prec)
  /-- Floating-point maximum with the NaN and signed-zero rules. (R97) -/
  | fmax (d : Reg) (a : Reg) (b : Reg) (prec : Prec)
  /-- Takes the magnitude of a and the sign of b. (R97) -/
  | fsgn (d : Reg) (a : Reg) (b : Reg) (prec : Prec)
  /-- Takes the magnitude of a and the inverted sign of b. (R97) -/
  | fsgnn (d : Reg) (a : Reg) (b : Reg) (prec : Prec)
  /-- Takes the magnitude of a and the XOR of both signs. (R97) -/
  | fsgnx (d : Reg) (a : Reg) (b : Reg) (prec : Prec)
  /-- Narrows FP64 to FP32 with rounding. (R98) -/
  | fdtos (d : Reg) (a : Reg) (rnd : Rnd)
  /-- Widens FP32 to FP64 exactly. (R98) -/
  | fstod (d : Reg) (a : Reg)
  /-- Narrows FP32 to FP16 with rounding. (R98) -/
  | fstoh (d : Reg) (a : Reg) (rnd : Rnd)
  /-- Widens FP16 to FP32 exactly. (R98) -/
  | fhtos (d : Reg) (a : Reg)
  /-- Narrows FP32 to BF16 with rounding. (R98) -/
  | fstob (d : Reg) (a : Reg) (rnd : Rnd)
  /-- Widens BF16 to FP32 exactly. (R98) -/
  | fbtos (d : Reg) (a : Reg)
  /-- Converts a float to a clamped integer. (R99) -/
  | ftoi (d : Reg) (a : Reg) (prec : Prec) (long : Bool) (z : Bool) (rnd : Rnd)
  /-- Converts an integer to a float with rounding. (R99) -/
  | itof (d : Reg) (a : Reg) (prec : Prec) (long : Bool) (z : Bool) (rnd : Rnd)
  /-- Moves the bits of an f register into a g register. (R101) -/
  | fmvgf (d : Reg) (a : Reg)
  /-- Moves the bits of a g register into an f register. (R101) -/
  | fmvfg (d : Reg) (a : Reg)
  /-- Floating-point equality compare into a g register. (R98) -/
  | feq (d : Reg) (a : Reg) (b : Reg) (prec : Prec)
  /-- Floating-point less-than compare into a g register. (R98) -/
  | flt (d : Reg) (a : Reg) (b : Reg) (prec : Prec)
  /-- Floating-point less-or-equal compare into a g register. (R98) -/
  | fle (d : Reg) (a : Reg) (b : Reg) (prec : Prec)
  /-- Writes the one-hot class mask of a into g[d]. (R100) -/
  | fclass (d : Reg) (a : Reg) (prec : Prec)
  /-- Does nothing. (R112) -/
  | nop
  /-- Reads a system register into g[d]. (R113) -/
  | srr (d : Reg) (num : BitVec 12)
  /-- Writes g[a] to a system register under its field map; this row covers registers without a row of their own. (R113) -/
  | srw (a : Reg) (num : BitVec 12)
  /-- Takes the software trap SWT with a code. (R125) -/
  | trap (code : BitVec 12)
  /-- Halts for the debugger, or takes the trap BKPT. (R125) -/
  | brk (code : BitVec 12)
  /-- Returns from the trap handler to TEPC. (R126) -/
  | rte
  /-- Starts a helper thread context and returns its id, or NORES. (R129) -/
  | hstart (d : Reg) (a : Reg) (b : Reg)
  /-- Drains the thread's commands, then ends the thread with an exit value. (R130) -/
  | hexit (a : Reg)
  /-- Waits for masked helpers and sums their exit values. (R131) -/
  | hjoin (d : Reg) (a : Reg)
  /-- Waits until a local word differs from the compared value. (R132) -/
  | waitm (d : Reg) (a : Reg) (b : Reg)
  /-- Passes the thread's issue turns to the other ready threads. (R133) -/
  | yield
  /-- Offers the unit to the scheduler at a blocking point. (R133) -/
  | yieldu
  /-- SRW to a bank's format register, waiting for earlier formatted accesses. (R38) -/
  | bfmtWrite (h tid : Nat)
  /-- Root write of an L2 allocation mask; other contexts set PDENY. (R297) -/
  | waymaskWrite (h : Nat) (v : Word)
  /-- Write of the watchdog LIMIT, which may only lower it. (R421) -/
  | wdogWrite (h : Nat) (v : Word)
  /-- A nonzero write activates a hardware loop level. (R122) -/
  | lcntWrite (h tid : Nat) (level : Fin 2) (v : Word)
  /-- Posts a trap record to the service core and rings DOORBELL. (R412) -/
  | trapMessagePost (n : Nat)
  /-- A nonzero REPLY write consumes a trap record, as RESUME or KILL. (R413) -/
  | trapReplyConsume (h off : Nat) (v : Word)
  /-- A late fault enters the thread's queue, or is lost. (R406) -/
  | lateFaultArrival (h tid code : Nat) (ply : Word32) (addr : Word) (unit : Nat)
  /-- Delivers a queued late fault at an instruction boundary. (R408) -/
  | lateFaultDelivery (h tid : Nat)
  /-- A waiting thread becomes ready when its wake condition holds. (R108) -/
  | threadWake (h tid : Nat)
  /-- A unit accepts a command waiting at dispatch once capacity frees. (R65) -/
  | unitAcceptCommand (h tid : Nat)
  /-- A home performs an arriving access in arrival order. (R163) -/
  | homePerformAccess (sel : AccessSel)
  /-- The last user of a DRAINING tile finishes: swap or undefine. (R161) -/
  | tileDrainEnd (h e : Nat)
  /-- Posts a page request into the handler's area and rings DOORBELL. (R287) -/
  | pageRequestPost (n : Nat)
  /-- A nonzero REPLY write consumes a page request, as RETRY or DENY. (R288) -/
  | pageReplyConsume (h off : Nat) (v : Word)
  /-- A waiting agent restarts its walk or access after the reply. (R288) -/
  | walkRestart (agent : WalkAgent)
  /-- A write to INVCTL starts a TLB invalidation. (R291) -/
  | invalidationRequest (h off : Nat) (v : Word)
  /-- Writes INVDONE once the invalidation and its drain are complete. (R291) -/
  | invalidationDone (n : Nat)
  /-- Each cycle, places waiting units on eligible cores. (R330) -/
  | unitPlacement (part : Nat)
  /-- Evicts a unit whose threads all wait at blocking points. (R414) -/
  | unitEvict (h : Nat)
  /-- A unit waiting 2 ms is raised one class. (R332) -/
  | unitAging (lnum index : Nat)
  /-- The unit completes when HEXIT of thread 0 is done and UCNT is 0. (R128) -/
  | unitComplete (h : Nat)
  /-- At a phase boundary, commits the ending phase and starts the graph. (R429) -/
  | phaseCommit (ctx graph : Nat)
  /-- Charges drawn energy to launches at least every 1 µs. (R334) -/
  | energyMeter (lnum nj : Nat)
  /-- The die power manager grants a waiting leave request. (R335) -/
  | leaveGrant (die : Nat)
  /-- Releases leave after 2,048 idle cycles. (R230) -/
  | leaveRelease (h engine : Nat)
  /-- Throttles engines past THROT or the current limit. (R454) -/
  | thermalThrottle (die level : Nat)
  /-- At TRIP, stops every unit and cuts core power. (R454) -/
  | thermalTrip (die : Nat)
  /-- COUNT reaches LIMIT × 2^20: threads stop and a WDT record is posted. (R423) -/
  | watchdogExpire (h : Nat)
  /-- Stops a resident unit after 2^20 cycles without a cancel point. (R311) -/
  | forcedUnitStop (h : Nat)
  /-- A VMAXX contribution arrives at a core of the span. (R201) -/
  | vmaxxContribution (n : Nat)
  /-- A VMAXX not combined after 2^24 cycles completes with TMO. (R202) -/
  | vmaxxTimeout (h seq : Nat)
  /-- An arrival message reaches a member and combines. (R251) -/
  | barrierArrival (n : Nat)
  /-- A release message sets RGEN ← GEN. (R251) -/
  | barrierRelease (n : Nat)
  /-- The vector unit checks and performs its next accepted command. (R192) -/
  | vectorCommandPerform (h : Nat)
  /-- An engine performs one indivisible step. (R218) -/
  | matrixEngineStep (h ms : Nat)
  /-- A matrix command completes. (R229) -/
  | matrixCommandComplete (h ms : Nat)
  /-- The copy engine starts an accepted command. (R241) -/
  | copyCommandStart (h n : Nat)
  /-- A copy command completes, with flags and any late fault. (R241) -/
  | copyCommandComplete (h n : Nat)
  /-- The quasi-random unit checks and performs its next command. (R267) -/
  | qrnCommandPerform (h : Nat)
  /-- At a chunk boundary, the engine chooses and runs a step. (R395) -/
  | collectiveChunkStep (die : Nat)
  /-- An engine pops the route head of a packet and acts on it. (R392) -/
  | collectivePacketReceive (die : Nat) (p : ColPacket)
  /-- COLTMO expires: the collective ends with TMO. (R397) -/
  | collectiveTimeout (die queue seq : Nat)
  /-- A 128 ns frame of the segment carries its cells. (R350) -/
  | busFrame (h handle : Nat) (rx : List BusRx)
  /-- Calibrates the thresholds, transmit delays and WLIM of a segment. (R353) -/
  | calibration (seg wlim : Nat) (excluded : List Nat)
  /-- A port trains to a rate; CUSE and guarantees are recomputed. (R356) -/
  | portTrainingDone (port rate : Nat) (ok : Bool)
  /-- The frame allocator grants a lease or NOSLOT. (R359) -/
  | leaseRequest (h handle : Nat) (lent pool : Nat)
  /-- The segment master checks a join against the group. (R362) -/
  | groupJoinCheck (h handle : Nat)
  /-- COLTMO of a bus operation expires with TMO. (R361) -/
  | busOpTimeout (h handle : Nat)
  /-- At T the interval stops, drains and swaps partition state. (R418) -/
  | castleStop (part : Nat)
  /-- At T + 32,000 the incoming partner's threads issue again. (R418) -/
  | castleResume (part : Nat)
  /-- A home returns a flush token after earlier accesses. (R419) -/
  | flushTokenReturn (h : Nat)
  /-- A single-bit error is corrected and counted. (R426) -/
  | correctableError (e : SoftError)
  /-- A link flit fails its CRC and is resent. (R426) -/
  | linkCrcError (h : Nat)
  /-- An uncorrectable error is charged to a tenant. (R428) -/
  | uncorrectableError (place : ErrPlace)
  /-- Charges covering tenants and fences the way. (R435) -/
  | l2TagParityError (die way spa : Nat)
  /-- The previous units have left the granted cores. (R303) -/
  | coreGrantComplete (ctx : Nat)
  /-- A revocation's drain ends and the quantity returns. (R312) -/
  | revocationComplete (n : Nat)
  /-- The deletion drain ends and the numbers are free. (R313) -/
  | contextDeleteComplete (ctx : Nat)
  /-- The drain of cores leaving a partition completes. (R293) -/
  | prepareDrainDone
  /-- A host access through VF BAR2 is translated by stage 2. (R438) -/
  | hostBar2Access (vf off size : Nat) (store : Option Word)
  /-- Writing 1 to GO checks and launches a job. (R440) -/
  | jobgoWrite (vf : Nat)
  /-- Stores a message and atomically counts it in the context. (R441) -/
  | hmsgWrite (vf : Nat) (v : Word)
  /-- A host write to a VF register without a row of its own. (R439) -/
  | bar0RegisterWrite (vf off : Nat) (v : Word)
  /-- A PCI Express FLR of a VF. (R437) -/
  | functionLevelReset (vf : Nat)
  /-- The PF clears VF Enable, resetting every VF. (R449) -/
  | vfEnableClear
  /-- The reset's drains end and access is restored. (R449) -/
  | vfResetEnd (vf : Nat)
  /-- The management processor answers a root's fault or trap. (R452) -/
  | mpServeRootRequest (n : Nat)
  /-- Verifies, measures and initialises the module at reset. (R442) -/
  | boot (b : BootImage)
  /-- Sets the module's number in the domain. (R443) -/
  | modnum (slot : Fin 16) (cmd : BitVec 512)
  /-- Creates a partition and its root. (R446) -/
  | pcreate (slot : Fin 16) (cmd : BitVec 512)
  /-- Deletes a partition's root and frees its interval. (R445) -/
  | pdestroy (slot : Fin 16) (cmd : BitVec 512)
  /-- Checks and drains a new partition layout. (R293) -/
  | prepare (slot : Fin 16) (cmd : BitVec 512)
  /-- Applies a prepared layout in one cycle. (R293) -/
  | commit (slot : Fin 16) (cmd : BitVec 512)
  /-- Abandons a prepared layout. (R293) -/
  | abort (slot : Fin 16) (cmd : BitVec 512)
  /-- Gives VFs to a partition, or takes them back. (R445) -/
  | vfassign (slot : Fin 16) (cmd : BitVec 512)
  /-- Sets castling pairs and slice times. (R417) -/
  | slice (slot : Fin 16) (cmd : BitVec 512)
  /-- Sets a die's leave capacity. (R454) -/
  | leavecap (slot : Fin 16) (cmd : BitVec 512)
  /-- Halts a thread or its unit. (R424) -/
  | debugHalt (slot : Fin 16) (cmd : BitVec 512)
  /-- Single-steps a halted thread. (R424) -/
  | debugStep (slot : Fin 16) (cmd : BitVec 512)
  /-- Resumes a halted thread or unit. (R424) -/
  | debugResume (slot : Fin 16) (cmd : BitVec 512)
  /-- Sets TSTAT.HALTEN of a thread. (R424) -/
  | debugHalten (slot : Fin 16) (cmd : BitVec 512)
  /-- Reads a halted thread's register. (R445) -/
  | debugRead (slot : Fin 16) (cmd : BitVec 512)
  /-- Writes a halted thread's register. (R445) -/
  | debugWrite (slot : Fin 16) (cmd : BitVec 512)
  /-- Copies a halted thread's ply ring to the host. (R409) -/
  | debugRing (slot : Fin 16) (cmd : BitVec 512)
  /-- Signs a report of measurements and layouts. (R450) -/
  | attest (slot : Fin 16) (cmd : BitVec 512)
  /-- Writes a module summary and clears the report list. (R451) -/
  | summary (slot : Fin 16) (cmd : BitVec 512)
  /-- Scrubs and unfences an L2 way. (R435) -/
  | unfence (slot : Fin 16) (cmd : BitVec 512)
  /-- Sets the PRESENT map and the port assignments. (R447) -/
  | domain (slot : Fin 16) (cmd : BitVec 512)
  /-- Writes or deletes domain-group entries. (R448) -/
  | grouptab (slot : Fin 16) (cmd : BitVec 512)
  /-- Command that performs a VF reset. (R449) -/
  | vfreset (slot : Fin 16) (cmd : BitVec 512)
  /-- A command slot with an unlisted OP returns BADARG. (R443) -/
  | mcmdReservedOp (slot : Fin 16) (cmd : BitVec 512)
  /-- A join result, lease grant or abort of an Eweus group arrives at a member module over the domain's management network. (R349) -/
  | managementNetworkMessage (m : NetMsg)
  /-- Die d is clock-gated or ungated, which stops or restarts the modulators and photodetectors of its Eweus ports. (R17) -/
  | dieClockGating (die : Nat) (gated : Bool)
  deriving DecidableEq, Repr

/-- The row of the opcode table that an event is. -/
noncomputable def Event.toInstr : Event → Instr
  | .bfmtWrite h tid => .bfmtWrite h tid
  | .waymaskWrite h v => .waymaskWrite h v
  | .wdogWrite h v => .wdogWrite h v
  | .lcntWrite h tid level v => .lcntWrite h tid level v
  | .trapMessagePost n => .trapMessagePost n
  | .trapReplyConsume h off v => .trapReplyConsume h off v
  | .lateFaultArrival h tid code ply addr unit => .lateFaultArrival h tid code ply addr unit
  | .lateFaultDelivery h tid => .lateFaultDelivery h tid
  | .threadWake h tid => .threadWake h tid
  | .unitAcceptCommand h tid => .unitAcceptCommand h tid
  | .homePerformAccess sel => .homePerformAccess sel
  | .tileDrainEnd h e => .tileDrainEnd h e
  | .pageRequestPost n => .pageRequestPost n
  | .pageReplyConsume h off v => .pageReplyConsume h off v
  | .walkRestart agent => .walkRestart agent
  | .invalidationRequest h off v => .invalidationRequest h off v
  | .invalidationDone n => .invalidationDone n
  | .unitPlacement part => .unitPlacement part
  | .unitEvict h => .unitEvict h
  | .unitAging lnum index => .unitAging lnum index
  | .unitComplete h => .unitComplete h
  | .phaseCommit ctx graph => .phaseCommit ctx graph
  | .energyMeter lnum nj => .energyMeter lnum nj
  | .leaveGrant die => .leaveGrant die
  | .leaveRelease h engine => .leaveRelease h engine
  | .thermalThrottle die level => .thermalThrottle die level
  | .thermalTrip die => .thermalTrip die
  | .watchdogExpire h => .watchdogExpire h
  | .forcedUnitStop h => .forcedUnitStop h
  | .vmaxxContribution n => .vmaxxContribution n
  | .vmaxxTimeout h seq => .vmaxxTimeout h seq
  | .barrierArrival n => .barrierArrival n
  | .barrierRelease n => .barrierRelease n
  | .vectorCommandPerform h => .vectorCommandPerform h
  | .matrixEngineStep h ms => .matrixEngineStep h ms
  | .matrixCommandComplete h ms => .matrixCommandComplete h ms
  | .copyCommandStart h n => .copyCommandStart h n
  | .copyCommandComplete h n => .copyCommandComplete h n
  | .qrnCommandPerform h => .qrnCommandPerform h
  | .collectiveChunkStep die => .collectiveChunkStep die
  | .collectivePacketReceive die p => .collectivePacketReceive die p
  | .collectiveTimeout die queue seq => .collectiveTimeout die queue seq
  | .busFrame h handle rx => .busFrame h handle rx
  | .calibration seg wlim excluded => .calibration seg wlim excluded
  | .portTrainingDone port rate ok => .portTrainingDone port rate ok
  | .leaseRequest h handle lent pool => .leaseRequest h handle lent pool
  | .groupJoinCheck h handle => .groupJoinCheck h handle
  | .busOpTimeout h handle => .busOpTimeout h handle
  | .castleStop part => .castleStop part
  | .castleResume part => .castleResume part
  | .flushTokenReturn h => .flushTokenReturn h
  | .correctableError e => .correctableError e
  | .linkCrcError h => .linkCrcError h
  | .uncorrectableError place => .uncorrectableError place
  | .l2TagParityError die way spa => .l2TagParityError die way spa
  | .coreGrantComplete ctx => .coreGrantComplete ctx
  | .revocationComplete n => .revocationComplete n
  | .contextDeleteComplete ctx => .contextDeleteComplete ctx
  | .prepareDrainDone => .prepareDrainDone
  | .hostBar2Access vf off size store => .hostBar2Access vf off size store
  | .jobgoWrite vf => .jobgoWrite vf
  | .hmsgWrite vf v => .hmsgWrite vf v
  | .bar0RegisterWrite vf off v => .bar0RegisterWrite vf off v
  | .functionLevelReset vf => .functionLevelReset vf
  | .vfEnableClear => .vfEnableClear
  | .vfResetEnd vf => .vfResetEnd vf
  | .mpServeRootRequest n => .mpServeRootRequest n
  | .boot b => .boot b
  | .modnum slot cmd => .modnum slot cmd
  | .pcreate slot cmd => .pcreate slot cmd
  | .pdestroy slot cmd => .pdestroy slot cmd
  | .prepare slot cmd => .prepare slot cmd
  | .commit slot cmd => .commit slot cmd
  | .abort slot cmd => .abort slot cmd
  | .vfassign slot cmd => .vfassign slot cmd
  | .slice slot cmd => .slice slot cmd
  | .leavecap slot cmd => .leavecap slot cmd
  | .debugHalt slot cmd => .debugHalt slot cmd
  | .debugStep slot cmd => .debugStep slot cmd
  | .debugResume slot cmd => .debugResume slot cmd
  | .debugHalten slot cmd => .debugHalten slot cmd
  | .debugRead slot cmd => .debugRead slot cmd
  | .debugWrite slot cmd => .debugWrite slot cmd
  | .debugRing slot cmd => .debugRing slot cmd
  | .attest slot cmd => .attest slot cmd
  | .summary slot cmd => .summary slot cmd
  | .unfence slot cmd => .unfence slot cmd
  | .domain slot cmd => .domain slot cmd
  | .grouptab slot cmd => .grouptab slot cmd
  | .vfreset slot cmd => .vfreset slot cmd
  | .mcmdReservedOp slot cmd => .mcmdReservedOp slot cmd
  | .managementNetworkMessage m => .managementNetworkMessage m
  | .dieClockGating die gated => .dieClockGating die gated

/-- The words of majors 0x23–0x2A, whose constructors of `Instr` stand beyond those that compiled code can build:
the decoder that runs a program answers these. -/
inductive High where
  /-- Jumps by a signed word offset. (R115) -/
  | j (off : BitVec 26)
  /-- Jumps by a signed word offset and writes the link into g1. (R115) -/
  | jal (off : BitVec 26)
  /-- Jumps to g[a], or traps JMIS if the target is unaligned. (R116) -/
  | jr (a : Reg)
  /-- Jumps to g[a] and writes the link into g[d]. (R116) -/
  | jalr (d : Reg) (a : Reg)
  /-- Sets up the level-0 hardware loop, or skips the body when the count is 0. (R120) -/
  | loop0 (a : Reg) (n : BitVec 12)
  /-- Sets up the level-1 hardware loop, nested inside level 0. (R120) -/
  | loop1 (a : Reg) (n : BitVec 12)
  /-- Floating-point addition, correctly rounded. (R96) -/
  | fadd (d : Reg) (a : Reg) (b : Reg) (prec : Prec) (rnd : Rnd)
  /-- Floating-point subtraction, correctly rounded. (R96) -/
  | fsub (d : Reg) (a : Reg) (b : Reg) (prec : Prec) (rnd : Rnd)
  /-- Floating-point multiplication, correctly rounded. (R96) -/
  | fmul (d : Reg) (a : Reg) (b : Reg) (prec : Prec) (rnd : Rnd)
  /-- Floating-point division, correctly rounded. (R96) -/
  | fdiv (d : Reg) (a : Reg) (b : Reg) (prec : Prec) (rnd : Rnd)
  /-- Floating-point square root, correctly rounded. (R96) -/
  | fsqrt (d : Reg) (a : Reg) (prec : Prec) (rnd : Rnd)
  /-- Computes a × b + d with one rounding. (R96) -/
  | fma (d : Reg) (a : Reg) (b : Reg) (prec : Prec) (rnd : Rnd)
  /-- Computes d − a × b with one rounding. (R96) -/
  | fms (d : Reg) (a : Reg) (b : Reg) (prec : Prec) (rnd : Rnd)
  /-- Computes a × b − d with one rounding. (R96) -/
  | fnms (d : Reg) (a : Reg) (b : Reg) (prec : Prec) (rnd : Rnd)
  /-- Floating-point minimum with the NaN and signed-zero rules. (R97) -/
  | fmin (d : Reg) (a : Reg) (b : Reg) (prec : Prec)
  /-- Floating-point maximum with the NaN and signed-zero rules. (R97) -/
  | fmax (d : Reg) (a : Reg) (b : Reg) (prec : Prec)
  /-- Takes the magnitude of a and the sign of b. (R97) -/
  | fsgn (d : Reg) (a : Reg) (b : Reg) (prec : Prec)
  /-- Takes the magnitude of a and the inverted sign of b. (R97) -/
  | fsgnn (d : Reg) (a : Reg) (b : Reg) (prec : Prec)
  /-- Takes the magnitude of a and the XOR of both signs. (R97) -/
  | fsgnx (d : Reg) (a : Reg) (b : Reg) (prec : Prec)
  /-- Narrows FP64 to FP32 with rounding. (R98) -/
  | fdtos (d : Reg) (a : Reg) (rnd : Rnd)
  /-- Widens FP32 to FP64 exactly. (R98) -/
  | fstod (d : Reg) (a : Reg)
  /-- Narrows FP32 to FP16 with rounding. (R98) -/
  | fstoh (d : Reg) (a : Reg) (rnd : Rnd)
  /-- Widens FP16 to FP32 exactly. (R98) -/
  | fhtos (d : Reg) (a : Reg)
  /-- Narrows FP32 to BF16 with rounding. (R98) -/
  | fstob (d : Reg) (a : Reg) (rnd : Rnd)
  /-- Widens BF16 to FP32 exactly. (R98) -/
  | fbtos (d : Reg) (a : Reg)
  /-- Converts a float to a clamped integer. (R99) -/
  | ftoi (d : Reg) (a : Reg) (prec : Prec) (long : Bool) (z : Bool) (rnd : Rnd)
  /-- Converts an integer to a float with rounding. (R99) -/
  | itof (d : Reg) (a : Reg) (prec : Prec) (long : Bool) (z : Bool) (rnd : Rnd)
  /-- Moves the bits of an f register into a g register. (R101) -/
  | fmvgf (d : Reg) (a : Reg)
  /-- Moves the bits of a g register into an f register. (R101) -/
  | fmvfg (d : Reg) (a : Reg)
  /-- Floating-point equality compare into a g register. (R98) -/
  | feq (d : Reg) (a : Reg) (b : Reg) (prec : Prec)
  /-- Floating-point less-than compare into a g register. (R98) -/
  | flt (d : Reg) (a : Reg) (b : Reg) (prec : Prec)
  /-- Floating-point less-or-equal compare into a g register. (R98) -/
  | fle (d : Reg) (a : Reg) (b : Reg) (prec : Prec)
  /-- Writes the one-hot class mask of a into g[d]. (R100) -/
  | fclass (d : Reg) (a : Reg) (prec : Prec)
  /-- Does nothing. (R112) -/
  | nop
  /-- Reads a system register into g[d]. (R113) -/
  | srr (d : Reg) (num : BitVec 12)
  /-- Writes g[a] to a system register under its field map; this row covers registers without a row of their own. (R113) -/
  | srw (a : Reg) (num : BitVec 12)
  /-- Takes the software trap SWT with a code. (R125) -/
  | trap (code : BitVec 12)
  /-- Halts for the debugger, or takes the trap BKPT. (R125) -/
  | brk (code : BitVec 12)
  /-- Returns from the trap handler to TEPC. (R126) -/
  | rte
  /-- Starts a helper thread context and returns its id, or NORES. (R129) -/
  | hstart (d : Reg) (a : Reg) (b : Reg)
  /-- Drains the thread's commands, then ends the thread with an exit value. (R130) -/
  | hexit (a : Reg)
  /-- Waits for masked helpers and sums their exit values. (R131) -/
  | hjoin (d : Reg) (a : Reg)
  /-- Waits until a local word differs from the compared value. (R132) -/
  | waitm (d : Reg) (a : Reg) (b : Reg)
  /-- Passes the thread's issue turns to the other ready threads. (R133) -/
  | yield
  /-- Offers the unit to the scheduler at a blocking point. (R133) -/
  | yieldu
  deriving DecidableEq, Repr

/-- The row of the opcode table that such a word is. -/
noncomputable def High.toInstr : High → Instr
  | .j off => .j off
  | .jal off => .jal off
  | .jr a => .jr a
  | .jalr d a => .jalr d a
  | .loop0 a n => .loop0 a n
  | .loop1 a n => .loop1 a n
  | .fadd d a b prec rnd => .fadd d a b prec rnd
  | .fsub d a b prec rnd => .fsub d a b prec rnd
  | .fmul d a b prec rnd => .fmul d a b prec rnd
  | .fdiv d a b prec rnd => .fdiv d a b prec rnd
  | .fsqrt d a prec rnd => .fsqrt d a prec rnd
  | .fma d a b prec rnd => .fma d a b prec rnd
  | .fms d a b prec rnd => .fms d a b prec rnd
  | .fnms d a b prec rnd => .fnms d a b prec rnd
  | .fmin d a b prec => .fmin d a b prec
  | .fmax d a b prec => .fmax d a b prec
  | .fsgn d a b prec => .fsgn d a b prec
  | .fsgnn d a b prec => .fsgnn d a b prec
  | .fsgnx d a b prec => .fsgnx d a b prec
  | .fdtos d a rnd => .fdtos d a rnd
  | .fstod d a => .fstod d a
  | .fstoh d a rnd => .fstoh d a rnd
  | .fhtos d a => .fhtos d a
  | .fstob d a rnd => .fstob d a rnd
  | .fbtos d a => .fbtos d a
  | .ftoi d a prec long z rnd => .ftoi d a prec long z rnd
  | .itof d a prec long z rnd => .itof d a prec long z rnd
  | .fmvgf d a => .fmvgf d a
  | .fmvfg d a => .fmvfg d a
  | .feq d a b prec => .feq d a b prec
  | .flt d a b prec => .flt d a b prec
  | .fle d a b prec => .fle d a b prec
  | .fclass d a prec => .fclass d a prec
  | .nop => .nop
  | .srr d num => .srr d num
  | .srw a num => .srw a num
  | .trap code => .trap code
  | .brk code => .brk code
  | .rte => .rte
  | .hstart d a b => .hstart d a b
  | .hexit a => .hexit a
  | .hjoin d a => .hjoin d a
  | .waitm d a b => .waitm d a b
  | .yield => .yield
  | .yieldu => .yieldu

end Sys2Proof
end

