-- ==== Sys2Proof/Machine/State.lean ====
section
/-! DEFINITION. The state of one GX9 module as plain data: every register, table, queue and record the
spec gives the machine, and the model's own fields (the agenda, the choice tape, counters). -/

namespace Sys2Proof.Machine

/-- What stops the machine with a fault. -/
inductive Fault where
  /-- The management processor has cut core power at TRIP (R454); raised by `step` only. Safe: no program
  runs on a module without core power. -/
  | powerCut
  deriving DecidableEq, Repr

/-- Why a step has no meaning in the model. -/
inductive Refusal where
  /-- An instruction whose meaning is not written yet; raised by an arm of `exec` only. Safe: it stops. -/
  | notModelled (mnemonic : String)
  deriving DecidableEq, Repr

/-- A unit: one dispatched instance of a launch (R8, R81, R137). -/
structure UnitId where
  ctx : Nat
  lnum : Nat
  index : Nat
  deriving DecidableEq, Repr

/-! ## A thread context (R78, R102, R110) -/

/-- One hardware-loop level (R119). -/
structure Loop where
  cnt : Word
  sta : Word
  lend : Word
  deriving DecidableEq, Repr

/-- An entry of the ply ring (R67). -/
structure PlyEntry where
  ply : Word32
  addr : Word
  word : Word32
  deriving DecidableEq, Repr

/-- A queued late fault (R405, R406). -/
structure LateFault where
  code : Nat
  ply : Word32
  addr : Word
  unit : Nat
  deriving DecidableEq, Repr

/-- A pending instruction and its lookahead window (R61–R63): its access, how many instructions the
thread issued since, and the register of its pending set (0–31 g, 32–63 f). -/
structure Pend where
  access : Nat
  look : Nat
  since : Nat
  reg : Option Nat
  deriving DecidableEq, Repr

/-- A load or an atomic that its home has refused: its access, its address, and the cause of the LREF that it is to take
(R144). -/
structure Refused where
  access : Nat
  epc : Word
  cause : Word
  deriving DecidableEq, Repr

/-- Registers that instructions name directly (R78). -/
structure Regs where
  g : Vector Word 32
  f : Vector Word 32
  pc : Word
  fflags : BitVec 6
  loop0 : Loop
  loop1 : Loop
  deriving DecidableEq, Repr

/-- Trap-control registers (R123, R404). -/
structure TrapRegs where
  tvec : Word
  tepc : Word
  tcause : Word
  ply : Word32
  lost : BitVec 8
  halten : Bool
  inh : Bool
  deriving DecidableEq, Repr

/-- A copy shape (R237). -/
structure Shape where
  rows : Nat
  rowb : Nat
  dpitch : Nat
  spitch : Nat
  deriving DecidableEq, Repr

/-- The index state of gather and scatter (R244). -/
structure IndexSt where
  off : Nat
  entry : Nat
  esz : Nat
  count : Nat
  deriving DecidableEq, Repr

/-- The status and result words of the units, one copy per thread (R162, R209, R233, R254, R271, R317,
R348, R382, R402), with the vector length, the copy shape and index, and the cursor. -/
structure UnitWords where
  tstatus : Word
  vlen : Nat
  res : Word
  vxstat : Nat
  vcstat : Nat
  mcstat : Nat
  shape : Option Shape
  index : Option IndexSt
  cstat : Nat
  disc : Bool
  sstat : Nat
  qcur : Nat
  qres : BitVec 48
  qresf : Word32
  gstat : Nat
  gres : Word
  gfstat : Nat
  gfres : Word
  pstat : Nat
  pwait : Nat
  pres : Word
  bstat : Nat
  bshort : Bool
  bdisc : Bool
  bres : Word
  clstat : Nat
  cldisc : Bool
  clres : Word
  deriving DecidableEq, Repr

/-- A command waiting at dispatch: the unit (numbered as for MFC, R57), its word's address, the word,
the operands read at dispatch and whether it carries a scalar broadcast (R65). -/
structure Dispatch where
  unit : Nat
  addr : Word
  word : Word32
  deriving DecidableEq, Repr

/-- Where a faulting agent stands with its page request: none; it waits on a tag of a context; every tag of
the context is taken; its request has been answered, RETRY or DENY (R283, R288, R289). -/
inductive PageWait where
  | none
  | tag (ctx tag : Nat)
  | full (ctx : Nat)
  | replied (deny : Bool)
  deriving DecidableEq, Repr

/-- What a thread waits for (R107, R65, R145, R178). `page` holds the address and the access kind for the
PDEN trap, `unitDone` the mask of streams that MWAIT names; `woken`: the condition of a WAITC, BARWT or TBWAIT has
held (R108, R249). -/
inductive Wait where
  | none
  | woken
  | hjoin (d : Reg) (ids : List Nat) (since : Nat)
  | hexit (v : Word)
  | waitm (addr cmp : Word)
  | yieldu
  | trapReply (post : Nat)
  | wdtStop
  | waitc (n : Nat)
  | barwt (n : Nat)
  | tbwait (e : Nat) (st : TileSt)
  | colwt (die queue seq : Nat)
  | page (p : PageWait) (va : Word) (kind : Nat)
  | dispatch (d : Dispatch)
  | unitDone (unit mask : Nat)
  | bfmt (n : Nat) (v : Word)
  | confirm
  deriving DecidableEq, Repr

/-- One thread context: a register bank's contents (R78, R81). `bound` names the f registers that VSON has bound
to streams (R80, R189). -/
structure Thread where
  r : Regs
  t : TrapRegs
  u : UnitWords
  plyCtr : Word32
  ring : List PlyEntry
  late : List LateFault
  lateLost : Nat
  pend : List Pend
  refused : List Refused
  fencer : Option Scope
  virPend : List (Nat × Word32)
  bound : BitVec 4
  wait : Wait
  halted : Bool
  stepping : Bool
  exited : Option Word
  deriving DecidableEq, Repr

/-! ## Exact values and accumulators (R46) -/

/-- One XA640 value with its guard bits and sticky flags (R46). -/
structure Acc where
  w : BitVec 656
  nan : Bool
  pinf : Bool
  ninf : Bool
  deriving DecidableEq, Repr

/-- A q accumulator: one value with its own addend count (R46). OVF is a function of both. -/
structure QAcc where
  acc : Acc
  n : Word
  deriving DecidableEq, Repr

/-- A k accumulator tile: 1,024 values (element 32 i + j) and one count (R46, R217). -/
structure KTile where
  elems : Table Acc
  n : Word
  deriving DecidableEq, Repr

/-! ## The units of a core -/

/-- A scratchpad bank's register and owner (R36, R137). Owner none: FREE; the resident unit: ALLOTTED;
an evicted unit: PARKED. -/
structure Bank where
  format : Nat
  sat : Bool
  badw : Bool
  owner : Option UnitId
  deriving DecidableEq, Repr

/-- A tag-table entry (R147). -/
structure TagEntry where
  v : Bool
  sz : Nat
  blk : Nat
  slot : Nat
  deriving DecidableEq, Repr

/-- A defined tile-table entry (R153, R155, R160); `tid` and `ply` name the PUBL or TBFREE that waits for its
users. -/
structure Tile where
  nb : Nat
  vbank : Nat
  sbank : Nat
  nosh : Bool
  st : TileSt
  freeing : Bool
  shw : Bool
  publ : Bool
  tid : Nat
  ply : Word32
  deriving DecidableEq, Repr

/-- A stream's configuration, binding and position (R187–R190). -/
structure Stream where
  b0 : Nat
  nb : Nat
  e0 : Nat
  write : Bool
  ndim : Nat
  cnt : List Nat
  str : List Int
  en : Bool
  owner : Nat
  pos : Nat
  deriving DecidableEq, Repr

/-- The operations of VEC, VEX and VCF (R195, R197, R205). -/
inductive VecOp where
  | vcvt | vadd | vsub | vmul | vfma | vmax | vmin | vceq | vclt | vcle | vsel | vscale
  | vexp2 | vlog2 | vrcp | vrsq | vsumx | vdotx | vrdq | vclrq | vmaxr | vmaxx | vqnt
  | vsbase | vsdim | vson | vsoff | vsetvl
  deriving DecidableEq, Repr

/-- An accepted vector command with the operands read at dispatch (R192, R193). -/
structure VecCmd where
  op : VecOp
  tid : Nat
  ply : Word32
  addr : Word
  a : Word
  b : Word
  bf : Nat
  scalar : Word32
  dst : Nat
  src : Nat
  dim : Nat
  rnd : Rnd
  seq : Nat
  since : Nat
  deriving DecidableEq, Repr

/-- A contribution to a VMAXX, and an outstanding VMAXX of this core (R201). -/
structure VmaxMsg where
  dst : Nat
  fromX : Nat
  ctx : Nat
  lnum : Nat
  x0 : Nat
  wm1 : Nat
  seq : Nat
  value : Word32
  deriving DecidableEq, Repr

structure VmaxOp where
  tid : Nat
  ply : Word32
  seq : Nat
  x0 : Nat
  wm1 : Nat
  at_ : Nat
  deriving DecidableEq, Repr

/-- The stream vector unit (R185, R186). -/
structure VecUnit where
  streams : Table Stream
  q : Table QAcc
  queue : List VecCmd
  vmaxSeq : Nat
  vmax : List VmaxOp
  vmaxHeld : List VmaxMsg
  deriving DecidableEq, Repr

/-- A tile register: bytes at 136 row + column, and its configuration (R213, R214). -/
structure TileReg where
  bytes : Table Byte
  code : Nat
  sat : Bool
  rows : Nat
  cols : Nat
  deriving DecidableEq, Repr

/-- The operations of MAT and MCF (R215, R222). -/
inductive MatOp where
  | mclr | mmaw | mmah | mmae | mmai | mmas | mmaq | mrd | mld | mst | mcfg
  deriving DecidableEq, Repr

/-- An accepted matrix command: its operands, its progress in steps or rows, the operand rows read at its start with the
format of the second one, and whether its last step has been performed (R218, R219). -/
structure MatCmd where
  op : MatOp
  tid : Nat
  ply : Word32
  addr : Word
  a : Word
  b : Word
  ms : Nat
  k : Nat
  rnd : Rnd
  m : Nat
  prog : Nat
  capA : List Byte
  capB : List Byte
  codeB : Nat
  flags : BitVec 6
  last : Bool
  seq : Nat
  deriving DecidableEq, Repr

/-- Power leave of one unit that needs it, and when the unit was last busy (R230, R335). -/
structure Leave where
  held : Bool
  wanted : Bool
  idle : Nat
  deriving DecidableEq, Repr

/-- The matrix unit (R212, R213). -/
structure MatUnit where
  m : Table TileReg
  k : Table KTile
  queue : List MatCmd
  last : Table Nat
  deriving DecidableEq, Repr

/-- The operations of CPY that use the copy queue (R238). -/
inductive CopyOp where
  | chl | clh | cbb | cmc | cgath | cscat
  deriving DecidableEq, Repr

/-- An accepted copy command (R240–R244): what it captured at acceptance and, in `cap`, at its start (the
source of a CMC, the indices of a gather), how far it is, the element that waits for room for a tag and whether it is one
that resumes, the elements set aside with their tags, every element that was ever set aside, and what it reports at
completion. -/
structure CopyCmd where
  id : Nat
  op : CopyOp
  tid : Nat
  unit : UnitId
  ply : Word32
  addr : Word
  a : Word
  b : Word
  shape : Shape
  index : Option IndexSt
  counter : Option Nat
  rnd : Rnd
  started : Bool
  cap : List Byte
  next : Nat
  cur : Option (Nat × Bool)
  aside : List (Nat × Nat)
  apart : List Nat
  resume : List Nat
  denied : List Nat
  page : PageWait
  flags : BitVec 6
  disc : Bool
  xaflt : Bool
  xpden : Bool
  cref : Bool
  leave : Leave
  deriving DecidableEq, Repr

/-- A barrier register (R250, R251): rectangle, generations, and the arrivals of the present generation. -/
structure Bar where
  cfg : Bool
  x0 : Nat
  y0 : Nat
  wm1 : Nat
  hm1 : Nat
  gen : Nat
  rgen : Nat
  mism : Bool
  own : Bool
  fromX : Bool
  fromY : Bool
  deriving DecidableEq, Repr

/-- A barrier arrival or release on its way, with its tag (R250). -/
structure BarMsg where
  dst : Nat
  z : Nat
  ctx : Nat
  lnum : Nat
  x0 : Nat
  y0 : Nat
  wm1 : Nat
  hm1 : Nat
  release : Bool
  alongX : Bool
  deriving DecidableEq, Repr

/-- Arrival counters and barrier registers, with the arrivals held for them (R249–R251). -/
structure SyncUnit where
  counters : Table (BitVec 48)
  bars : Table Bar
  held : List BarMsg
  deriving DecidableEq, Repr

/-- The operations of QRN that use its queue (R260). -/
inductive QrnOp where
  | qld | qscr | qpt | qseq | qskip
  deriving DecidableEq, Repr

/-- An accepted quasi-random command (R267). -/
structure QrnCmd where
  op : QrnOp
  tid : Nat
  ply : Word32
  addr : Word
  a : Word
  b : Word
  gray : Bool
  stream : Nat
  rnd : Rnd
  seq : Nat
  deriving DecidableEq, Repr

/-- Direction words (key 48 d + i), shift words and QDIM (R256). -/
structure QrnTables where
  v : Table (BitVec 48)
  sh : Table (BitVec 48)
  dim : Word
  deriving DecidableEq, Repr

/-- The quasi-random unit: its tables, the unit they belong to, and its queue (R255, R270). -/
structure QrnUnit where
  tab : QrnTables
  owner : Option UnitId
  queue : List QrnCmd
  deriving DecidableEq, Repr

/-- A lease of cells of one segment (R358, R359): guaranteed cells of the partition itself, cells that other partitions
lend, by lender, pool cells, and cells that the lease of the group's member of rank 0 gives this member's operation. -/
structure Lease where
  own : Nat
  lent : Table Nat
  pool : Nat
  given : Nat
  deriving DecidableEq, Repr

/-- A stage of such a chunk: its port, the members that reply, its first chunk position in the frame and how many it takes,
one a pass, and whether this member's checks held. -/
structure SentStage where
  port : Nat
  members : Nat
  first : Nat
  passes : Nat
  ok : Bool
  deriving DecidableEq, Repr

/-- A chunk that the last frame carried and whose replies are still to come (R364, R369): its stages, and the values
read. -/
structure SentChunk where
  chunk : Nat
  stages : List SentStage
  value : List Int
  deriving DecidableEq, Repr

/-- An operation of a bus handle (R377): its operand words, its lease on the segment of its port, its leases on rails by
segment, the segments to whose masters it has sent its request, the source elements and block exponents read at its start,
the chunks of the last frame, the chunks accepted and those rejected with the number of rejections in a row, the sums that a
BSI8 record still lacks, and when it was accepted (R361). -/
structure BusOp where
  max : Bool
  tid : Nat
  unit : UnitId
  ply : Word32
  addr : Word
  forms : Word
  geom : Word
  rnd : Rnd
  lease : Lease
  rails : Table Lease
  asked : List Nat
  started : Bool
  src : List Nat
  exps : List Nat
  awaiting : List SentChunk
  accepted : List Nat
  rejected : Table Nat
  next : Nat
  sums : Table Int
  flags : BitVec 6
  disc : Bool
  since : Nat
  leave : Leave
  deriving DecidableEq, Repr

/-- A bus handle (R361, R382). st: 0 unbound, 1 joining, 2 joined, 3 leaving; `asking`: its join is not decided, and
`masters` names the segments whose masters on other modules have it before them (none: it has not been checked); the
threads and ply numbers are those of the OBJOIN and the OBLEAVE under way. -/
structure Handle where
  st : Nat
  asking : Bool
  masters : Option (List Nat)
  port : Nat
  gid : Nat
  rank : Nat
  nm1 : Nat
  dom : Bool
  unit : UnitId
  jtid : Nat
  jply : Word32
  ltid : Nat
  lply : Word32
  ops : List BusOp
  deriving DecidableEq, Repr

/-- Read, write and fetch permissions of a leaf (R275, R276). -/
structure Perm where
  r : Bool
  w : Bool
  x : Bool
  deriving DecidableEq, Repr

/-- A cached translation: a page or a block of the smaller leaf size, what it maps to, and what both leaves gave: their
levels and permissions, the GPA of the stage-1 entry and the GPA page of the data (R279). An entry of a nested buffer
holds the stage-2 leaf alone, by its GPA page. -/
structure TlbEntry where
  ctx : Nat
  page : Nat
  big : Bool
  spa : Nat
  p1 : Perm
  p2 : Perm
  lvl1 : Nat
  lvl2 : Nat
  ea : Nat
  gpage : Nat
  deriving DecidableEq, Repr

/-! ## Units on a core -/

/-- A stop that a CANCEL, a revocation or a KILL asks of a unit (R311, R345). -/
structure StopReq where
  since : Nat
  deriving DecidableEq, Repr

/-- A unit that has started: what its launch gave it, and how often aging raised it (R83, R134, R322, R332). -/
structure Resident where
  id : UnitId
  prov : Bool
  tail : Bool
  raised : Nat
  node : Nat
  ucoord : Word
  lcore : Nat
  bankMask : BitVec 96
  tileMask : Word
  streams : BitVec 4
  helpers : Nat
  assigned : List Nat
  exit0 : Option Word
  stop : Option StopReq
  deriving DecidableEq, Repr

/-- Core registers that belong to the resident unit (R110, R297, R421). -/
structure CoreRegs where
  wdogLimit : Nat
  wdogCount : Nat
  wdtPost : Option Nat
  wayDie : Nat
  wayDef : Bool
  wayVf : Nat
  notRoot : Bool
  badMask : Bool
  deriving DecidableEq, Repr

/-- A bank's contents and format in a save area (R137). -/
structure SavedBank where
  bytes : Table Byte
  format : Nat
  sat : Bool
  badw : Bool
  deriving DecidableEq, Repr

/-- An evicted unit: its record and everything saved with it (R81, R137, R211, R232, R235, R270, R414).
Threads still PARKED in register banks are in `Core.regBanks`; those spilled are here. -/
structure Evicted where
  res : Resident
  threads : Table Thread
  regs : CoreRegs
  tags : Table TagEntry
  tiles : Table Tile
  vec : VecUnit
  mat : Option MatUnit
  sync : SyncUnit
  qrn : Option QrnTables
  bus : Table Handle
  banks : Table SavedBank
  order : Nat
  deriving DecidableEq, Repr

/-- A physical register bank (R81): LIVE for a thread id of the resident unit, or PARKED. FREE: absent. -/
inductive RegBank where
  | live (tid : Nat)
  | parked (unit : UnitId) (tid order : Nat) (th : Thread)
  deriving DecidableEq, Repr

/-- One core (R14). -/
structure Core where
  unit : Option Resident
  threads : Table Thread
  lastTid : Nat
  regBanks : Table RegBank
  regs : CoreRegs
  banks : Table Bank
  rename : Table Nat
  tags : Table TagEntry
  tiles : Table Tile
  vec : VecUnit
  mat : MatUnit
  matOwner : Option UnitId
  leave : Table Leave
  cpy : List CopyCmd
  sync : SyncUnit
  qrn : QrnUnit
  bus : Table Handle
  itlb : List TlbEntry
  dtlb : List TlbEntry
  icache : Table Word32
  errcnt : Nat
  evicted : List Evicted
  lastAccept : Table Nat
  deriving DecidableEq, Repr

/-! ## Contexts, partitions, functions (R292–R298) -/

/-- The states of a context (R294). -/
inductive CtxSt where | new | live | draining
  deriving DecidableEq, Repr

/-- A memory extent of a context: child pages backed by parent pages (R304); for a root, by SPA pages (R446). -/
structure Extent where
  cpage : Nat
  npages : Nat
  ppage : Nat
  r : Bool
  w : Bool
  x : Bool
  deriving DecidableEq, Repr

/-- A tag of a context's page-request queue: what faulted, and its request (R283). -/
structure PageTag where
  tag : Nat
  stage : Nat
  page : Nat
  post : Nat
  deriving DecidableEq, Repr

/-- A node of a graph: its descriptor's sixteen words, its site, its run, and the page request that the
reading of its image waits on (R326, R327, R336, R343). -/
structure Node where
  desc : List Word
  site : Nat
  launch : Option Nat
  finished : Bool
  status : Nat
  page : PageWait
  deriving DecidableEq, Repr

/-- The states of a graph (R326). -/
inductive GraphSt where | build | running | done
  deriving DecidableEq, Repr

/-- A GRUN that a provisional unit holds until it is confirmed (R341): the graph stays as it was before. -/
structure GraphRun where
  holder : UnitId
  arg : Word
  phase : Bool
  issuer : Nat × Nat
  order : Nat
  deriving DecidableEq, Repr

/-- A graph of a context (R326, R327): edges are (from, to, gambit); `issuer` is the core and thread of its GRUN,
`order` the place of that GRUN in the order of acceptance (R328); `held`: a GRUN that is still provisional. -/
structure Graph where
  st : GraphSt
  arg : Word
  phase : Bool
  waiting : Bool
  nodes : List Node
  edges : List (Nat × Nat × Bool)
  held : Option GraphRun
  issuer : Nat × Nat
  order : Nat
  deriving DecidableEq, Repr

/-- A shape slot (R337). -/
structure Slot where
  value : Word
  final : Bool
  bound : Option Nat
  deriving DecidableEq, Repr

/-- What a job restarts from: its image, argument and class, or the opening graph of its phase (R429). -/
structure JobRec where
  image : Word
  arg : Word
  cls : Nat
  graphs : Table Graph
  slots : Table Slot
  jobmap : Option Word
  opening : Option (Nat × Word)
  deriving DecidableEq, Repr

/-- A context (R294, R297, R302); `jstart` and `pstart` are where its job and its current phase begin in the order of
acceptance (R328). -/
structure Ctx where
  part : Nat
  level : Nat
  parent : Nat
  st : CtxSt
  ttb1 : Word
  ttb2 : Nat
  psaOff : Nat
  psaValid : Bool
  svch : Nat
  coreBase : Nat
  coreLen : Nat
  extents : List Extent
  energy : Int
  queues : Nat
  queuesGot : Nat
  cells : Nat
  cellsGot : Nat
  vf : Option Nat
  graphs : Table Graph
  slots : Table Slot
  jobmap : Option Word
  job : Option JobRec
  jobVf : Option Nat
  tags : List PageTag
  pnum : Nat
  pstart : Nat
  jstart : Nat
  rollbk : Nat
  unprot : Bool
  remap : List Nat
  relaunch : Option PageWait
  shortg : List Nat
  deriving DecidableEq, Repr

/-- A journaled page's pre-image for one job (R430). -/
structure JPage where
  ctx : Nat
  page : Nat
  bytes : Memory
  deriving DecidableEq, Repr

/-- A held host effect: a write to host memory, with its place in the order of such writes, its size and the bytes of it
that no later write has replaced; or an interrupt message (R164, R433). -/
inductive GateEntry where
  | write (ctx order size : Nat) (bytes : List (Nat × Byte))
  | interrupt (ctx vf vector : Nat)
  deriving DecidableEq, Repr

/-- A region of HBM that the management processor gives a partition (R446). -/
structure Region where
  base : Nat
  size : Nat
  deriving DecidableEq, Repr

/-- A partition (R292, R446). -/
structure Part where
  hbase : Nat
  hlen : Nat
  root : Nat
  det : Bool
  cken : Bool
  weight : Nat
  pways : List Nat
  defMask : List Nat
  save : Region
  journal : Region
  gate : Region
  tpool : Region
  tables : List Nat
  saves : List UnitId
  jpages : List JPage
  gated : List GateEntry
  lend : Bool
  prepared : Option (Nat × Nat)
  partner : Option Nat
  out : Bool
  deriving DecidableEq, Repr

/-- A virtual function: assignment, binding and the registers of its BAR0 (R297, R439); `resetting`: a VF reset is
under way, with the contexts whose jobs it cancelled (R449); `gos` and `msgs`: the GOs, each with JOBIMG and JOBARG as it
found them, and the messages that have not been served, oldest first (R440, R441). -/
structure Vf where
  part : Option Nat
  weight : Nat
  bound : Option Nat
  masks : List Nat
  jobimg : Word
  jobarg : Word
  jobstat : Nat
  run : Bool
  jobres : Word
  hmsg : Word
  mboxgpa : Word
  intstat : BitVec 3
  resetting : Option (List Nat)
  gos : List (Word × Word)
  goWait : PageWait
  msgs : List Word
  msgWait : PageWait
  msgStored : Bool
  deriving DecidableEq, Repr

/-! ## Launches (R318–R345) -/

/-- A LOCAL section of an image, with its contents as the launch read them (R71). -/
structure Section where
  addr : Nat
  bytes : List Byte
  deriving DecidableEq, Repr

/-- What a checked image header gives a launch (R70). -/
structure Image where
  va : Word
  entry : Word
  features : BitVec 128
  bankMask : BitVec 96
  tileMask : Word
  streams : BitVec 4
  helpers : Nat
  prio : Nat
  bankFmt : List Nat
  sections : List Section
  deriving DecidableEq, Repr

/-- Where a unit of a launch stands (R329, R339): `since` is when it entered the pool, `last` when it did or was last
raised (R332). -/
inductive UnitSt where
  | waiting (prov : Bool) (raised since last : Nat)
  | resident (h : Nat)
  | evicted (h : Nat) (ready : Bool) (raised since last : Nat)
  | held (v : Word)
  | completed (v : Word)
  | cancelled
  | removed
  deriving DecidableEq, Repr

/-- A launch (R318–R325, R334, R336): `porder` is the place, in the order of acceptance, of what it belongs to, the launch
itself or the GRUN of its graph (R328); `cancelled`: a CANCEL covered one of its units; `covered`: it covered the
launch (R345). -/
structure Launch where
  ctx : Nat
  image : Image
  arg : Word
  astride : Word
  nu : Nat
  cls : Nat
  node : Nat
  mapen : Bool
  mapw : Word
  cva : Word
  gmb : Bool
  inen : Bool
  slotIn : Nat
  slotOut : Option Nat
  quant : Nat
  mode : Nat
  psize : Nat
  tsize : Option Nat
  ovf : Bool
  site : Nat
  lebal : Int
  charged : Nat
  h : Nat
  tid : Nat
  heldBy : Option UnitId
  graph : Option (Nat × Nat)
  porder : Nat
  isJob : Bool
  units : Table UnitSt
  order : Nat
  cancelled : Bool
  covered : Bool
  result : Word
  confirmed : Nat
  page : PageWait
  resultWritten : Bool
  done : Option Nat
  deriving DecidableEq, Repr

/-- The completion record of a node that failed its checks, while it is to be written: the context, the thread of its
GRUN, where it stands, its status, and how far the writing is (R325, R327). -/
structure PendRec where
  ctx : Nat
  h : Nat
  tid : Nat
  cva : Nat
  status : Nat
  half : Bool
  page : PageWait
  deriving DecidableEq, Repr

/-- The commands that the graph engine, a collective engine or the context manager accepts and performs in an order
of its own, with the operands read at dispatch (R308, R342, R399). -/
inductive CmdOp where
  | gnode (a b : Word)
  | gedge (a b : Word) (gmb : Bool)
  | grun (a b : Word) (phase : Bool)
  | launch (a : Word)
  | shapeAdd (a b : Word) (fin : Bool)
  | shapeSet (a b : Word) (fin : Bool)
  | shapeRead (a : Word)
  | confirm (a b : Word)
  | cancel (level : CLevel) (a : Word)
  | compl (level : CLevel) (res : Bool) (a : Word)
  | colq (a : Word)
  | colput (a b : Word)
  | colgo (a : Word)
  | colwt (a b : Word)
  | colcan (a b : Word)
  | ctxenter (c image : Word)
  deriving DecidableEq, Repr

/-- A command that has been accepted and not yet performed: it waits for a page, or for the commands before it
(R343, R400); `addr` is its word's address, `cls` the class of its unit at acceptance (R396). -/
structure PendCmd where
  id : Nat
  unit : Nat
  h : Nat
  u : UnitId
  tid : Nat
  ply : Word32
  addr : Word
  op : CmdOp
  cls : Nat
  page : PageWait
  deriving DecidableEq, Repr

/-- An entry of the gambit predictor (R336). -/
structure Pred where
  ctx : Nat
  site : Nat
  ts : List Nat
  updated : Nat
  deriving DecidableEq, Repr

/-! ## The bus (R349–R374) -/

/-- A group on a segment: its partition, member count and the ranks joined (R361, R362). -/
structure Group where
  part : Nat
  n : Nat
  ranks : List Nat
  deriving DecidableEq, Repr

/-- A lease whose cells a VF reset keeps back through a frame, and the context whose operation had it (R360). -/
structure Quarantine where
  ctx : Nat
  lease : Lease
  until_ : Nat
  deriving DecidableEq, Repr

/-- A lease that this module's frame allocator has given to an operation of another module's partition (R349, R359). -/
structure FarLease where
  gid : Nat
  part : Nat
  weight : Nat
  lease : Lease
  deriving DecidableEq, Repr

/-- A bus segment as this module sees it (R349–R357); `recal`: a chunk rejected three times has asked for a
calibration (R370); `quar`: the cells of aborted leases (R360); `others`: the lowest rate at which another port of it has
trained (R356); `lowest`: the lowest number of another module on it, by which its master is known, and `far`: the leases
that this module has given as the master (R349). -/
structure Seg where
  wlim : Nat
  calWlim : Nat
  cal : Bool
  down : Bool
  nports : Nat
  rate : Nat
  others : Nat
  foreignWeight : Nat
  lowest : Nat
  far : List FarLease
  groups : Table Group
  recal : Bool
  quar : List Quarantine
  deriving DecidableEq, Repr

/-- What DOMAIN asks of a port: its segment, member index, rate, and whether it joins (R447). -/
structure PortEntry where
  seg : Nat
  midx : Nat
  asked : Nat
  en : Bool
  deriving DecidableEq, Repr

/-- A chunk position of a frame (R364): its cell among those of the lease, its first slot there, and what this port lights
in each slot from that one on, a number of 32 wavelengths each (R364, R372). -/
structure Position where
  cell : Nat
  slot : Nat
  lit : List Nat
  deriving DecidableEq, Repr

/-- An Eweus port of this module (R17, R354, R381, R447). `entry`: the entry that its next training brings into force;
`lit`: the chunk positions of its last frame; `replied`: for each position of the frame before, its cell, its place in the
cell, which is its wavelength, and what this port lights there in the reply slots 60 to 63 (R369). -/
structure Port where
  seg : Nat
  midx : Nat
  asked : Nat
  rate : Nat
  en : Bool
  excluded : Bool
  girth : Nat
  guard : Nat
  stitch : Nat
  recal : Nat
  entry : Option PortEntry
  lit : List Position
  replied : List (Nat × Nat × List Nat)
  deriving DecidableEq, Repr

/-- An entry of the domain-group table (R448). -/
structure GroupEnt where
  gid : Nat
  ng : Nat
  j : Nat
  g : Nat
  l1seg : Nat
  l1port : Nat
  rsega : Nat
  rporta : Nat
  ina : Bool
  rsegb : Nat
  rportb : Nat
  inb : Bool
  bridge : Bool
  deriving DecidableEq, Repr

/-! ## The collective engine (R384–R400) -/

/-- The partial result of a chunk at a member: what has been combined, from how many children and whether from the
member itself; `final`: the result, which the member is still to write (R391, R392). -/
structure Partial where
  chunk : Nat
  sums : List Int
  exps : List Nat
  raw : List Byte
  kids : Nat
  own : Bool
  final : Bool
  deriving DecidableEq, Repr

/-- A collective on a queue (R388, R393, R397): `started` is when its timer last began, `sent` the chunks that this
member has contributed, `written` those whose results it has written, and `pages` the page requests that chunks
wait on. -/
structure ColOp where
  seq : Nat
  running : Bool
  desc : List Word
  base : Word32
  unit : UnitId
  h : Nat
  tid : Nat
  cls : Nat
  started : Nat
  sent : List Nat
  written : List Nat
  partials : List Partial
  pages : Table PageWait
  flags : BitVec 6
  disc : Bool
  deriving DecidableEq, Repr

/-- A finished collective: sequence, status, and whether shadow writes were discarded (R400). -/
structure ColEnd where
  seq : Nat
  status : Nat
  disc : Bool
  deriving DecidableEq, Repr

/-- A hardware queue with its communicator (R384, R386). -/
structure ColQ where
  ctx : Nat
  comm : Nat
  w : Nat
  root : Bool
  parent : Nat
  children : List Nat
  rank : Nat
  members : Nat
  tmo : Nat
  cnts : List Nat
  vf : Nat
  seq : Nat
  ops : List ColOp
  ended : List ColEnd
  closing : Bool
  deriving DecidableEq, Repr

/-- The collective engine of a die (R384, R395); its power leave is held for each VF (R396). -/
structure ColEngine where
  queues : Table ColQ
  counters : Table Word32
  deficit : Table Nat
  cur : Option Nat
  lastQ : Table Nat
  leave : Table Leave
  deriving DecidableEq, Repr

/-- A request for power leave: core, unit of the core (0, 1 engines, 2 copy, 3 bus), command, class and order. -/
structure LeaveReq where
  h : Nat
  agent : Nat
  cmd : Nat
  cls : Nat
  order : Nat
  deriving DecidableEq, Repr

/-- A compute die (R9, R435, R454). -/
structure Die where
  cap : Nat
  held : Nat
  waiting : List LeaveReq
  thr : Nat
  fenced : BitVec 16
  gated : Bool
  col : ColEngine
  deriving DecidableEq, Repr

/-! ## Accesses, messages, posts -/

/-- The operations of the atomics (R181). -/
inductive AtOp where | add | and | or | xor | max | min | maxz | minz | swp | cas
  deriving DecidableEq, Repr

/-- What an access does at its home. -/
inductive AccKind where
  | load (signed : Bool)
  | store (v : Word)
  | atomic (op : AtOp) (v n : Word)
  deriving DecidableEq, Repr

/-- The paths of an access (R165). -/
inductive Path where | localPort | loopBack | mesh
  deriving DecidableEq, Repr

/-- A scalar access that has issued and is not yet performed (R163, R165). `addr` is the private alias on
the paths of the core itself, and the SPA on the mesh. -/
structure Access where
  id : Nat
  h : Nat
  tid : Nat
  unit : UnitId
  path : Path
  va : Word
  addr : Nat
  size : Nat
  kind : AccKind
  reg : Option Nat
  epc : Word
  scope : Scope
  release : Bool
  acquire : Bool
  fence : Bool
  deriving DecidableEq, Repr

/-- Messages between cores and engines of the module (R201, R250, R392); a packet names the engine that sent it. -/
inductive Msg where
  | bar (m : BarMsg)
  | vmax (m : VmaxMsg)
  | col (fromNode toNode : Nat) (p : ColPacket)
  deriving DecidableEq, Repr

/-- Who waits on a posted record (R286, R411). -/
inductive Waiter where
  | page (ctx tag : Nat)
  | trap (h tid : Nat) (unit : UnitId)
  | wdt (h : Nat) (unit : UnitId)
  | nobody
  deriving DecidableEq, Repr

/-- A record that the hardware posts: the context whose area takes it, its eight words apart from SEQ and
REPLY, whether a provisional unit holds it back, and where copies of it stand (core, mailbox offset)
(R284–R288, R315, R410–R413). `due`: a copy is still to be posted. `mp`: it goes to the management processor. -/
structure Post where
  id : Nat
  page : Bool
  target : Nat
  mp : Bool
  body : List Word
  waiter : Waiter
  unit : Option UnitId
  copies : List (Nat × Nat)
  due : Bool
  deriving DecidableEq, Repr

/-- What a background drain completes (R303, R309, R313, R293); a revocation of pages also names the pages of descendants
that were composed from them (R310). -/
inductive DrainKind where
  | coreGrant (ctx base len : Nat)
  | revokeCores (issuer ctx base len : Nat)
  | revokeMem (ctx first n : Nat) (derived : List (Nat × Nat × Nat))
  | revokeQty (issuer queues cells : Nat)
  | delete (issuer ctx : Nat)
  deriving DecidableEq, Repr

/-- A drain under way, with the accesses in flight that it covers (R301, R312, R316). -/
structure Drain where
  id : Nat
  kind : DrainKind
  covers : List Nat
  deriving DecidableEq, Repr

/-- An invalidation under way (R291): INVCTL as the request wrote it, and INVVA at that write. -/
structure Inval where
  h : Nat
  off : Nat
  ctx : Nat
  ctl : Nat
  va : Nat
  deriving DecidableEq, Repr

/-- A castling pair or single partition with its slice times (R417, R445). -/
structure Slice where
  a : Nat
  b : Option Nat
  sa : Nat
  sb : Nat
  t0 : Nat
  deriving DecidableEq, Repr

/-- The state that castling stores for a partition that does not hold its interval (R420). -/
structure Castled where
  part : Nat
  stopped : Nat
  cores : Table Core
  mem : Memory
  deriving DecidableEq, Repr

/-- What SUMMARY reports (R451, R452). -/
inductive Report where
  | charge (tenant : Nat)
  | loss (ctx : Nat)
  | reset (vf : Nat)
  | portExcluded (port : Nat)
  | shortGuarantee (part seg : Nat)
  deriving DecidableEq, Repr

/-- How a read of the host through a BAR2 completes: with data, as an Unsupported Request, or poisoned (R428, R438). -/
inductive HostRead where
  | data (v : Word)
  | unsupported
  | poisoned
  deriving DecidableEq, Repr

/-- The management processor and the host link (R442–R452): `job` is a command that has not completed, `queue` what waits
behind it in doorbell order, `serving`: the command that goes next comes from there; `measured`: the measurements of a boot
that has happened since State.reset (R442); `preparing` and `prepared` a layout that PREPARE has checked and that has drained,
`interrupts` the messages sent as VF and vector, `hostReads` the completions of BAR2 reads, `sent` the messages sent over
the management network (R349), all oldest first. -/
structure Mp where
  boot : Nat
  job : Option (Nat × BitVec 512)
  queue : List Event
  serving : Bool
  measured : Option (List Byte)
  gen : Word32
  modnum : Nat
  present : BitVec 448
  groups : List GroupEnt
  slots : Table (BitVec 512)
  reports : List Report
  slices : List Slice
  preparing : Bool
  prepared : Bool
  interrupts : List (Nat × Nat)
  hostReads : List HostRead
  sent : List NetMsg
  powerCut : Bool
  deriving DecidableEq, Repr

/-- The module. `struck` names the contexts of which a walk, an image or an engine has read poison and whose tenants are
still to be charged (R428). The fields after `mp` are the model's own: the order of agents that outside inputs and
unfixed orders choose (`agenda`, `defer`), what acts now, the context and core that issued last, and counters. -/
structure State where
  cores : Table Core
  mem : Memory
  poison : List Nat
  struck : List Nat
  ctxs : Table Ctx
  parts : Table Part
  vfs : Table Vf
  launches : Table Launch
  preds : Table Pred
  recs : List PendRec
  cmds : List PendCmd
  dies : Table Die
  segs : Table Seg
  ports : Table Port
  clusterTlb : Table (List TlbEntry)
  nestedTlb : Table (List TlbEntry)
  inflight : List Access
  msgs : List Msg
  posts : List Post
  drains : List Drain
  invals : List Inval
  castled : List Castled
  cycle : Word
  mp : Mp
  agenda : List Event
  defer : List Bool
  picks : List Nat
  curCore : Nat
  curTid : Nat
  curWord : Word32
  turn : Option (Nat × Nat)
  steps : Nat
  nextId : Nat
  deriving DecidableEq, Repr

/-! ## Reset -/

def Loop.reset : Loop := { cnt := 0, sta := 0, lend := 0 }

def Regs.reset : Regs :=
  { g := Vector.replicate 32 0, f := Vector.replicate 32 0, pc := 0, fflags := 0,
    loop0 := Loop.reset, loop1 := Loop.reset }

def TrapRegs.reset : TrapRegs :=
  { tvec := 0, tepc := 0, tcause := 0, ply := 0, lost := 0, halten := false, inh := false }

/-- The per-thread words when a thread context starts (R186, R213, R235, R256, R162, R317, R348, R382, R402). -/
def UnitWords.reset : UnitWords :=
  { tstatus := 0, vlen := 16, res := 0, vxstat := 0, vcstat := 0, mcstat := 0, shape := none,
    index := none, cstat := 0, disc := false, sstat := 0, qcur := 0, qres := 0, qresf := 0,
    gstat := 0, gres := 0, gfstat := 0, gfres := 0, pstat := 0, pwait := 0, pres := 0, bstat := 0,
    bshort := false, bdisc := false, bres := 0, clstat := 0, cldisc := false, clres := 0 }

/-- A thread context at its start (R66, R83, R129). -/
def Thread.reset : Thread :=
  { r := Regs.reset, t := TrapRegs.reset, u := UnitWords.reset, plyCtr := 0, ring := [], late := [],
    lateLost := 0, pend := [], refused := [], fencer := none, virPend := [], bound := 0, wait := .none,
    halted := false, stepping := false, exited := none }

/-- Accumulator clear (R46). -/
def Acc.clear : Acc := { w := 0, nan := false, pinf := false, ninf := false }

def QAcc.clear : QAcc := { acc := Acc.clear, n := 0 }

def KTile.clear : KTile := { elems := [], n := 0 }

def Bank.reset : Bank := { format := 0, sat := false, badw := false, owner := none }

def Stream.reset : Stream :=
  { b0 := 0, nb := 0, e0 := 0, write := false, ndim := 0, cnt := [0, 0, 0, 0], str := [0, 0, 0, 0],
    en := false, owner := 0, pos := 0 }

def VecUnit.reset : VecUnit :=
  { streams := [], q := [], queue := [], vmaxSeq := 0, vmax := [], vmaxHeld := [] }

/-- A tile register at unit start: zeros, RAW, 32 rows and 32 columns (R213). -/
def TileReg.reset : TileReg := { bytes := [], code := 0, sat := false, rows := 32, cols := 32 }

def Leave.reset : Leave := { held := false, wanted := false, idle := 0 }

def MatUnit.reset : MatUnit := { m := [], k := [], queue := [], last := [] }

def Bar.reset : Bar :=
  { cfg := false, x0 := 0, y0 := 0, wm1 := 0, hm1 := 0, gen := 0, rgen := 0, mism := false,
    own := false, fromX := false, fromY := false }

def SyncUnit.reset : SyncUnit := { counters := [], bars := [], held := [] }

def QrnTables.reset : QrnTables := { v := [], sh := [], dim := 0 }

def QrnUnit.reset : QrnUnit := { tab := QrnTables.reset, owner := none, queue := [] }

def Lease.none : Lease := { own := 0, lent := [], pool := 0, given := 0 }

def Handle.unbound : Handle :=
  { st := 0, asking := false, masters := none, port := 0, gid := 0, rank := 0, nm1 := 0, dom := false,
    unit := { ctx := 0, lnum := 0, index := 0 }, jtid := 0, jply := 0, ltid := 0, lply := 0, ops := [] }

/-- WDOG at unit start: LIMIT 4,096, COUNT 0 (R421); WAYSEL and PDENY 0 (R297). -/
def CoreRegs.reset : CoreRegs :=
  { wdogLimit := 4096, wdogCount := 0, wdtPost := none, wayDie := 0, wayDef := false, wayVf := 0,
    notRoot := false, badMask := false }

/-- A core that holds no unit. -/
def Core.reset : Core :=
  { unit := none, threads := [], lastTid := 0, regBanks := [], regs := CoreRegs.reset, banks := [],
    rename := [], tags := [], tiles := [], vec := VecUnit.reset, mat := MatUnit.reset,
    matOwner := none, leave := [], cpy := [], sync := SyncUnit.reset, qrn := QrnUnit.reset, bus := [],
    itlb := [], dtlb := [], icache := [], errcnt := 0, evicted := [], lastAccept := [] }

def ColEngine.reset : ColEngine :=
  { queues := [], counters := [], deficit := [], cur := none, lastQ := [], leave := [] }

/-- A die after reset: leave capacity 1,024 (R454). -/
def Die.reset : Die :=
  { cap := 1024, held := 0, waiting := [], thr := 0, fenced := 0, gated := false,
    col := ColEngine.reset }

/-- A VF after reset: unassigned, unbound, weight 1 (R385), registers 0 (R439). -/
def Vf.reset : Vf :=
  { part := none, weight := 1, bound := none, masks := [], jobimg := 0, jobarg := 0, jobstat := 0,
    run := false, jobres := 0, hmsg := 0, mboxgpa := 0, intstat := 0, resetting := none, gos := [], goWait := .none,
    msgs := [], msgWait := .none, msgStored := false }

def Port.reset : Port :=
  { seg := 0, midx := 0, asked := 0, rate := 0, en := false, excluded := false, girth := 0,
    guard := 0, stitch := 0, recal := 0, entry := none, lit := [], replied := [] }

/-- The management processor after a boot that succeeded: module number 0 and its own bit alone in the
PRESENT map (R273, R447). -/
def Mp.reset : Mp :=
  { boot := 0, job := none, queue := [], serving := false, measured := none, gen := 0, modnum := 0, present := 1, groups := [], slots := [],
    reports := [], slices := [], preparing := false, prepared := false, interrupts := [], hostReads := [],
    sent := [], powerCut := false }

/-- The module right after reset: every context, partition and VF cleared (R442), no unit resident,
memory with nothing listed, CYCLE 0 (R111). -/
def State.reset : State :=
  { cores := [], mem := [], poison := [], struck := [], ctxs := [], parts := [], vfs := [], launches := [],
    preds := [], recs := [], cmds := [], dies := [], segs := [], ports := [], clusterTlb := [], nestedTlb := [],
    inflight := [], msgs := [], posts := [], drains := [], invals := [], castled := [], cycle := 0,
    mp := Mp.reset, agenda := [], defer := [], picks := [], curCore := 0, curTid := 0, curWord := 0, turn := none,
    steps := 0, nextId := 0 }

end Sys2Proof.Machine
end

