-- ==== Sys2Proof/Machine/Flags.lean ====
section
/-! DEFINITION. The arithmetic flags: the bits of FFLAGS and the flag computations that are shared by
the scalar and packed integer instructions (R45, R85, R89, R94). -/

namespace Sys2Proof.Machine

/-- A set of flags, in the bit order of FFLAGS (R85). -/
abbrev Flags := BitVec 6

def Flags.nv : Flags := 0x01
def Flags.of : Flags := 0x02
def Flags.uf : Flags := 0x04
def Flags.nx : Flags := 0x08
def Flags.dz : Flags := 0x10
def Flags.sat : Flags := 0x20

/-- The flag when the condition holds, else none. -/
def Flags.when (c : Bool) (f : Flags) : Flags := if c then f else 0

/-- Flags are sticky: an instruction ORs what it raises into FFLAGS (R45, R86). -/
def Regs.raise (r : Regs) (f : Flags) : Regs := { r with fflags := r.fflags ||| f }

/-- div_int: quotient and remainder as `w`-bit patterns, with the flags raised (R89). -/
def divInt (w : Nat) (signed : Bool) (x y : Nat) : Nat × Nat × Flags :=
  let x := x % 2 ^ w
  let y := y % 2 ^ w
  if y = 0 then (2 ^ w - 1, x, Flags.dz)
  else if signed then
    if x = 2 ^ (w - 1) ∧ y = 2 ^ w - 1 then (x, 0, 0)
    else
      let q := Int.tdiv (sInt w x) (sInt w y)
      (sPat w q, sPat w (sInt w x - q * sInt w y), 0)
  else (x / y, x % y, 0)

/-- Clamp to the signed or unsigned `w`-bit range; a clamp sets SAT (R94). -/
def clampInt (w : Nat) (z : Bool) (n : Int) : Nat × Flags :=
  let lo : Int := if z then 0 else -((2 ^ (w - 1) : Nat) : Int)
  let hi : Int := if z then (2 ^ w : Nat) - 1 else (2 ^ (w - 1) : Nat) - 1
  if n < lo then (sPat w lo, Flags.sat)
  else if n > hi then (sPat w hi, Flags.sat)
  else (sPat w n, 0)

end Sys2Proof.Machine
end

