-- ==== Sys2Proof/Machine/Num.lean ====
section
/-! DEFINITION. Element formats, exact values, rounding and encoding, and the exact accumulator
(chapter 02: R23–R50). -/

namespace Sys2Proof.Machine

/-- The floating-point element formats (R23). -/
inductive FFmt where | fp64 | fp32 | bf16 | fp16 | e4m3 | e5m2
  deriving DecidableEq, Repr

/-- Width in bits, exponent bits, bias, fraction bits (R23). -/
def FFmt.width : FFmt → Nat
  | .fp64 => 64 | .fp32 => 32 | .bf16 => 16 | .fp16 => 16 | .e4m3 => 8 | .e5m2 => 8

def FFmt.ebits : FFmt → Nat
  | .fp64 => 11 | .fp32 => 8 | .bf16 => 8 | .fp16 => 5 | .e4m3 => 4 | .e5m2 => 5

def FFmt.bias : FFmt → Nat
  | .fp64 => 1023 | .fp32 => 127 | .bf16 => 127 | .fp16 => 15 | .e4m3 => 7 | .e5m2 => 15

def FFmt.fbits : FFmt → Nat
  | .fp64 => 52 | .fp32 => 23 | .bf16 => 7 | .fp16 => 10 | .e4m3 => 3 | .e5m2 => 2

/-- The exponent of the smallest normal number (R23). -/
def FFmt.emin (f : FFmt) : Int := 1 - (f.bias : Int)

/-- The exponent of the largest finite number (R23). -/
def FFmt.emax : FFmt → Int
  | .fp64 => 1023 | .fp32 => 127 | .bf16 => 127 | .fp16 => 15 | .e4m3 => 8 | .e5m2 => 15

/-- Only E4M3 has no infinities (R23). -/
def FFmt.hasInf : FFmt → Bool
  | .e4m3 => false
  | _ => true

/-- The code of the largest finite magnitude (R23). -/
def FFmt.maxCode : FFmt → Nat
  | .fp64 => 0x7FEFFFFFFFFFFFFF | .fp32 => 0x7F7FFFFF | .bf16 => 0x7F7F | .fp16 => 0x7BFF
  | .e4m3 => 0x7E | .e5m2 => 0x7B

/-- The code of +infinity, or the NaN code that E4M3 has there (R23, R42). -/
def FFmt.infCode : FFmt → Nat
  | .fp64 => 0x7FF0000000000000 | .fp32 => 0x7F800000 | .bf16 => 0x7F80 | .fp16 => 0x7C00
  | .e4m3 => 0x7F | .e5m2 => 0x7C

/-- The default NaN (R40). -/
def FFmt.nanCode : FFmt → Nat
  | .fp64 => 0x7FF8000000000000 | .fp32 => 0x7FC00000 | .bf16 => 0x7FC0 | .fp16 => 0x7E00
  | .e4m3 => 0x7F | .e5m2 => 0x7E

/-- The sign bit in place. -/
def FFmt.signed (f : FFmt) (neg : Bool) (code : Nat) : Nat :=
  if neg then 2 ^ (f.width - 1) + code else code

/-- An exact value: a NaN (signalling or not), an infinity, or ± m × 2^e. With `sticky` the magnitude
lies strictly between m × 2^e and (m + 1) × 2^e: how a quotient, a root or a transcendental is held
before its one rounding. -/
inductive Num where
  | nan (sig : Bool)
  | inf (neg : Bool)
  | fin (neg : Bool) (m : Nat) (e : Int) (sticky : Bool)
  deriving DecidableEq, Repr

/-- An exact finite value. -/
def Num.exact (neg : Bool) (m : Nat) (e : Int) : Num := .fin neg m e false

/-- +0. -/
def Num.zero : Num := .exact false 0 0

/-- An integer as an exact value. -/
def Num.ofInt (i : Int) : Num := .exact (decide (i < 0)) i.natAbs 0

def Num.isNan : Num → Bool
  | .nan _ => true
  | _ => false

def Num.isSig : Num → Bool
  | .nan s => s
  | _ => false

def Num.isInf : Num → Bool
  | .inf _ => true
  | _ => false

def Num.isZero : Num → Bool
  | .fin _ m _ st => m == 0 && !st
  | _ => false

def Num.neg : Num → Bool
  | .nan _ => false
  | .inf n => n
  | .fin n _ _ _ => n

def Num.negate : Num → Num
  | .nan s => .nan s
  | .inf n => .inf (!n)
  | .fin n m e st => .fin (!n) m e st

/-- Decoding never rounds (R23, R24, R27). -/
def decodeFloat (f : FFmt) (code : Nat) : Num :=
  let neg := bit code (f.width - 1)
  let ex := bits code f.fbits f.ebits
  let fr := bits code 0 f.fbits
  let top := 2 ^ f.ebits - 1
  if ex = 0 then .exact neg fr (f.emin - f.fbits)
  else if ex = top ∧ f = .e4m3 then
    if fr = 7 then .nan false else .exact neg (fr + 8) ((ex : Int) - f.bias - f.fbits)
  else if ex = top then
    if fr = 0 then .inf neg
    else .nan (f != .e5m2 && !bit fr (f.fbits - 1))
  else .exact neg (fr + 2 ^ f.fbits) ((ex : Int) - f.bias - f.fbits)

/-- The integer of units 2^g nearest to a magnitude under a round field, and whether it is inexact (R39). -/
def roundGrid (neg : Bool) (m : Nat) (e : Int) (st : Bool) (rnd : Rnd) (g : Int) : Nat × Bool :=
  let k := (g - e).toNat
  let q := if g ≤ e then m * 2 ^ (e - g).toNat else m / 2 ^ k
  let r := if g ≤ e then 0 else m % 2 ^ k
  let h := 2 ^ k
  let inexact := r != 0 || st
  let above := decide (2 * r > h) || (decide (2 * r = h) && st)
  let tie := decide (2 * r = h) && !st && decide (e < g)
  let q' := match rnd with
    | .rne => if above || (tie && q % 2 == 1) then q + 1 else q
    | .rtz => q
    | .rup => if inexact && !neg then q + 1 else q
    | .rdn => if inexact && neg then q + 1 else q
    | .rto => if inexact && q % 2 == 0 then q + 1 else q
  (q', inexact)

/-- Rounds toward zero on overflow (R42). -/
def towardZero : Rnd → Bool → Bool
  | .rtz, _ => true
  | .rto, _ => true
  | .rdn, neg => !neg
  | .rup, neg => neg
  | .rne, _ => false

/-- The code of the nonzero magnitude n × 2^g, which the format holds exactly (R42). -/
def codeOf (f : FFmt) (n : Nat) (g : Int) : Nat :=
  if n = 0 then 0
  else
    let l := Nat.log2 n
    let ex := g + l
    if ex < f.emin then n * 2 ^ (g - (f.emin - f.fbits)).toNat
    else
      let fr := if l ≤ f.fbits then n * 2 ^ (f.fbits - l) else n / 2 ^ (l - f.fbits)
      (ex + f.bias).toNat * 2 ^ f.fbits + (fr - 2 ^ f.fbits)

/-- encode_float: the code and flags of a value in a format (R42). -/
def encodeFloat (v : Num) (f : FFmt) (rnd : Rnd) (sat : Bool) : Nat × Flags :=
  match v with
  | .nan s => (f.nanCode, Flags.when (s || f == .e4m3 || f == .e5m2) Flags.nv)
  | .inf neg =>
    if sat then (f.signed neg f.maxCode, Flags.sat)
    else (f.signed neg f.infCode, Flags.when (!f.hasInf) Flags.nv)
  | .fin neg m e st =>
    if m = 0 ∧ st = false then (f.signed neg 0, 0)
    else
      let ev := e + (sizeOf2 m : Int) - 1
      let p := (f.fbits : Int)
      let g := max ev f.emin - p
      let (n, nx) := roundGrid neg m e st rnd g
      let (u, _) := roundGrid neg m e st rnd (ev - p)
      let tiny := decide (ev - p + (Nat.log2 u : Int) < f.emin)
      let fl := Flags.when nx Flags.nx ||| Flags.when (nx && tiny) Flags.uf
      let ew := g + (Nat.log2 n : Int)
      let ovf := n != 0 && (decide (ew > f.emax) ||
        (f == .e4m3 && decide (ew = f.emax) && decide (n * 2 ^ (3 - Nat.log2 n) = 15)))
      if ovf then
        let fl := fl ||| Flags.of ||| Flags.nx
        if sat then (f.signed neg f.maxCode, fl ||| Flags.sat)
        else if towardZero rnd neg then (f.signed neg f.maxCode, fl)
        else (f.signed neg f.infCode, fl)
      else (f.signed neg (codeOf f n g), fl)

/-- The integer that a finite value rounds to, and whether it is inexact (R43). -/
def roundInt (neg : Bool) (m : Nat) (e : Int) (st : Bool) (rnd : Rnd) : Int × Bool :=
  let (n, nx) := roundGrid neg m e st rnd 0
  (if neg then -(n : Int) else n, nx)

/-- encode_int: the `w`-bit pattern and flags (R43). -/
def encodeInt (v : Num) (w : Nat) (rnd : Rnd) (sat : Bool) : Nat × Flags :=
  let lo : Int := -((2 ^ (w - 1) : Nat) : Int)
  let hi : Int := (2 ^ (w - 1) : Nat) - 1
  match v with
  | .nan _ => (sPat w (if sat then 0 else lo), Flags.nv)
  | .inf neg =>
    if sat then (sPat w (if neg then lo else hi), Flags.nv ||| Flags.sat)
    else (sPat w lo, Flags.nv)
  | .fin neg m e st =>
    let (n, nx) := roundInt neg m e st rnd
    let fl := Flags.when nx Flags.nx
    if n < lo ∨ n > hi then
      if sat then (sPat w (max lo (min hi n)), fl ||| Flags.sat) else (sPat w n, fl ||| Flags.nv)
    else (sPat w n, fl)

/-- encode_uint (R99). -/
def encodeUint (v : Num) (w : Nat) (rnd : Rnd) : Nat × Flags :=
  match v with
  | .nan _ => (0, Flags.nv)
  | .inf neg => (if neg then 0 else 2 ^ w - 1, Flags.nv ||| Flags.sat)
  | .fin neg m e st =>
    let (n, nx) := roundInt neg m e st rnd
    let fl := Flags.when nx Flags.nx
    if n < 0 then (0, fl ||| Flags.sat)
    else if n > (2 ^ w : Nat) - 1 then (2 ^ w - 1, fl ||| Flags.sat)
    else (n.toNat, fl)

/-! ## Exact operations with the special cases of IEEE 754 (R96) -/

/-- A result and the flags that forming it raised, before its rounding. -/
abbrev NumF := Num × Flags

/-- The default NaN, with NV if any operand is signalling (R96). -/
def nanOf (sig : Bool) : NumF := (.nan false, Flags.when sig Flags.nv)

/-- The default NaN of an invalid operation. -/
def invalid : NumF := (.nan false, Flags.nv)

/-- The signed integer of units 2^g of an exact finite magnitude, for g at most e. -/
def scaled (neg : Bool) (m : Nat) (e g : Int) : Int :=
  let n : Int := m * 2 ^ (e - g).toNat
  if neg then -n else n

/-- The sign of an exact zero sum: equal signs keep theirs; otherwise + but under RDN (R96). -/
def zeroSign (na nb : Bool) (rnd : Rnd) : Bool := if na = nb then na else rnd == .rdn

/-- The exact sum (R96). -/
def addNum (a b : Num) (rnd : Rnd) : NumF :=
  match a, b with
  | .nan x, y => nanOf (x || y.isSig)
  | x, .nan y => nanOf (y || x.isSig)
  | .inf x, .inf y => if x = y then (.inf x, 0) else invalid
  | .inf x, _ => (.inf x, 0)
  | _, .inf y => (.inf y, 0)
  | .fin na ma ea sa, .fin nb mb eb sb =>
    let g := min ea eb
    let s := scaled na ma ea g + scaled nb mb eb g
    if s = 0 ∧ sa = false ∧ sb = false then (.exact (zeroSign na nb rnd) 0 0, 0)
    else (.fin (decide (s < 0)) s.natAbs g (sa || sb), 0)

/-- The exact product (R96). -/
def mulNum (a b : Num) : NumF :=
  match a, b with
  | .nan x, y => nanOf (x || y.isSig)
  | x, .nan y => nanOf (y || x.isSig)
  | .inf x, y => if y.isZero then invalid else (.inf (x != y.neg), 0)
  | x, .inf y => if x.isZero then invalid else (.inf (x.neg != y), 0)
  | .fin na ma ea sa, .fin nb mb eb sb => (.fin (na != nb) (ma * mb) (ea + eb) (sa || sb), 0)

/-- The exact quotient, to 200 bits and a sticky bit (R96). -/
def divNum (a b : Num) : NumF :=
  match a, b with
  | .nan x, y => nanOf (x || y.isSig)
  | x, .nan y => nanOf (y || x.isSig)
  | .inf x, .inf _ => let _ := x; invalid
  | .inf x, y => (.inf (x != y.neg), 0)
  | x, .inf y => (.exact (x.neg != y) 0 0, 0)
  | .fin na ma ea _, .fin nb mb eb _ =>
    if mb = 0 then
      if ma = 0 then invalid else (.inf (na != nb), Flags.dz)
    else if ma = 0 then (.exact (na != nb) 0 0, 0)
    else
      let k := 200 + sizeOf2 mb
      (.fin (na != nb) (ma * 2 ^ k / mb) (ea - eb - k) (ma * 2 ^ k % mb != 0), 0)

/-- The exact root, to at least 128 bits and a sticky bit (R96). -/
def sqrtNum (a : Num) : NumF :=
  match a with
  | .nan s => nanOf s
  | .inf neg => if neg then invalid else (.inf false, 0)
  | .fin neg m e _ =>
    if m = 0 then (.exact neg 0 0, 0)
    else if neg then invalid
    else
      let odd := e % 2
      let n := m * 2 ^ odd.toNat * 2 ^ 256
      let r := isqrt (sizeOf2 n) n
      (.fin false r ((e - odd) / 2 - 128) (r * r != n), 0)

/-- The exact a × b + c; an invalid product is invalid even beside a quiet NaN (R96). -/
def fmaNum (a b c : Num) (rnd : Rnd) : NumF :=
  let (p, fp) := mulNum a b
  if p.isNan then
    (.nan false, fp ||| Flags.when (c.isSig) Flags.nv)
  else
    let (r, fr) := addNum p c rnd
    (r, fp ||| fr)

/-- Order of two values that are no NaN: −1, 0 or 1; −0 equals +0. -/
def cmpNum (a b : Num) : Int :=
  match a, b with
  | .inf x, .inf y => if x = y then 0 else if x then -1 else 1
  | .inf x, _ => if x then -1 else 1
  | _, .inf y => if y then 1 else -1
  | .fin na ma ea _, .fin nb mb eb _ =>
    let g := min ea eb
    let d := scaled na ma ea g - scaled nb mb eb g
    if d < 0 then -1 else if d = 0 then 0 else 1
  | _, _ => 0

/-- FMIN and FMAX on values: −0 below +0, a NaN gives the other operand (R97). -/
def minmaxNum (wantMax : Bool) (a b : Num) : NumF :=
  let fl := Flags.when (a.isSig || b.isSig) Flags.nv
  if a.isNan ∧ b.isNan then (.nan false, fl)
  else if a.isNan then (b, fl)
  else if b.isNan then (a, fl)
  else
    let c := cmpNum a b
    let aLess := decide (c < 0) || (decide (c = 0) && a.neg && !b.neg)
    (if aLess = wantMax then b else a, fl)

/-! ## Integer elements and element formats by their codes (R25, R36) -/

/-- An element format with a width of its own: codes 1–8 of BFMT, and FP64. -/
inductive Fmt where
  | flt (f : FFmt)
  | int (w : Nat)
  deriving DecidableEq, Repr

/-- The format of a BFMT code 1–8 (R36). -/
def fmtOf : Nat → Option Fmt
  | 1 => some (.flt .fp32)
  | 2 => some (.flt .bf16)
  | 3 => some (.flt .fp16)
  | 4 => some (.flt .e4m3)
  | 5 => some (.flt .e5m2)
  | 6 => some (.int 8)
  | 7 => some (.int 16)
  | 8 => some (.int 32)
  | _ => none

/-- Element size in bytes of a BFMT code; RAW elements are words (R34, R37). -/
def elemSize : Nat → Nat
  | 0 => 4 | 1 => 4 | 2 => 2 | 3 => 2 | 4 => 1 | 5 => 1 | 6 => 1 | 7 => 2 | 8 => 4
  | _ => 0

/-- Record size in bytes of a record format's code; 0 for the others (R34). -/
def recBytes : Nat → Nat
  | 9 => 136 | 10 => 104 | 11 => 72 | 12 => 33
  | _ => 0

/-- Elements of one record (R28, R32). -/
def recElems : Nat → Nat
  | 9 => 256 | 10 => 256 | 11 => 256 | 12 => 32
  | _ => 0

/-- A record format (R35). -/
def isRec (code : Nat) : Bool := decide (9 ≤ code) && decide (code ≤ 12)

/-- Elements that a 16 KiB bank holds (R34). -/
def bankElems (code : Nat) : Nat :=
  if isRec code then 0x4000 / recBytes code * recElems code else 0x4000 / elemSize code

/-- encode: encode_float or encode_int, chosen by the format (R49). -/
def encodeFmt (f : Fmt) (v : Num) (rnd : Rnd) (sat : Bool) : Nat × Flags :=
  match f with
  | .flt f => encodeFloat v f rnd sat
  | .int w => encodeInt v w rnd sat

/-- The exact value of an element's bits (R27). -/
def decodeFmt (f : Fmt) (x : Nat) : Num :=
  match f with
  | .flt f => decodeFloat f x
  | .int w => .ofInt (sInt w x)

/-- Width in bits. -/
def Fmt.width : Fmt → Nat
  | .flt f => f.width
  | .int w => w

/-! ## Records (R28–R33) -/

/-- A UE4M4 scale: mantissa and exponent (R29). -/
def ue4m4 (b : Nat) : Num :=
  let e := bits b 4 4
  let m := bits b 0 4
  if e = 0 then .exact false m (-18) else .exact false (16 + m) ((e : Int) - 19)

/-- The levels of QN4, QN3 and QN2 as BF16 codes (R30). -/
def qn4Levels : List Nat :=
  [0xBF80, 0xBF35, 0xBF0B, 0xBED5, 0xBE9F, 0xBE5D, 0xBE02, 0xBD2C,
   0x3D2C, 0x3E02, 0x3E5D, 0x3E9F, 0x3ED5, 0x3F0B, 0x3F35, 0x3F80]

def qn3Levels : List Nat :=
  [0xBF80, 0xBF14, 0xBEA3, 0xBDD2, 0x3DD2, 0x3EA3, 0x3F14, 0x3F80]

def qn2Levels : List Nat := [0xBF80, 0xBE8E, 0x3E8E, 0x3F80]

/-- The levels of a codebook's code (R30). -/
def levels : Nat → List Nat
  | 9 => qn4Levels
  | 10 => qn3Levels
  | _ => qn2Levels

/-- Bits of a code of a codebook, and bytes of its block record (R31). -/
def codeBits : Nat → Nat
  | 9 => 4
  | 10 => 3
  | _ => 2

def blockBytes (code : Nat) : Nat := 1 + 8 * codeBits code

/-- Level `c` of a codebook as a value (R30). -/
def levelNum (code c : Nat) : Num := decodeFloat .bf16 ((levels code).getD c 0)

/-- Code `i` of a block record: the code bytes read as one little-endian bit string (R31). -/
def blockCode (code : Nat) (block : List Byte) (i : Nat) : Nat :=
  let k := codeBits code
  let lo := k * i
  bits (numOf ((block.drop (1 + lo / 8)).take 2)) (lo % 8) k

/-- The block record of element `j` of a superblock record (R32). -/
def blockOf (code : Nat) (rec : List Byte) (j : Nat) : List Byte :=
  (rec.drop (4 + blockBytes code * (j / 64))).take (blockBytes code)

/-- The FP32 superblock scale (R32). -/
def superScale (rec : List Byte) : Num := decodeFloat .fp32 (numOf (rec.take 4))

/-- Q[c] × s8 of element `j` of a superblock. -/
def blockValue (code : Nat) (rec : List Byte) (j : Nat) : Num :=
  let b := blockOf code rec j
  (mulNum (levelNum code (blockCode code b (j % 64))) (ue4m4 (b.headD 0).toNat)).1

/-- Element `j` of a superblock; a NaN is quiet and no flag is raised (R33). -/
def superElem (code : Nat) (rec : List Byte) (j : Nat) : Num :=
  let s := superScale rec
  match s with
  | .nan _ => .nan false
  | _ => (mulNum (blockValue code rec j) s).1

/-- Element `i` of a BSI8 record (R28). -/
def bsiElem (rec : List Byte) (i : Nat) : Num :=
  let e := (rec.headD 0).toNat
  if e = 255 then .nan false
  else
    let m := sInt 8 (rec.getD (1 + i) 0).toNat
    .exact (decide (m < 0)) m.natAbs ((e : Int) - 127)

/-- Element `j` of a record of format `code` (R28, R33). -/
def recElem (code : Nat) (rec : List Byte) (j : Nat) : Num :=
  if code = 12 then bsiElem rec j else superElem code rec j

/-! ## The exact accumulator (R46–R50) -/

/-- What a finite addend adds to W: its value × 2^320 (R47), and a free value for one that is no multiple of
2^−320 (log 50). -/
def acInt (neg : Bool) (m : Nat) (e : Int) : BitVec 656 :=
  let k := (-320 - e).toNat
  if m % 2 ^ k = 0 then BitVec.ofInt 656 (scaled neg (m / 2 ^ k) (max e (-320)) (-320))
  else Config.fineAddend neg m e

/-- xa_add on one element (R47). The addend count is its owner's. -/
def Acc.add (a : Acc) (v : Num) : Acc :=
  let a := match v with
    | .nan _ => { a with nan := true }
    | .inf false => { a with pinf := true }
    | .inf true => { a with ninf := true }
    | .fin neg m e _ => { a with w := a.w + acInt neg m e }
  { a with nan := a.nan || (a.pinf && a.ninf) }

/-- W lies outside the range of V (R47). -/
def Acc.outOfRange (a : Acc) : Bool :=
  decide (a.w.toInt < -(2 ^ 639 : Int)) || decide (a.w.toInt > 2 ^ 639 - 1)

/-- The signed value of V. -/
def Acc.v (a : Acc) : Int := (a.w.setWidth 640).toInt

def QAcc.add (q : QAcc) (v : Num) : QAcc := { acc := q.acc.add v, n := q.n + 1 }

/-- OVF of a q accumulator: a function of its addends (R46, R47). -/
def QAcc.ovf (q : QAcc) : Bool := decide (2 ^ 63 ≤ q.n.toNat) || q.acc.outOfRange

/-- OVF of a k tile (R46). -/
def KTile.ovf (k : KTile) : Bool := decide (2 ^ 63 ≤ k.n.toNat) || k.elems.any (fun e => e.2.outOfRange)

/-- default_nan_or_int (R49). -/
def defaultNanOrInt (f : Fmt) (sat : Bool) : Nat :=
  match f with
  | .flt f => f.nanCode
  | .int w => if sat then 0 else 2 ^ (w - 1)

/-- xa_read: one rounding (R49). -/
def Acc.read (a : Acc) (ovf : Bool) (f : Fmt) (rnd : Rnd) (sat : Bool) : Nat × Flags :=
  if a.nan then (defaultNanOrInt f sat, Flags.nv)
  else if a.pinf then encodeFmt f (.inf false) rnd sat
  else if a.ninf then encodeFmt f (.inf true) rnd sat
  else if ovf then (defaultNanOrInt f sat, Flags.nv ||| Flags.of)
  else
    let x := a.v
    encodeFmt f (.exact (decide (x < 0)) x.natAbs (-320)) rnd sat

/-- The exact sum of a list of values as an accumulator holds it, with NaN and infinity rules. -/
def sumExact (vs : List Num) : Num :=
  let nan := vs.any Num.isNan || (vs.any (· == .inf false) && vs.any (· == .inf true))
  if nan then .nan false
  else if vs.any (· == .inf false) then .inf false
  else if vs.any (· == .inf true) then .inf true
  else vs.foldl (fun s v => (addNum s v .rne).1) .zero

end Sys2Proof.Machine
end

