-- ==== Sys2Proof/Machine/Ops.lean ====
section
/-! DEFINITION. The named operations that every meaning is written over: tables, memory, cores and
threads, registers, the advance of the program counter, taking an exception and returning from one. -/

namespace Sys2Proof.Machine

/-- What a meaning answers. -/
abbrev Out := Host.Outcome State Fault Refusal

/-! ## Tables -/

/-- The entry of a table under a key. -/
def tget {α : Type} : Table α → Nat → Option α
  | [], _ => none
  | (k, v) :: t, i => if k = i then some v else tget t i

/-- Sets the entry of a table, keeping the keys in order. -/
def tput {α : Type} : Table α → Nat → α → Table α
  | [], i, x => [(i, x)]
  | (k, v) :: t, i, x =>
    if i < k then (i, x) :: (k, v) :: t else if i = k then (i, x) :: t else (k, v) :: tput t i x

/-- Removes the entry of a table. -/
def tdel {α : Type} (t : Table α) (i : Nat) : Table α := t.filter (fun e => e.1 != i)

/-- Changes the entry of a table where there is one. -/
def tmod {α : Type} (t : Table α) (i : Nat) (f : α → α) : Table α :=
  t.map (fun e => if e.1 = i then (e.1, f e.2) else e)

/-- Changes every entry of a table. -/
def tmap {α : Type} (t : Table α) (f : Nat → α → α) : Table α := t.map (fun e => (e.1, f e.1 e.2))

/-- The lowest number from `i` on, of at most `n`, that a test accepts. -/
def firstFrom (p : Nat → Bool) : Nat → Nat → Option Nat
  | 0, _ => none
  | n + 1, i => if p i then some i else firstFrom p n (i + 1)

/-- The lowest number below `n` that is no key of the table. -/
def tfree {α : Type} (t : Table α) (lo n : Nat) : Option Nat :=
  firstFrom (fun i => decide (lo ≤ i) && (tget t i).isNone) n 0

/-! ## Memory (R2, R15, R163) -/

/-- One byte; an unlisted address reads as 0 (log 1). -/
def memGet : Memory → Nat → Byte
  | [], _ => 0
  | (k, v) :: m, a => if k = a then v else memGet m a

/-- Writes one byte and keeps the canonical form. -/
def memSet : Memory → Nat → Byte → Memory
  | [], a, b => if b = 0 then [] else [(a, b)]
  | (k, v) :: m, a, b =>
    if a < k then (if b = 0 then (k, v) :: m else (a, b) :: (k, v) :: m)
    else if a = k then (if b = 0 then m else (a, b) :: m)
    else (k, v) :: memSet m a b

/-- Addresses rise strictly from above `lo`, and no listed byte is 0. -/
def memOk : Nat → Memory → Bool
  | _, [] => true
  | lo, (k, v) :: m => decide (lo ≤ k) && v != 0 && memOk (k + 1) m

/-- The canonical form of memory. -/
def Memory.wf (m : Memory) : Bool := memOk 0 m

/-- `n` bytes from an address, lowest first. -/
def memBytes (m : Memory) (a n : Nat) : List Byte := (List.range n).map (fun i => memGet m (a + i))

/-- A little-endian number of `n` bytes. -/
def memRead (m : Memory) (a n : Nat) : Nat := numOf (memBytes m a n)

/-- Stores a list of bytes. -/
def memStore : Memory → Nat → List Byte → Memory
  | m, _, [] => m
  | m, a, b :: bs => memStore (memSet m a b) (a + 1) bs

/-- Stores a little-endian number of `n` bytes. -/
def memWrite (m : Memory) (a n v : Nat) : Memory := memStore m a (bytesOf n v)

/-! ## The mesh (R9–R12) -/

/-- The rotation and reflection of a quadrant of side `s`. -/
def hilbertRot (s x y rx ry : Nat) : Nat × Nat :=
  if ry = 0 then
    if rx = 1 then (s - 1 - y, s - 1 - x) else (y, x)
  else (x, y)

/-- hilbert_to_xy, one level at a time (R10). -/
def hilbertGo : Nat → Nat → Nat → Nat → Nat → Nat × Nat
  | 0, _, _, x, y => (x, y)
  | n + 1, s, t, x, y =>
    let rx := t / 2 % 2
    let ry := (t + rx) % 2
    let (x, y) := hilbertRot s x y rx ry
    hilbertGo n (2 * s) (t / 4) (x + s * rx) (y + s * ry)

/-- The mesh coordinates of a core (R10). -/
def hilbertXY (h : Nat) : Nat × Nat := hilbertGo 6 1 h 0 0

/-- The inverse, from the highest level down. -/
def hilbertInv : Nat → Nat → Nat → Nat
  | 0, _, _ => 0
  | n + 1, x, y =>
    let s := 2 ^ n
    let rx := x / s % 2
    let ry := y / s % 2
    let q := if rx = 0 then ry else 3 - ry
    let (x', y') := hilbertRot s (x % s) (y % s) rx ry
    q * (s * s) + hilbertInv n x' y'

/-- The Hilbert index of mesh coordinates (R10). -/
def hilbertH (x y : Nat) : Nat := hilbertInv 6 x y

/-- A service core (R12). -/
def isService (h : Nat) : Bool := h % 16 == 15

/-- The die of a core (R9). -/
def dieOf (h : Nat) : Nat := h / 256

/-! ## Cores, threads, contexts -/

/-- A value for a context number that names no context. -/
def Ctx.blank : Ctx :=
  { part := 0, level := 0, parent := 0, st := .draining, ttb1 := 0, ttb2 := 0, psaOff := 0,
    psaValid := false, svch := 0, coreBase := 0, coreLen := 0, extents := [], energy := 0, queues := 0,
    queuesGot := 0, cells := 0, cellsGot := 0, vf := none, graphs := [], slots := [], jobmap := none,
    job := none, jobVf := none, tags := [], pnum := 0, pstart := 0, jstart := 0, rollbk := 0, unprot := false, remap := [], relaunch := none,
    shortg := [] }

/-- A value for a partition number that names no partition. -/
def Part.blank : Part :=
  { hbase := 0, hlen := 0, root := 0, det := false, cken := false, weight := 0, pways := [],
    defMask := [], save := { base := 0, size := 0 }, journal := { base := 0, size := 0 },
    gate := { base := 0, size := 0 }, tpool := { base := 0, size := 0 }, tables := [], saves := [],
    jpages := [], gated := [], lend := false, prepared := none, partner := none, out := false }

def State.core (s : State) (h : Nat) : Core := (tget s.cores h).getD Core.reset

def State.setCore (s : State) (h : Nat) (c : Core) : State := { s with cores := tput s.cores h c }

def State.modCore (s : State) (h : Nat) (f : Core → Core) : State := s.setCore h (f (s.core h))

def Core.thread (c : Core) (tid : Nat) : Thread := (tget c.threads tid).getD Thread.reset

def Core.modThread (c : Core) (tid : Nat) (f : Thread → Thread) : Core :=
  { c with threads := tput c.threads tid (f (c.thread tid)) }

def State.thread (s : State) (h tid : Nat) : Thread := (s.core h).thread tid

def State.modThread (s : State) (h tid : Nat) (f : Thread → Thread) : State :=
  s.modCore h (fun c => c.modThread tid f)

/-- The thread context that executes. -/
def State.cur (s : State) : Thread := s.thread s.curCore s.curTid

def State.modCur (s : State) (f : Thread → Thread) : State := s.modThread s.curCore s.curTid f

def State.ctx (s : State) (c : Nat) : Ctx := (tget s.ctxs c).getD Ctx.blank

def State.modCtx (s : State) (c : Nat) (f : Ctx → Ctx) : State := { s with ctxs := tmod s.ctxs c f }

def State.part (s : State) (p : Nat) : Part := (tget s.parts p).getD Part.blank

def State.modPart (s : State) (p : Nat) (f : Part → Part) : State :=
  { s with parts := tmod s.parts p f }

def State.vfOf (s : State) (v : Nat) : Vf := (tget s.vfs v).getD Vf.reset

def State.modVf (s : State) (v : Nat) (f : Vf → Vf) : State :=
  { s with vfs := tput s.vfs v (f (s.vfOf v)) }

def State.die (s : State) (d : Nat) : Die := (tget s.dies d).getD Die.reset

def State.modDie (s : State) (d : Nat) (f : Die → Die) : State :=
  { s with dies := tput s.dies d (f (s.die d)) }

def State.port (s : State) (p : Nat) : Port := (tget s.ports p).getD Port.reset

/-- The unit of a core, or a unit of nothing where none is resident. -/
def UnitId.nobody : UnitId := { ctx := 0, lnum := 0, index := 0 }

def State.unitId (s : State) (h : Nat) : UnitId := ((s.core h).unit.map Resident.id).getD UnitId.nobody

/-- The context whose unit a core runs (R111). -/
def State.ctxAt (s : State) (h : Nat) : Nat := (s.unitId h).ctx

/-- The running context (R111). -/
def State.curCtx (s : State) : Nat := s.ctxAt s.curCore

/-- The unit of the core is a provisional unit of a gambit launch (R145). -/
def State.provisional (s : State) (h : Nat) : Bool := ((s.core h).unit.map Resident.prov).getD false

/-- A fresh number for a record of the model. -/
def State.fresh (s : State) : Nat × State := (s.nextId, { s with nextId := s.nextId + 1 })

/-- `a` is `b` or an ancestor of `b`; a tree has at most eight levels (R294). -/
def State.ancestorGo (s : State) : Nat → Nat → Nat → Bool
  | 0, a, b => a == b
  | n + 1, a, b => a == b || (let p := (s.ctx b).parent; p != b && s.ancestorGo n a p)

def State.reaches (s : State) (a b : Nat) : Bool := s.ancestorGo 8 a b

/-- The partition root of a context (R292). -/
def State.rootOf (s : State) (c : Nat) : Nat := (s.part (s.ctx c).part).root

/-! ## Registers (R54, R78, R79) -/

/-- Reads a general register; g0 reads as 0 (R54, R78). -/
def Regs.readG (r : Regs) (n : Reg) : Word := if n = 0 then 0 else r.g[n]

/-- Writes a general register; a write to g0 is discarded (R54, R78). -/
def Regs.writeG (r : Regs) (n : Reg) (v : Word) : Regs :=
  if n = 0 then r else { r with g := r.g.set n v }

def Regs.readF (r : Regs) (n : Reg) : Word := r.f[n]

def Regs.writeF (r : Regs) (n : Reg) (v : Word) : Regs := { r with f := r.f.set n v }

/-- A general register of the executing thread. -/
def State.g (s : State) (n : Reg) : Word := s.cur.r.readG n

/-- An f register of the executing thread. -/
def State.f (s : State) (n : Reg) : Word := s.cur.r.readF n

def Thread.modR (t : Thread) (f : Regs → Regs) : Thread := { t with r := f t.r }

def Thread.modU (t : Thread) (f : UnitWords → UnitWords) : Thread := { t with u := f t.u }

def State.setG (s : State) (n : Reg) (v : Word) : State := s.modCur (·.modR (·.writeG n v))

def State.setF (s : State) (n : Reg) (v : Word) : State := s.modCur (·.modR (·.writeF n v))

/-- Flags of the executing thread (R86). -/
def State.raise (s : State) (f : Flags) : State := s.modCur (·.modR (·.raise f))

/-- Flags that a unit raises for the thread that issued the operation (R86). -/
def State.raiseAt (s : State) (h tid : Nat) (f : Flags) : State := s.modThread h tid (·.modR (·.raise f))

/-- A register by its pending-set number: 0–31 g, 32–63 f (R63). -/
def Regs.writeN (r : Regs) (n : Nat) (v : Word) : Regs :=
  if n < 32 then r.writeG (Fin.ofNat 32 n) v else r.writeF (Fin.ofNat 32 n) v

/-! ## The program counter (R61, R62, R119, R121) -/

/-- The state of a loop level. -/
def Regs.loop (r : Regs) (one : Bool) : Loop := if one then r.loop1 else r.loop0

def Regs.setLoop (r : Regs) (one : Bool) (l : Loop) : Regs :=
  if one then { r with loop1 := l } else { r with loop0 := l }

/-- after_instruction: the next address and the loop counts (R121). -/
def Regs.loopReturn (r : Regs) (addr next : Word) : Regs × Word :=
  let try1 (r : Regs) (one : Bool) : Option (Regs × Word) :=
    let l := r.loop one
    if l.cnt ≠ 0 ∧ addr = l.lend then
      some (r.setLoop one { l with cnt := l.cnt - 1 }, if l.cnt - 1 ≠ 0 then l.sta else next)
    else none
  match try1 r true with
  | some x => x
  | none => (try1 r false).getD (r, next)

/-- A taken BR, J or JR that leaves the body of a level cancels the level (R121). -/
def Regs.cancelLoops (r : Regs) (addr target : Word) : Regs :=
  let inside (l : Loop) (a : Word) : Bool := decide (l.sta.toNat ≤ a.toNat) && decide (a.toNat ≤ l.lend.toNat)
  let one (r : Regs) (lv : Bool) : Regs :=
    let l := r.loop lv
    if inside l addr && !inside l target then r.setLoop lv { l with cnt := 0 } else r
  one (one r true) false

/-- Each instruction that issues counts in every open window (R62). -/
def Thread.tick (t : Thread) : Thread := { t with pend := t.pend.map (fun p => { p with since := p.since + 1 }) }

/-- An instruction completes without a trap and without a taken branch (R121). -/
def Thread.advance (t : Thread) : Thread :=
  let t := t.tick
  let (r, pc) := t.r.loopReturn t.r.pc (t.r.pc + 4)
  { t with r := { r with pc := pc }, wait := .none }

/-- An instruction sets the program counter itself (R114–R116). -/
def Thread.jump (t : Thread) (target : Word) (cancels : Bool) : Thread :=
  let t := t.tick
  let r := if cancels then t.r.cancelLoops t.r.pc target else t.r
  { t with r := { r with pc := target } }

def State.retire (s : State) : State := s.modCur Thread.advance

def State.jumpTo (s : State) (target : Word) (cancels : Bool) : State := s.modCur (·.jump target cancels)

/-- The thread waits at its present instruction, which issues again (R107). -/
def State.block (s : State) (w : Wait) : State := s.modCur (fun t => { t with wait := w })

/-! ## Taking an exception and returning from one (R124–R126, R404, R408, R410) -/

/-- What a trap carries: its cause and INFO, the return address, and for a record the ply number, whether
it is late, and the address and the word that it names (R405, R411). -/
structure Trap where
  code : Nat
  info : Nat
  epc : Word
  ply : Word32
  late : Bool
  waddr : Word
  word : Word32

/-- TCAUSE of a trap (R404). -/
def Trap.cause (k : Trap) : Word := w64 (k.code * 2 ^ 56 + k.info % 2 ^ 56)

/-- INFO with an address: [55:4] its low 52 bits, [3:2] the access kind, [1:0] a sub-code (R405). -/
def addrInfo (a : Word) (kind sub : Nat) : Nat := a.toNat % 2 ^ 52 * 16 + kind % 4 * 4 + sub % 4

/-- The words of a trap record apart from SEQ and REPLY, with TPLY.LOST at the post (R411). -/
def trapBody (s : State) (h tid : Nat) (k : Trap) (nowait : Bool) : List Word :=
  let lost := (s.thread h tid).t.lost.toNat
  [k.cause, k.epc,
   w64 (k.ply.toNat + b2n k.late * 2 ^ 32 + b2n nowait * 2 ^ 33 + lost * 2 ^ 34),
   w64 (h + tid * 2 ^ 12 + s.ctxAt h * 2 ^ 32),
   k.waddr, k.word.setWidth 64]

/-- Where a trap message of a context posts: its own area, its parent's for a thread on that service core
itself, the management processor's for a root's thread there (R410). -/
def trapTarget (s : State) (h c : Nat) : Nat × Bool :=
  let x := s.ctx c
  if x.svch = h then (if x.level = 0 then (c, true) else (x.parent, false)) else (c, false)

/-- Hands a record to the hardware that posts it (R287, R412). -/
def State.addPost (s : State) (page : Bool) (target : Nat) (mp : Bool) (body : List Word) (w : Waiter)
    (u : Option UnitId) : Nat × State :=
  let (id, s) := s.fresh
  let post : Post :=
    { id := id, page := page, target := target, mp := mp, body := body, waiter := w, unit := u, copies := []
      due := true }
  (id, { s with posts := s.posts ++ [post] })

/-- Takes a trap in a thread whose pending instructions are complete: into its handler, or as a message to
the designated service core for whose reply the thread waits; only the first takes LOST for a late fault (R124, R408). -/
def takeTrap (s : State) (h tid : Nat) (k : Trap) : State :=
  let t := (s.thread h tid).t
  if t.tvec.getLsbD 0 ∧ t.inh = false then
    s.modThread h tid fun th =>
      { th with
        t := { th.t with
          tepc := k.epc &&& ~~~3#64
          tcause := k.cause
          inh := true
          ply := if k.late then k.ply else th.t.ply
          lost := if k.late then BitVec.ofNat 8 (min 255 th.lateLost) else th.t.lost }
        lateLost := if k.late then 0 else th.lateLost
        r := { th.r with pc := t.tvec &&& ~~~3#64 }
        wait := .none }
  else
    let (target, mp) := trapTarget s h (s.ctxAt h)
    let (id, s) := s.addPost false target mp (trapBody s h tid k false)
      (.trap h tid (s.unitId h)) (some (s.unitId h))
    s.modThread h tid fun th => { th with wait := .trapReply id }

/-- RTE: the return from the handler (R126). -/
def returnFromTrap (t : Thread) : Thread :=
  let t := t.jump t.t.tepc false
  { t with t := { t.t with inh := false } }

/-! ## Late faults (R405–R408) -/

/-- A late fault enters its thread's queue of four, or is lost (R406). -/
def lateFault (s : State) (h tid : Nat) (f : LateFault) : State :=
  s.modThread h tid fun t =>
    if t.late.length < 4 then { t with late := t.late ++ [f] } else { t with lateLost := t.lateLost + 1 }

/-- The codes of the late causes (R405). -/
def Late.tnrdy : Nat := 0x20
def Late.sflt : Nat := 0x21
def Late.bflt : Nat := 0x22
def Late.fflt : Nat := 0x23
def Late.frng : Nat := 0x24
def Late.mopf : Nat := 0x25
def Late.copf : Nat := 0x26
def Late.cref : Nat := 0x27
def Late.xaflt : Nat := 0x28
def Late.xpden : Nat := 0x29
def Late.qopf : Nat := 0x2A
def Late.bopf : Nat := 0x2B
def Late.xcinc : Nat := 0x2C

end Sys2Proof.Machine
end

