-- ==== Sys2Proof/Machine/Home.lean ====
section
/-! DEFINITION. Homes: the system-physical map, the banks behind a bank number, the checks at a home, and
reads and writes of bytes where they live, with the journal and the host gate (R15, R135–R140, R163, R273,
R430–R433). -/

namespace Sys2Proof.Machine

/-! ## The system-physical map (R15, R273) -/

def spaHost : Nat := 0x0008000000000000
def spaAlias : Nat := 0x000F000000000000

/-- The global alias of offset 0 of a core (R15). -/
def aliasBase (h : Nat) : Nat :=
  let (x, y) := hilbertXY h
  spaAlias + x * 2 ^ 27 + y * 2 ^ 21

/-- The core and the offset of a global alias without its module base. -/
def aliasParts (o : Nat) : Nat × Nat := (hilbertH (bits o 27 6) (bits o 21 6), bits o 0 21)

/-- An offset that a core backs: all of a mailbox, 96 banks of a scratchpad (R15). -/
def offsetBacked (h off : Nat) : Bool := isService h || decide (off < 0x180000)

/-- Module M has backing: below 432 and set in the PRESENT map (R273). -/
def State.present (s : State) (m : Nat) : Bool := decide (m < 432) && s.mp.present.getLsbD m

/-- An SPA in its canonical form: this module's own addresses in their local ranges; none without backing. -/
def State.normSpa (s : State) (spa : Nat) : Option Nat :=
  if spa < 2 ^ 41 then some spa
  else if 0x0004000000000000 ≤ spa ∧ spa < 0x0004000000000000 + 432 * 2 ^ 41 then
    let o := spa - 0x0004000000000000
    let m := o / 2 ^ 41
    if !s.present m then none else if m = s.mp.modnum then some (o % 2 ^ 41) else some spa
  else if spaHost ≤ spa ∧ spa < spaHost + 2 ^ 48 then some spa
  else if 0x000E000000000000 ≤ spa ∧ spa < 0x000E000000000000 + 432 * 2 ^ 33 then
    let o := spa - 0x000E000000000000
    let m := o / 2 ^ 33
    let (h, off) := aliasParts o
    if !s.present m || !offsetBacked h off then none
    else if m = s.mp.modnum then some (spaAlias + o % 2 ^ 33) else some spa
  else if spaAlias ≤ spa ∧ spa < spaAlias + 2 ^ 33 then
    let (h, off) := aliasParts (spa - spaAlias)
    if offsetBacked h off then some spa else none
  else none

/-- A home (R163). -/
inductive Home where
  | core (h : Nat)
  | stack (n : Nat)
  | host
  | far (m : Nat)
  deriving DecidableEq, Repr

/-- The home of a canonical SPA (R15, R163, R273). -/
def homeOf (spa : Nat) : Home :=
  if spa < 2 ^ 41 then .stack (bits spa 12 5)
  else if spaAlias ≤ spa then .core (aliasParts (spa - spaAlias)).1
  else if spaHost ≤ spa ∧ spa < spaHost + 2 ^ 48 then .host
  else if spa < spaHost then .far ((spa - 0x0004000000000000) / 2 ^ 41)
  else .far ((spa - 0x000E000000000000) / 2 ^ 33)

/-- A home inside the instance of a scope around core `q` (R168). -/
def inScope (sc : Scope) (q : Nat) : Home → Bool
  | .core h => match sc with
    | .core => h == q
    | .die => dieOf h == dieOf q
    | _ => true
  | .stack n => match sc with
    | .core => false
    | .die => n / 2 == dieOf q
    | _ => true
  | .far _ => match sc with
    | .dom | .sys => true
    | _ => false
  | .host => sc == .sys

/-! ## Banks (R36, R134–R140, R153) -/

/-- The physical bank behind a bank number (R153). -/
def Core.phys (c : Core) (n : Nat) : Nat := (tget c.rename n).getD n

def Core.bank (c : Core) (n : Nat) : Bank := (tget c.banks n).getD Bank.reset

def Core.modBank (c : Core) (n : Nat) (f : Bank → Bank) : Core :=
  { c with banks := tput c.banks n (f (c.bank n)) }

/-- The bank number is a shadow bank of a defined tile (R153). -/
def shadowIn (tiles : Table Tile) (n : Nat) : Bool :=
  tiles.any (fun t => !t.2.nosh && decide (t.2.sbank ≤ n) && decide (n < t.2.sbank + t.2.nb))

/-- The resident unit has claimed the bank (R134). -/
def Core.claimed (c : Core) (n : Nat) : Bool :=
  match c.unit with
  | some u => decide (n < 96) && u.bankMask.getLsbD n
  | none => false

/-- Where the byte `off` of a core's local memory is held: the alias of the physical bank (R135, R153). -/
def State.physAddr (s : State) (h off : Nat) : Nat :=
  if isService h then aliasBase h + off
  else aliasBase h + (s.core h).phys (off / 0x4000) * 0x4000 + off % 0x4000

/-- Where bytes are held: memory, or the save area of an evicted unit's spilled bank (R137, R139). -/
inductive Loc where
  | mem (a : Nat)
  | saved (h : Nat) (u : UnitId) (bank off : Nat)
  deriving DecidableEq, Repr

/-- Why a private-alias access of the resident unit cannot be performed, as the code of LREF; none when it
can (R144, checks 2 to 4). -/
def State.localCheck (s : State) (h : Nat) (a : Nat) : Option Nat :=
  if isService h then none
  else if 0x180000 ≤ a then some 0
  else if !(s.core h).claimed (a / 0x4000) then some 1
  else if shadowIn (s.core h).tiles (a / 0x4000) then some 3
  else none

/-- The evicted unit whose spilled bank `n` a context may reach; the bank is no shadow bank of a tile that the unit has
defined (R139, R140, R153). DESIGN CHOICE: R139 speaks of one spilled owner; of several within the context's reach it is
the one evicted earliest (log 83). -/
def Core.spilledFor (c : Core) (n : Nat) (ok : Nat → Bool) : Option UnitId :=
  (c.evicted.find? (fun e => (tget e.banks n).isSome && ok e.res.id.ctx && !shadowIn e.tiles n)).map (·.res.id)

/-- A context number that names no context: the issuer of an access from outside the module. -/
def outside : Nat := 4096

/-- The core lies in the interval of a partition that does not hold it, and the context is one of that partition: nothing
of it is there (R419). -/
def State.castledAway (s : State) (c h : Nat) : Bool :=
  match tget s.ctxs c with
  | some x => (s.part x.part).out && decide ((s.part x.part).hbase ≤ h) && decide (h < (s.part x.part).hbase + (s.part x.part).hlen)
  | none => false

/-- Where an access of context `c` through the global alias is performed; none: it is refused (R139, R140, R419). -/
def State.aliasLoc (s : State) (c h off : Nat) : Option Loc :=
  if s.castledAway c h then none
  else if isService h then some (.mem (s.physAddr h off))
  else
    let n := off / 0x4000
    let k := s.core h
    let ok := fun o => s.reaches c o
    let resident := match k.unit with
      | some u => k.claimed n && ok u.id.ctx
      | none => false
    if resident then
      if shadowIn k.tiles n then none else some (.mem (s.physAddr h off))
    else
      match k.spilledFor n ok with
      | some u => some (.saved h u n (off % 0x4000))
      | none =>
        match (k.bank n).owner with
        | some u =>
          if k.claimed n || !ok u.ctx then none
          else if k.evicted.any (fun e => e.res.id == u && shadowIn e.tiles n) then none
          else some (.mem (s.physAddr h off))
        | none => none

/-- Where an access of context `c` to a canonical SPA is performed (R139, R140). -/
def State.locOf (s : State) (c spa : Nat) : Option Loc :=
  match homeOf spa with
  | .core h => s.aliasLoc c h (aliasParts (spa - spaAlias)).2
  | _ => some (.mem spa)

/-! ## Bytes at a home -/

/-- A byte that a held write gives, with the write's place in the order (R433). -/
def GateEntry.byte (g : GateEntry) (a : Nat) : Option (Nat × Byte) :=
  match g with
  | .write _ o _ bs => (bs.find? (fun e => e.1 == a)).map (fun e => (o, e.2))
  | .interrupt .. => none

/-- The latest held write to a byte of host memory, of all partitions (R164, R433). -/
def State.gateByte (s : State) (a : Nat) : Option Byte :=
  ((s.parts.flatMap (fun p => p.2.gated.filterMap (·.byte a))).foldl (fun (best : Option (Nat × Byte)) e =>
    match best with
    | some b => if b.1 < e.1 then some e else best
    | none => some e) none).map (·.2)

/-- A later write to `n` bytes takes the place of held ones: they are not released over it (R164). -/
def GateEntry.under (g : GateEntry) (before a n : Nat) : GateEntry :=
  match g with
  | .write c o k bs =>
    if o < before then .write c o k (bs.filter (fun e => !(decide (a ≤ e.1) && decide (e.1 < a + n)))) else g
  | .interrupt .. => g

def State.overwrite (s : State) (before a n : Nat) : State :=
  { s with parts := tmap s.parts (fun _ p => { p with gated := p.gated.map (·.under before a n) }) }

/-- Bytes of host memory itself take a value that no held write older than `before` replaces (R433). -/
def State.hostPut (s : State) (before a : Nat) (bs : List Byte) : State :=
  let s := s.overwrite before a bs.length
  { s with mem := memStore s.mem a bs }

/-- One byte as every access of the module reads it (R164, R433). -/
def State.byteAt (s : State) (a : Nat) : Byte :=
  if spaHost ≤ a ∧ a < spaHost + 2 ^ 48 then (s.gateByte a).getD (memGet s.mem a)
  else memGet s.mem a

def State.evictedOf (s : State) (h : Nat) (u : UnitId) : Option Evicted :=
  (s.core h).evicted.find? (fun e => e.res.id == u)

def State.modEvicted (s : State) (h : Nat) (u : UnitId) (f : Evicted → Evicted) : State :=
  s.modCore h fun c => { c with evicted := c.evicted.map (fun e => if e.res.id = u then f e else e) }

def SavedBank.blank : SavedBank := { bytes := [], format := 0, sat := false, badw := false }

/-- The bytes at a place. -/
def State.readLoc (s : State) (l : Loc) (n : Nat) : List Byte :=
  match l with
  | .mem a => (List.range n).map (fun i => s.byteAt (a + i))
  | .saved h u b off =>
    match s.evictedOf h u with
    | some e =>
      let sb := (tget e.banks b).getD SavedBank.blank
      (List.range n).map (fun i => (tget sb.bytes (off + i)).getD 0)
    | none => List.replicate n 0

/-- Releases held host effects of a context's job in gate order (R429, R432, R433). -/
def gateOf (c : Nat) : GateEntry → Bool
  | .write k .. => k == c
  | .interrupt k _ _ => k == c

/-- A reset of a VF is under way that has cancelled a context's jobs: their held host effects are discarded (R449). -/
def State.resetting (s : State) (c : Nat) : Bool :=
  s.vfs.any (fun v => (v.2.resetting.map (·.contains c)).getD false)

/-- An interrupt message leaves for the host; none of a VF under reset does (R439, R449). -/
def State.sendInt (s : State) (v k : Nat) : State :=
  if (s.vfOf v).resetting.isSome then s else { s with mp := { s.mp with interrupts := s.mp.interrupts ++ [(v, k)] } }

def State.releaseGate (s : State) (c : Nat) : State :=
  let p := (s.ctx c).part
  let gs := (s.part p).gated
  let s := s.modPart p fun q => { q with gated := gs.filter (fun g => !gateOf c g) }
  if s.resetting c then s
  else
    (gs.filter (gateOf c)).foldl (fun s g => match g with
      | .write _ o _ bs => bs.foldl (fun s e => s.hostPut o e.1 [e.2]) s
      | .interrupt _ v k => s.sendInt v k) s

/-- A phase becomes unprotected: held host effects are released at once (R432). -/
def State.unprotect (s : State) (c : Nat) : State :=
  (s.modCtx c fun x => { x with unprot := true }).releaseGate c

/-- The context's job runs a protected phase (R429, R432). -/
def State.protectedJob (s : State) (c : Nat) : Bool :=
  (s.part (s.ctx c).part).cken && (s.ctx c).job.isSome && !(s.ctx c).unprot

/-- The journal of the first write of a job to a page in its phase (R430). -/
def State.journal (s : State) (c a : Nat) : State :=
  if !s.protectedJob c then s
  else
    let p := (s.ctx c).part
    let q := s.part p
    let page := a / 0x10000
    if q.jpages.any (fun j => j.ctx == c && j.page == page) then s
    else if q.journal.size / 0x10000 ≤ q.jpages.length then s.unprotect c
    else
      let old := s.mem.filter (fun e => decide (e.1 / 0x10000 = page))
      s.modPart p fun q => { q with jpages := q.jpages ++ [{ ctx := c, page := page, bytes := old }] }

/-- Bytes of the gate region that a held effect takes: 16 for an interrupt or a write of at most 8 bytes, and 16 more for
each further 8 (log 22). -/
def GateEntry.cost (g : GateEntry) : Nat :=
  match g with
  | .write _ _ n _ => 16 * max 1 ((n + 7) / 8)
  | .interrupt .. => 16

/-- A write to host memory of a protected job, or an interrupt that it causes, enters the host gate; none where the gate
has no room (R433). -/
def State.gate (s : State) (c : Nat) (g : GateEntry) : Option State :=
  if !s.protectedJob c then none
  else
    let p := (s.ctx c).part
    let q := s.part p
    if q.gate.size < (q.gated.map GateEntry.cost).sum + g.cost then none
    else some (s.modPart p fun q => { q with gated := q.gated ++ [g] })

/-- The granules of HBM that a range of bytes covers wholly hold no poison any more (R428). -/
def State.healed (s : State) (a n : Nat) : State :=
  { s with poison := s.poison.filter (fun g => !(decide (a ≤ 32 * g) && decide (32 * g + 32 ≤ a + n))) }

/-- Writes bytes in memory, with the journal for HBM and the gate for host memory; `c` is the context whose
job writes, or `outside`. -/
def State.writeMem (s : State) (c a : Nat) (bs : List Byte) : State :=
  match homeOf a with
  | .stack _ =>
    let s := (s.journal c a).healed a bs.length
    { s with mem := memStore s.mem a bs }
  | .host =>
    let (o, s) := s.fresh
    match s.gate c (.write c o bs.length (bs.zipIdx.map (fun e => (a + e.2, e.1)))) with
    | some s => s
    | none => (if s.protectedJob c then s.unprotect c else s).hostPut o a bs
  | _ => { s with mem := memStore s.mem a bs }

/-- Writes bytes at a place. -/
def State.writeLoc (s : State) (c : Nat) (l : Loc) (bs : List Byte) : State :=
  match l with
  | .mem a => s.writeMem c a bs
  | .saved h u b off =>
    s.modEvicted h u fun e =>
      { e with
        banks := tmod e.banks b fun sb =>
          { sb with bytes := (List.range bs.length).foldl (fun t i => tput t (off + i) (bs.getD i 0)) sb.bytes } }

/-- A read of poisoned bytes of HBM (R428). -/
def State.poisoned (s : State) (l : Loc) (n : Nat) : Bool :=
  match l with
  | .mem a => decide (a < 2 ^ 41) && s.poison.any (fun g => decide (32 * g < a + n) && decide (a < 32 * g + 32))
  | .saved .. => false

/-- Context `c` has read poisoned bytes: its tenant is charged before the next step (R428). -/
def State.strike (s : State) (c : Nat) : State := { s with struck := s.struck ++ [c] }

/-- Bytes of the core's own local memory by bank numbers, as its engines and streams reach them (R135). -/
def State.localBytes (s : State) (h off n : Nat) : List Byte :=
  (List.range n).map (fun i => memGet s.mem (s.physAddr h (off + i)))

def State.localStore (s : State) (h off : Nat) (bs : List Byte) : State :=
  (List.range bs.length).foldl (fun s i => { s with mem := memSet s.mem (s.physAddr h (off + i)) (bs.getD i 0) }) s

/-- Bytes at a place as the host itself reads them: of its own memory it sees nothing that the gate holds (R433). -/
def State.hostView (s : State) (l : Loc) (n : Nat) : List Byte :=
  match l with
  | .mem a => (List.range n).map (fun i => memGet s.mem (a + i))
  | l => s.readLoc l n

/-- What a walk's read of an entry at a canonical SPA gives: the entry, or poison; none: its home refuses the read
(R139, R140, R277, R428). -/
inductive Entry where
  | word (e : Nat)
  | poison
  | refused

/-- Eight bytes of a table as a walk of context `c` reads them, by a load of system scope over the mesh path (R277). -/
def State.read8 (s : State) (c spa : Nat) : Entry :=
  match s.locOf c spa with
  | some l => if s.poisoned l 8 then .poison else .word (numOf (s.readLoc l 8))
  | none => .refused

end Sys2Proof.Machine
end

