-- ==== Sys2Proof/Machine/Mmu.lean ====
section
/-! DEFINITION. Address translation: the two-dimensional walk, the translation buffers, and page requests
(chapter 12: R272–R289). -/

namespace Sys2Proof.Machine

/-- What an access needs, with its KIND in a page request (R276, R286). -/
inductive AccessKind where
  | load | store | atomic | fetch | copyRead | copyWrite | engineRead | engineWrite
  deriving DecidableEq, Repr

def AccessKind.code : AccessKind → Nat
  | .load => 0 | .store => 1 | .atomic => 2 | .fetch => 3 | .copyRead => 4 | .copyWrite => 5
  | .engineRead => 6 | .engineWrite => 7

/-- A leaf's bits grant the access (R276). -/
def AccessKind.ok (k : AccessKind) (p : Perm) : Bool :=
  match k with
  | .load | .copyRead | .engineRead => p.r
  | .store | .copyWrite | .engineWrite => p.w
  | .atomic => p.r && p.w
  | .fetch => p.x

/-- A page fault: its stage, where the walk stood, the GPA, the cause (R283, R286). -/
structure PageFault where
  stage : Nat
  onwalk : Bool
  s1lvl : Nat
  s2lvl : Nat
  gpa : Nat
  cause : Nat
  deriving DecidableEq, Repr

/-- How a translation ends; the SPA is as the leaf gives it, and has backing. -/
inductive Tr where
  | ok (spa : Nat)
  | access (sub : Nat)
  | page (f : PageFault)
  deriving DecidableEq, Repr

/-- The index of a level (R274). -/
def s1Index (va lvl : Nat) : Nat :=
  match lvl with
  | 0 => bits va 42 10
  | 1 => bits va 29 13
  | _ => bits va 16 13

def s2Index (g lvl : Nat) : Nat :=
  match lvl with
  | 0 => bits g 42 6
  | 1 => bits g 29 13
  | _ => bits g 16 13

/-- ADDR of an entry (R275). -/
def entryAddr (e : Nat) : Nat := bits e 16 36 * 0x10000

def entryLeaf (e : Nat) : Bool := bit e 1

/-- The permission bits of an entry (R275). -/
def entryPerms (e : Nat) : Perm := { r := bit e 2, w := bit e 3, x := bit e 4 }

/-- An entry with V = 1 that breaks a rule of its layout (R275). -/
def entryBad (e lvl stage : Nat) : Bool :=
  bits e 52 4 != 0 || bits e 5 11 != 0 || (stage == 1 && bits e 48 4 != 0) ||
  (lvl == 0 && bit e 1) || (lvl == 2 && !bit e 1) || (lvl == 1 && bit e 1 && bits e 16 13 != 0)

/-- The cause with which an entry ends a walk (R275–R277). -/
def entryCause (e lvl stage : Nat) (k : AccessKind) : Option Nat :=
  if !bit e 0 then some 0
  else if entryBad e lvl stage then some 2
  else if entryLeaf e && !k.ok (entryPerms e) then some 1
  else none

/-- The output of a leaf: the page or the 512 MiB block, and the offset (R274). -/
def leafOut (e lvl i : Nat) : Nat :=
  if lvl = 1 then bits e 29 23 * 2 ^ 29 + i % 2 ^ 29 else entryAddr e + i % 0x10000

/-- A GPA inside an extent of the context; for a root, inside its memory (R278). -/
def State.granted (s : State) (c g : Nat) : Bool :=
  (s.ctx c).extents.any (fun x => decide (x.cpage ≤ g / 0x10000) && decide (g / 0x10000 < x.cpage + x.npages))

/-- What a stage-2 walk finds: the output with its level and permissions, a fault, or a poisoned entry. -/
inductive S2 where
  | ok (spa : Nat) (lvl : Nat) (p : Perm)
  | access (sub : Nat)
  | miss (lvl cause : Nat)
  | poison
  deriving DecidableEq, Repr

/-- A stage-2 miss is a page fault inside the extents of the context, and an access fault outside (R277, R278). -/
def State.s2Miss (s : State) (c g lvl cause : Nat) : S2 := if s.granted c g then .miss lvl cause else .access 1

/-- s2_walk without its nested TLB (R277). DEDUCED: a table whose home refuses the read lies, for the walk, at an address
without backing (R140, R282; log 83). -/
def State.s2Go (s : State) (c g : Nat) (k : AccessKind) : Nat → Nat → Nat → S2
  | 0, _, _ => .access 3
  | n + 1, lvl, t =>
    match s.normSpa (t + 8 * s2Index g lvl) with
    | none => .access 3
    | some a =>
      match s.read8 c a with
      | .poison => .poison
      | .refused => .access 3
      | .word e =>
        match entryCause e lvl 2 k with
        | some cause => s.s2Miss c g lvl cause
        | none =>
          if entryLeaf e then .ok (leafOut e lvl g) lvl (entryPerms e)
          else s.s2Go c g k n (lvl + 1) (entryAddr e)

/-- The cluster of a core (R245, R279). -/
def clusterOf (h : Nat) : Nat :=
  let (x, y) := hilbertXY h
  x / 2 + 32 * (y / 2)

/-- A buffer entry that maps a page of the context. -/
def TlbEntry.covers (e : TlbEntry) (c page : Nat) : Bool :=
  e.ctx == c && (if e.big then e.page / 0x2000 == page / 0x2000 else e.page == page)

/-- The bytes that an entry maps. -/
def TlbEntry.span (e : TlbEntry) : Nat := if e.big then 2 ^ 29 else 0x10000

/-- What a buffer entry gives for an address: a 512 MiB entry keeps the base of its block. -/
def TlbEntry.out (e : TlbEntry) (a : Nat) : Nat := e.spa + a % e.span

/-- The first page that a leaf of the size covers. -/
def basePage (big : Bool) (a : Nat) : Nat := if big then a / 2 ^ 29 * 0x2000 else a / 0x10000

/-- Two entries map the same page or block. -/
def TlbEntry.same (x e : TlbEntry) : Bool := x.ctx == e.ctx && x.page == e.page && x.big == e.big

/-- Adds an entry to a fully associative buffer; a full one replaces one entry (R279; log 12). -/
def tlbFill (size steps : Nat) (l : List TlbEntry) (e : TlbEntry) : List TlbEntry :=
  let l := l.filter (fun x => !x.same e)
  if l.length < size then e :: l else e :: l.eraseIdx (Config.tlbVictim steps % l.length)

/-- The set of an entry in a buffer of 8 ways (R279; log 12). -/
def TlbEntry.set (e : TlbEntry) (sets : Nat) : Nat := Config.tlbSet e.ctx e.page % sets

/-- Adds an entry to a buffer of `sets` sets of 8 ways; a full set replaces one of its entries (R279; log 12). -/
def tlbFillSet (sets steps : Nat) (l : List TlbEntry) (e : TlbEntry) : List TlbEntry :=
  let l := l.filter (fun x => !x.same e)
  if l.length < 8 then e :: l
  else
    let mates := l.filter (fun x => x.set sets == e.set sets)
    if mates.length < 8 then e :: l
    else
      match mates[Config.tlbVictim steps % 8]? with
      | some v => e :: l.filter (fun x => x != v)
      | none => e :: l

/-- s2_walk with the nested buffer; a walk that reads a poisoned entry gets no data (R428). `w` is the walker `w` of the module, numbered by cluster (R277, R279). -/
def State.s2Walk (s : State) (w c g : Nat) (k : AccessKind) : State × S2 :=
  match ((tget s.nestedTlb w).getD []).find? (fun e => e.covers c (g / 0x10000)) with
  | some e => (s, if k.ok e.p2 then .ok (e.out g) e.lvl2 e.p2 else s.s2Miss c g e.lvl2 1)
  | none =>
    match s.s2Go c g k 3 0 (s.ctx c).ttb2 with
    | .ok spa lvl p =>
      let big := lvl == 1
      let e : TlbEntry :=
        { ctx := c, page := basePage big g, big := big, spa := spa - g % (if big then 2 ^ 29 else 0x10000)
          p1 := p, p2 := p, lvl1 := 0, lvl2 := lvl, ea := 0, gpage := basePage big g }
      let l := tlbFillSet 64 s.steps ((tget s.nestedTlb w).getD []) e
      ({ s with nestedTlb := tput s.nestedTlb w l }, .ok spa lvl p)
    | .poison => (s.strike c, .access 3)
    | r => (s, r)

/-- A walk that completed: the SPA and the entry for the buffers. -/
inductive Walked where
  | ok (e : TlbEntry) (spa : Nat)
  | access (sub : Nat)
  | page (f : PageFault)
  deriving DecidableEq, Repr

/-- A stage-2 result during a walk as the end of the walk. -/
def s2End (r : S2) (onwalk : Bool) (s1lvl g : Nat) : Walked :=
  match r with
  | .ok .. => .access 3
  | .poison => .access 3
  | .access sub => .access sub
  | .miss lvl cause =>
    .page { stage := 1, onwalk := onwalk, s1lvl := s1lvl, s2lvl := lvl, gpa := g, cause := cause }

/-- A stage-1 entry ends the walk with a page fault (R283). -/
def s1Fault (ea lvl cause : Nat) : PageFault :=
  { stage := 0, onwalk := false, s1lvl := lvl, s2lvl := 0, gpa := ea, cause := cause }

/-- The walk from stage-1 level `lvl` (R277). -/
def State.walkGo (s : State) (w c va : Nat) (k : AccessKind) : Nat → Nat → Nat → State × Walked
  | 0, _, _ => (s, .access 3)
  | n + 1, lvl, tab =>
    let ea := tab + 8 * s1Index va lvl
    let (s, r) := s.s2Walk w c ea k
    match r with
    | .ok sea _ _ =>
      match s.normSpa sea with
      | none => (s, .access 3)
      | some a =>
        match s.read8 c a with
        | .poison => (s.strike c, .access 3)
        | .refused => (s, .access 3)
        | .word e =>
        match entryCause e lvl 1 k with
        | some cause => (s, .page (s1Fault ea lvl cause))
        | none =>
          if entryLeaf e then
            let g := leafOut e lvl va
            if 2 ^ 48 ≤ g then (s, .access 3)
            else
              let (s, r) := s.s2Walk w c g k
              match r with
              | .ok spa lvl2 p2 =>
                if (s.normSpa spa).isNone then (s, .access 2)
                else
                  let big := lvl == 1 && lvl2 == 1
                  let ent : TlbEntry :=
                    { ctx := c, page := basePage big va, big := big
                      spa := spa - va % (if big then 2 ^ 29 else 0x10000)
                      p1 := entryPerms e, p2 := p2, lvl1 := lvl, lvl2 := lvl2, ea := ea, gpage := basePage big g }
                  (s, .ok ent spa)
              | r => (s, s2End r false 3 g)
          else s.walkGo w c va k n (lvl + 1) (entryAddr e)
    | r => (s, s2End r true lvl ea)

/-- Fills the core's buffer and its cluster's (R277, R279). -/
def State.fillTlbs (s : State) (h : Nat) (k : AccessKind) (e : TlbEntry) : State :=
  let cl := clusterOf h
  let l := tlbFillSet 256 s.steps ((tget s.clusterTlb cl).getD []) e
  let s := { s with clusterTlb := tput s.clusterTlb cl l }
  s.modCore h fun c =>
    if k = .fetch then { c with itlb := tlbFill 16 s.steps c.itlb e }
    else { c with dtlb := tlbFill 64 s.steps c.dtlb e }

/-- A choice that the spec leaves open among things of one kind: the next of the list of picks, else 0. -/
def State.pick (s : State) : Nat × State :=
  match s.picks with
  | [] => (0, s)
  | n :: l => (n, { s with picks := l })

/-- checked(tlb_entry): a cached translation serves an access as both leaves stood when it was cached, until it is
invalidated; the core decodes the backing of the SPA (R273, R277, R280). -/
def State.checked (s : State) (c a : Nat) (k : AccessKind) (e : TlbEntry) : Tr :=
  let g := e.gpage * 0x10000 + a % e.span
  if !k.ok e.p1 then .page (s1Fault e.ea e.lvl1 1)
  else if !k.ok e.p2 then
    (if s.granted c g then
      .page { stage := 1, onwalk := false, s1lvl := 3, s2lvl := e.lvl2, gpa := g, cause := 1 }
     else .access 1)
  else if (s.normSpa (e.out a)).isNone then .access 2
  else .ok (e.out a)

/-- translate: VA to SPA for an access of context `c` from core `h` (R272, R276, R277, R279). -/
def State.translate (s : State) (h c : Nat) (va : Word) (k : AccessKind) : State × Tr :=
  let a := va.toNat
  if 2 ^ 52 ≤ a then (s, .access 0)
  else
    let own := if k = .fetch then (s.core h).itlb else (s.core h).dtlb
    let cl := clusterOf h
    match (own ++ (tget s.clusterTlb cl).getD []).find? (fun e => e.covers c (a / 0x10000)) with
    | some e => (s, s.checked c a k e)
    | none =>
      let (w, s) := s.pick
      let (s, r) := s.walkGo (4 * cl + w % 4) c a k 3 0 (s.ctx c).ttb1.toNat
      match r with
      | .ok e spa => (s.fillTlbs h k e, .ok spa)
      | .access sub => (s, .access sub)
      | .page f => (s, .page f)

/-- The canonical form of an SPA that has backing (R273). -/
def State.canon (s : State) (spa : Nat) : Nat := (s.normSpa spa).getD spa

/-! ## Page requests (R283–R289) -/

/-- The extent of a context that holds a GPA names its granter: the parent, or the management processor for a
root (R278, R284). -/
def State.handlerOf (s : State) (c : Nat) (f : PageFault) : Nat × Bool :=
  if f.stage = 0 then (c, false)
  else if (s.ctx c).level = 0 then (c, true) else ((s.ctx c).parent, false)

/-- The words of a page-request record apart from SEQ and REPLY (R286). -/
def requestBody (c h tid agent tag : Nat) (va : Word) (k : AccessKind) (f : PageFault) : List Word :=
  [w64 (va.toNat % 2 ^ 52), w64 (f.gpa % 2 ^ 48),
   w64 (f.stage + b2n f.onwalk * 2 + f.s1lvl * 4 + f.s2lvl * 16 + k.code * 64 + f.cause * 512 +
        tag * 2 ^ 16 + c * 2 ^ 32),
   w64 (h + tid * 2 ^ 12 + agent * 2 ^ 16), 0, 0]

/-- The page of a fault: a VA page in stage 0, a GPA page in stage 1 (R283). -/
def faultPage (va : Word) (f : PageFault) : Nat :=
  if f.stage = 0 then va.toNat / 0x10000 else f.gpa / 0x10000

/-- A fault takes or joins a tag, and how its agent now waits (R283, R284). -/
def State.pageFault (s : State) (c h tid agent : Nat) (va : Word) (k : AccessKind) (f : PageFault) :
    State × PageWait :=
  let x := s.ctx c
  let page := faultPage va f
  match x.tags.find? (fun t => t.stage == f.stage && t.page == page) with
  | some t => (s, .tag c t.tag)
  | none =>
    match (List.range 64).find? (fun i => x.tags.all (fun t => t.tag != i)) with
    | none => (s, .full c)
    | some tag =>
      let (target, mp) := s.handlerOf c f
      if !mp ∧ (s.ctx target).st = .draining then (s, .replied true)
      else
        let (id, s) := s.addPost true target mp (requestBody c h tid agent tag va k f) (.page c tag) none
        let t : PageTag := { tag := tag, stage := f.stage, page := page, post := id }
        (s.modCtx c fun x => { x with tags := x.tags ++ [t] }, .tag c tag)

/-- The answer of a tag reaches an agent that waits on it (R288). -/
def PageWait.answer (p : PageWait) (c tag : Nat) (deny : Bool) : PageWait :=
  if p = .tag c tag then .replied deny else p

/-- The answer of a tag at a thread. -/
def Thread.answer (t : Thread) (c tag : Nat) (deny : Bool) : Thread :=
  match t.wait with
  | .page p va k => { t with wait := .page (p.answer c tag deny) va k }
  | _ => t

/-- The answer at a copy command: the stopped access, or the elements set aside with the tag (R244, R289). -/
def CopyCmd.answer (q : CopyCmd) (c tag : Nat) (deny : Bool) : CopyCmd :=
  let (mine, rest) := q.aside.partition (fun e => q.unit.ctx == c && e.2 == tag)
  let els := mine.map (·.1)
  { q with
    page := q.page.answer c tag deny
    aside := rest
    resume := if deny then q.resume else sortBy (fun i j => decide (i ≤ j)) (q.resume ++ els)
    denied := if deny then q.denied ++ els else q.denied }

def ColOp.answer (o : ColOp) (c tag : Nat) (deny : Bool) : ColOp :=
  { o with pages := tmap o.pages (fun _ p => p.answer c tag deny) }

/-- The answer at every agent of a core. -/
def Core.answer (k : Core) (c tag : Nat) (deny : Bool) : Core :=
  { k with
    threads := tmap k.threads (fun _ t => t.answer c tag deny)
    regBanks := tmap k.regBanks (fun _ b => match b with
      | .parked u tid o t => .parked u tid o (t.answer c tag deny)
      | b => b)
    cpy := k.cpy.map (·.answer c tag deny)
    evicted := k.evicted.map (fun e =>
      { e with threads := tmap e.threads (fun _ t => t.answer c tag deny) }) }

/-- Consumption frees the tag and sends the answer to every agent that waits on it (R288). -/
def State.answerTag (s : State) (c tag : Nat) (deny : Bool) : State :=
  let s := s.modCtx c fun x => { x with tags := x.tags.filter (fun t => t.tag != tag) }
  { s with
    cores := tmap s.cores (fun _ k => k.answer c tag deny)
    ctxs := tmap s.ctxs (fun _ x =>
      { x with
        relaunch := x.relaunch.map (·.answer c tag deny)
        graphs := tmap x.graphs (fun _ g =>
          { g with nodes := g.nodes.map (fun n => { n with page := n.page.answer c tag deny }) }) })
    launches := tmap s.launches (fun _ l => { l with page := l.page.answer c tag deny })
    recs := s.recs.map (fun r => { r with page := r.page.answer c tag deny })
    cmds := s.cmds.map (fun k => { k with page := k.page.answer c tag deny })
    vfs := tmap s.vfs (fun _ v =>
      { v with goWait := v.goWait.answer c tag deny, msgWait := v.msgWait.answer c tag deny })
    castled := s.castled.map (fun x => { x with cores := tmap x.cores (fun _ k => k.answer c tag deny) })
    dies := tmap s.dies (fun _ d =>
      { d with
        col := { d.col with
          queues := tmap d.col.queues (fun _ q => { q with ops := q.ops.map (·.answer c tag deny) }) } }) }

/-! ## Invalidation (R291) -/

/-- Drops the entries of a context that overlap pages of its VA space, or all. -/
def TlbEntry.hits (e : TlbEntry) (c : Nat) (all : Bool) (first n : Nat) : Bool :=
  e.ctx == c && (all ||
    (if e.big then decide (e.page < first + n) && decide (first < e.page + 0x2000)
     else decide (first ≤ e.page) && decide (e.page < first + n)))

/-- The words of pages that `p` names leave the instruction cache of a core that runs a unit of the context. -/
def Core.dropWords (k : Core) (c : Nat) (p : Nat → Bool) : Core :=
  if k.unit.map (fun r => r.id.ctx) = some c then { k with icache := k.icache.filter (fun e => !p (e.1 / 0x10000)) } else k

/-- Every buffer of the module drops the context's translations of the range, and the nested buffers the
context's entries that served them; instruction caches drop the words that were fetched through them (R291). -/
def State.dropVa (s : State) (c : Nat) (all : Bool) (first n : Nat) : State :=
  let f (l : List TlbEntry) : List TlbEntry := l.filter (fun e => !e.hits c all first n)
  let g (k : Core) : Core := k.dropWords c (fun p => all || (decide (first ≤ p) && decide (p < first + n)))
  { s with
    cores := tmap s.cores (fun _ k => { g k with itlb := f k.itlb, dtlb := f k.dtlb })
    clusterTlb := tmap s.clusterTlb (fun _ l => f l)
    nestedTlb := tmap s.nestedTlb (fun _ l => l.filter (fun e => e.ctx != c)) }

/-- The entry maps to a page of a range of GPA pages of the context. -/
def TlbEntry.mapsTo (e : TlbEntry) (c lo hi : Nat) : Bool :=
  e.ctx == c && decide (e.gpage < hi) && decide (lo < e.gpage + e.span / 0x10000)

/-- Every buffer of the module drops the translations of a context that go through a range of its GPA pages, and its
instruction caches their words (R309). -/
def State.dropGpa (s : State) (c lo hi : Nat) : State :=
  let f (l : List TlbEntry) : List TlbEntry := l.filter (fun e => !e.mapsTo c lo hi)
  { s with
    cores := tmap s.cores (fun _ k => { k.dropWords c (fun _ => true) with itlb := f k.itlb, dtlb := f k.dtlb })
    clusterTlb := tmap s.clusterTlb (fun _ l => f l)
    nestedTlb := tmap s.nestedTlb (fun _ l => f l) }

/-- Every buffer of the module drops all translations of a context (R309). -/
def State.dropCtx (s : State) (c : Nat) : State := s.dropVa c true 0 0

end Sys2Proof.Machine
end

