-- ==== Sys2Proof/Machine/Image.lean ====
section
/-! DEFINITION. What the graph engine reads of a context's memory: ranges by virtual address, the image header
with its checks, and the launch descriptor (R70–R72, R320, R343). -/

namespace Sys2Proof.Machine

/-! ## Ranges by virtual address -/

/-- How a read or a write of a range ends: done, an access fault or a refusal, or a page request. -/
inductive Rd (α : Type) where
  | ok (x : α)
  | access
  | page (p : PageWait)

/-- The pieces of a range that lie in one 64 KiB page each. -/
def pagePieces : Nat → Nat → Nat → List (Nat × Nat)
  | 0, _, _ => []
  | fuel + 1, a, n =>
    if n = 0 then []
    else
      let k := min n (0x10000 - a % 0x10000)
      (a, k) :: pagePieces fuel (a + k) (n - k)

def piecesOf (a n : Nat) : List (Nat × Nat) := pagePieces (n / 0x10000 + 2) a n

/-- Translates one address for an engine of core `h` that acts for thread `tid`; a fault posts a request
(R282, R283). -/
def State.engineTranslate (s : State) (h tid c agent : Nat) (va : Nat) (k : AccessKind) : State × Rd Nat :=
  let (s, r) := s.translate h c (w64 va) k
  match r with
  | .ok spa => (s, .ok (s.canon spa))
  | .access _ => (s, .access)
  | .page f =>
    let (s, p) := s.pageFault c h tid agent (w64 va) k f
    (s, .page p)

/-- Reads a range of a context's memory. -/
def State.readVa (s : State) (h tid c agent : Nat) (k : AccessKind) (va n : Nat) : State × Rd (List Byte) :=
  (piecesOf va n).foldl (fun (s, acc) (a, len) =>
    match acc with
    | .ok bs =>
      let (s, r) := s.engineTranslate h tid c agent a k
      match r with
      | .ok spa =>
        match s.locOf c spa with
        | some l => if s.poisoned l len then (s.strike c, .access) else (s, .ok (bs ++ s.readLoc l len))
        | none => (s, .access)
      | .access => (s, .access)
      | .page p => (s, .page p)
    | r => (s, r)) (s, .ok [])

/-! ## The image header (R70–R72) -/

/-- One bit of the reflected IEEE 802.3 CRC. -/
def crcBit (c : Nat) : Nat := if c % 2 = 1 then (c / 2) ^^^ 0xEDB88320 else c / 2

/-- One byte of it. -/
def crcByte (c : Nat) (b : Byte) : Nat :=
  crcBit (crcBit (crcBit (crcBit (crcBit (crcBit (crcBit (crcBit (c ^^^ b.toNat))))))))

/-- CRC-32 of a list of bytes (R70). -/
def crc32 (bs : List Byte) : Nat := bs.foldl crcByte 0xFFFFFFFF ^^^ 0xFFFFFFFF

/-- A field of `n` bytes at an offset of a record. -/
def recField (bs : List Byte) (off n : Nat) : Nat := numOf ((bs.drop off).take n)

/-- An entry of the section table (R71). -/
structure SectHdr where
  type : Nat
  addr : Nat
  fileoff : Nat
  size : Nat
  reserved : Nat

def sectHdr (bs : List Byte) : SectHdr :=
  { type := recField bs 0 4, addr := recField bs 8 8, fileoff := recField bs 16 8, size := recField bs 24 8,
    reserved := recField bs 4 4 }

/-- A header field of an image. -/
structure ImgHdr where
  raw : List Byte
  sects : List SectHdr

def ImgHdr.fld (i : ImgHdr) (off n : Nat) : Nat := recField i.raw off n

/-- Check 1 of R72. -/
def hdrCheck1 (raw : List Byte) : Bool :=
  recField raw 0 4 == 0x47575839 && recField raw 5 1 == 1 && recField raw 0xF0 4 == crc32 (raw.take 0xF0)

/-- A range of the private alias lies wholly in claimed banks (R71). -/
def inBanks (mask : Nat) (addr size : Nat) : Bool :=
  decide (addr + size ≤ 0x180000) &&
  (size == 0 || (List.range ((addr + size - 1) / 0x4000 - addr / 0x4000 + 1)).all
    (fun i => bit mask (addr / 0x4000 + i)))

/-- The part of check 2 that the header alone decides. -/
def hdrCheck2 (raw : List Byte) : Bool :=
  recField raw 6 2 == 0 && recField raw 0x26 2 == 0 && recField raw 0x3C 4 == 0 && recField raw 0x4B 5 == 0 &&
  recField raw 0xB0 64 == 0 && recField raw 0xF4 12 == 0 &&
  decide (recField raw 0x48 1 < 16) && decide (recField raw 0x49 1 ≤ 10) && decide (recField raw 0x4A 1 < 4) &&
  recField raw 0x18 8 % 4 == 0 && recField raw 0x20 4 % 8 == 0 && decide (0x100 ≤ recField raw 0x20 4) &&
  decide (1 ≤ recField raw 0x24 2) && decide (recField raw 0x24 2 ≤ 256) &&
  decide (recField raw 0x20 4 + 32 * recField raw 0x24 2 ≤ recField raw 0x28 8) &&
  (List.range 96).all (fun n =>
    let f := recField raw (0x50 + n) 1
    decide (f < 32) && decide (f % 16 ≤ 12) && (f == 0 || bit (recField raw 0x30 12) n))

/-- The part of check 2 that the section table decides. -/
def sectsCheck2 (i : ImgHdr) : Bool :=
  i.sects.all (fun x =>
    x.reserved == 0 && decide (1 ≤ x.type) && decide (x.type ≤ 5) &&
    (if x.type = 3 ∨ x.type = 5 then x.fileoff == 0 else decide (x.fileoff + x.size ≤ i.fld 0x28 8)) &&
    (if x.type = 4 ∨ x.type = 5 then inBanks (i.fld 0x30 12) x.addr x.size else true) &&
    (if x.type = 2 ∨ x.type = 3 then decide (0x200000 ≤ x.addr) || x.size == 0 else true)) &&
  i.sects.any (fun x => x.type == 1 && decide (x.addr ≤ i.fld 0x18 8) && decide (i.fld 0x18 8 < x.addr + x.size))

/-- The capability mask of a core kind (R69). -/
def capLo (svc : Bool) : Nat := if svc then 0xFD9F else 0x3FFFF

/-- A core is one of the own cores of a context (R294). -/
def State.ownCore (s : State) (c h : Nat) : Bool :=
  let x := s.ctx c
  decide (x.coreBase ≤ h) && decide (h < x.coreBase + x.coreLen) &&
  !s.ctxs.any (fun k => k.1 != c && k.2.parent == c && decide (k.2.coreBase ≤ h) &&
    decide (h < k.2.coreBase + k.2.coreLen))

/-- The own cores of a context, in Hilbert order (R294). -/
def State.ownCores (s : State) (c : Nat) : List Nat :=
  let x := s.ctx c
  ((List.range x.coreLen).map (· + x.coreBase)).filter (s.ownCore c)

/-- Statuses of launches and GRF commands (R319, R343). -/
def St.ok : Nat := 0
def St.nores : Nat := 1
def St.badarg : Nat := 2
def St.noctx : Nat := 3
def St.imgbad : Nat := 4
def St.depth : Nat := 5
def St.featmiss : Nat := 5
def St.imgmap : Nat := 6
def St.busy : Nat := 7
def St.inuse : Nat := 8
def St.denied : Nat := 9
def St.overlap : Nat := 10
def St.cancelled : Nat := 11
def St.ovf : Nat := 12

/-- How the reading of an image ends: an image, a status, or a page request. -/
inductive ImgRes where
  | ok (i : Image)
  | fail (status : Nat)
  | page (p : PageWait)

/-- Reads the contents of the LOCAL sections (R71). DESIGN CHOICE: where they overlap one another or an LZERO section, they
win over LZERO and a later one over an earlier one (log 80). -/
def State.readLocals (s : State) (h tid c va : Nat) : List SectHdr → State × Rd (List Section)
  | [] => (s, .ok [])
  | x :: xs =>
    if x.type = 4 then
      let (s, r) := s.readVa h tid c 1 .copyRead (va + x.fileoff) x.size
      match r with
      | .ok bs =>
        let (s, r) := State.readLocals s h tid c va xs
        match r with
        | .ok l => (s, .ok ({ addr := x.addr, bytes := bs } :: l))
        | r => (s, r)
      | .access => (s, .access)
      | .page p => (s, .page p)
    else State.readLocals s h tid c va xs

/-- The sections of an image are mapped in the context (check 4 of R72): each page of a TEXT, DATA or ZERO section
translates. DESIGN CHOICE (log 83): 'mapped' is tested with the fetch permission for TEXT, and with the read permission for
DATA and ZERO; a page that faults posts a page request, of KIND fetch for TEXT and copy read for the others, and IMGMAP
comes of its DENY. -/
def State.mapped (s : State) (h tid c : Nat) : List SectHdr → State × Rd Unit
  | [] => (s, .ok ())
  | x :: xs =>
    if x.type ≤ 3 then
      let (s, r) := (piecesOf x.addr x.size).foldl (fun (s, acc) (a, _) =>
        match acc with
        | .ok _ =>
          let (s, r) := s.engineTranslate h tid c 1 a (if x.type = 1 then .fetch else .copyRead)
          (s, match r with | .ok _ => .ok () | .access => .access | .page p => .page p)
        | r => (s, r)) (s, (.ok () : Rd Unit))
      match r with
      | .ok _ => State.mapped s h tid c xs
      | r => (s, r)
    else State.mapped s h tid c xs

/-- Reads and checks an image in the space of a context, for the thread that launches (R72, R343). -/
def State.readImage (s : State) (h tid c : Nat) (va : Word) : State × ImgRes :=
  let a := va.toNat
  let (s, r) := s.readVa h tid c 1 .copyRead a 256
  match r with
  | .page p => (s, .page p)
  | .access => (s, .fail St.imgmap)
  | .ok raw =>
    if !hdrCheck1 raw || !hdrCheck2 raw then (s, .fail St.imgbad)
    else
      let (s, r) := s.readVa h tid c 1 .copyRead (a + recField raw 0x20 4) (32 * recField raw 0x24 2)
      match r with
      | .page p => (s, .page p)
      | .access => (s, .fail St.imgmap)
      | .ok tab =>
        let i : ImgHdr := { raw := raw, sects := (chunks 32 (recField raw 0x24 2) tab).map sectHdr }
        if !sectsCheck2 i then (s, .fail St.imgbad)
        else if !(List.range (s.ctx c).coreLen).any (fun k =>
            recField raw 8 16 &&& (2 ^ 128 - 1 - capLo (isService ((s.ctx c).coreBase + k))) == 0) then (s, .fail St.featmiss)
        else
          let (s, r) := s.mapped h tid c i.sects
          match r with
          | .page p => (s, .page p)
          | .access => (s, .fail St.imgmap)
          | .ok _ =>
            let (s, r) := s.readLocals h tid c a i.sects
            match r with
            | .page p => (s, .page p)
            | .access => (s, .fail St.imgmap)
            | .ok secs =>
              if (s.ownCores c).isEmpty then (s, .fail St.nores)
              else
                let img : Image :=
                  { va := va, entry := w64 (i.fld 0x18 8), features := BitVec.ofNat 128 (i.fld 8 16)
                    bankMask := BitVec.ofNat 96 (i.fld 0x30 12), tileMask := w64 (i.fld 0x40 8)
                    streams := BitVec.ofNat 4 (i.fld 0x48 1), helpers := i.fld 0x49 1, prio := i.fld 0x4A 1
                    bankFmt := (List.range 96).map (fun n => i.fld (0x50 + n) 1), sections := secs }
                (s, .ok img)

/-! ## The launch descriptor (R320) -/

/-- Word `k` of a descriptor. -/
def dWord (d : List Word) (k : Nat) : Nat := (d.getD k 0).toNat

/-- The fields of a descriptor, by name. -/
def Desc.nu (d : List Word) : Nat := bits (dWord d 3) 0 20 + 1
def Desc.gmb (d : List Word) : Bool := bit (dWord d 6) 0
def Desc.mode (d : List Word) : Nat := bits (dWord d 6) 1 2
def Desc.slotIn (d : List Word) : Nat := bits (dWord d 6) 8 6
def Desc.inen (d : List Word) : Bool := bit (dWord d 6) 14
def Desc.slotOut (d : List Word) : Option Nat :=
  if bit (dWord d 6) 22 then some (bits (dWord d 6) 16 6) else none
def Desc.quant (d : List Word) : Nat := bits (dWord d 6) 32 24
def Desc.hint (d : List Word) : Nat := bits (dWord d 7) 0 20
def Desc.mapen (d : List Word) : Bool := bit (dWord d 3) 35
def Desc.mapw (d : List Word) : Word := d.getD 8 0

/-- The sizes of the axes of a MAP word: tensor, sequence, data, pipeline. -/
def mapSize (m : Word) (k : Nat) : Nat := bits m.toNat (16 * k) 16 + 1

/-- The checks of R320 on a descriptor, with HINT ≤ NU (R343). -/
def descOk (d : List Word) : Bool :=
  dWord d 0 % 256 == 0 &&
  bits (dWord d 3) 20 12 == 0 && bits (dWord d 3) 36 12 == 0 && bits (dWord d 4) 32 32 == 0 &&
  dWord d 5 % 16 == 0 && (dWord d 5 == 0 || decide (0x200000 ≤ dWord d 5)) &&
  bits (dWord d 6) 3 5 == 0 && bits (dWord d 6) 15 1 == 0 && bits (dWord d 6) 23 9 == 0 &&
  bits (dWord d 6) 56 8 == 0 && bits (dWord d 7) 20 44 == 0 &&
  (d.drop 9).all (· == 0) &&
  (if Desc.gmb d then Desc.mode d != 3 && Desc.quant d != 0 && decide (Desc.hint d ≤ Desc.nu d)
   else dWord d 7 == 0 && Desc.mode d == 0 && Desc.slotIn d == 0 && !Desc.inen d && Desc.quant d == 0) &&
  (!Desc.mapen d || Desc.nu d == mapSize (Desc.mapw d) 0 * mapSize (Desc.mapw d) 1 *
    mapSize (Desc.mapw d) 2 * mapSize (Desc.mapw d) 3)

/-- A descriptor as words. -/
def descWords (bs : List Byte) : List Word := (chunks 8 16 bs).map (fun b => w64 (numOf b))

end Sys2Proof.Machine
end

