-- ==== Sys2Proof/Machine/Net.lean ====
section
/-! DEFINITION. What leaves the module: segments and the ports on them, the routes to other modules, messages of the management
network, and packets between collective engines (R17, R349, R351, R353, R374, R392). -/

namespace Sys2Proof.Machine

/-! ## Ports and segments (R17, R353, R447) -/

/-- A segment that no port of this module joins. -/
def Seg.blank : Seg :=
  { wlim := 0, calWlim := 0, cal := false, down := true, nports := 0, rate := 0, others := 0, foreignWeight := 0, lowest := 0
    far := [], groups := [], recal := false, quar := [] }

def State.seg (s : State) (n : Nat) : Seg := (tget s.segs n).getD Seg.blank

def State.modSeg (s : State) (n : Nat) (f : Seg → Seg) : State := { s with segs := tmod s.segs n f }

def State.modPort (s : State) (n : Nat) (f : Port → Port) : State := { s with ports := tmod s.ports n f }

/-- The port has joined a segment. -/
def State.portJoined (s : State) (p : Nat) : Bool := ((tget s.ports p).map (·.en)).getD false

/-- This module is the master of a segment: it has the lowest number on it (R349). -/
def State.masters (s : State) (n : Nat) : Bool := decide (s.mp.modnum < (s.seg n).lowest)

/-- A port carries packets: it has joined a segment that is up and is not being calibrated, it is not excluded, and its die
has its clock (R17, R353–R355). -/
def State.portOpen (s : State) (p : Nat) : Bool :=
  let g := s.seg (s.port p).seg
  s.portJoined p && !(s.port p).excluded && !g.down && !g.cal && !g.recal && !(s.die (p / 4)).gated

/-- The way to the home of a canonical SPA is open: another module is reached through one port (R351, R353; log 8). -/
def State.routeOpen (s : State) (spa : Nat) : Bool :=
  match homeOf spa with
  | .far m => s.portOpen (Config.farPort m % 64)
  | _ => true

/-- A message over the management network (R349). -/
def State.netSend (s : State) (m : NetMsg) : State := { s with mp := { s.mp with sent := s.mp.sent ++ [m] } }

/-! ## The segments of a handle (R361, R374) -/

def State.groupEnt (s : State) (gid : Nat) : Option GroupEnt := s.mp.groups.find? (fun g => g.gid == gid)

/-- The segment of a handle: of its port. -/
def State.handleSeg (s : State) (b : Handle) : Nat := (s.port b.port).seg

/-- Members of a handle's group. -/
def State.handleMembers (s : State) (b : Handle) : Nat :=
  if b.dom then ((s.groupEnt b.gid).map (fun g => 16 * g.ng)).getD 0 else b.nm1 + 1

/-- The rank of a handle on its own segment: within the group of 16 for a domain group. -/
def Handle.segRank (b : Handle) : Nat := if b.dom then b.rank % 16 else b.rank

/-- Members on the handle's own segment. -/
def Handle.segMembers (b : Handle) : Nat := if b.dom then 16 else b.nm1 + 1

/-- A segment that a handle uses: the port on it, how many members it has there, and whether this one, of rank 0 there,
asks for the lease (R359, R374). -/
structure SegUse where
  seg : Nat
  port : Nat
  members : Nat
  lead : Bool

/-- The segment of a handle's port, and for a domain group the rails on which this module is a member. -/
def State.uses (s : State) (b : Handle) : List SegUse :=
  { seg := s.handleSeg b, port := b.port, members := b.segMembers, lead := b.segRank == 0 } ::
  (match if b.dom then s.groupEnt b.gid else none with
    | some g =>
      (if g.ina then [{ seg := g.rsega, port := g.rporta, members := min g.ng 14, lead := g.g == 0 }] else []) ++
      (if g.inb && decide (14 < g.ng) then
        [{ seg := g.rsegb, port := g.rportb, members := g.ng - 13, lead := g.g == 13 }] else [])
    | none => [])

/-- Cells of a lease: guaranteed, lent and pool cells; what it gives beside them is another module's. -/
def Lease.lentSum (l : Lease) : Nat := (l.lent.map (·.2)).sum

def Lease.cells (l : Lease) : Nat := l.own + l.lentSum + l.pool

/-- Cells that an operation holds on all of its segments. -/
def BusOp.cells (o : BusOp) : Nat := o.lease.cells + (o.rails.map (·.2.cells)).sum

/-- A rank leaves its group; the last one frees the number (R352). -/
def Seg.drop (g : Seg) (gid rank : Nat) : Seg :=
  { g with
    groups := (tmap g.groups (fun k x => if k = gid then { x with ranks := x.ranks.filter (· != rank) } else x)).filter
      (fun x => !x.2.ranks.isEmpty) }

/-- The rank of a handle leaves its group on each of its segments, and the other members are told (R352, R363). -/
def State.leaveGroups (s : State) (b : Handle) : State :=
  (s.uses b).foldl (fun s x => (s.modSeg x.seg (·.drop b.gid b.rank)).netSend (.left x.seg b.gid b.rank)) s

/-- Every other member of a handle's group ends the operation under way (R360, R363). -/
def State.abortGroups (s : State) (b : Handle) : State :=
  if b.ops.isEmpty then s else (s.uses b).foldl (fun s x => s.netSend (.abort x.seg b.gid)) s

/-- A lease that another module's master has given is over (R359). -/
def State.endFarLease (s : State) (b : Handle) : State :=
  (s.uses b).foldl (fun s x => if x.lead && !s.masters x.seg then s.netSend (.leaseEnd x.seg b.gid) else s) s

/-- Bus handles of a unit that ends are left as if by OBLEAVE; operations that have not ended end with ABORT at the other
members (R363, R431). -/
def State.dropHandles (s : State) (hs : Table Handle) : State :=
  hs.foldl (fun s b =>
    if b.2.st = 0 ∨ b.2.asking = true then s
    else
      let s := s.abortGroups b.2
      (if b.2.ops.isEmpty then s else s.endFarLease b.2).leaveGroups b.2) s

/-! ## Packets between collective engines (R392) -/

/-- The node id of an engine of this module. -/
def State.nodeId (s : State) (die : Nat) : Nat := s.mp.modnum * 16 + die

/-- OP of a collective descriptor (R388). -/
def Cd.op (d : List Word) : Nat := bits (d.getD 0 0).toNat 0 4

def Partial.empty (c : Nat) : Partial :=
  { chunk := c, sums := [], exps := [], raw := [], kids := 0, own := false, final := false }

def Hop.fwd : Nat := 1
def Hop.acc : Nat := 2
def Hop.fan : Nat := 3
def Hop.scat : Nat := 4
def Hop.abt : Nat := 5

/-- The engines that a packet from a die passes on its way to a node, the node last: in another module, those of the port
dies at both ends of the bus cell (R392). -/
def State.colStops (s : State) (die node : Nat) : List Nat :=
  if node / 16 = s.mp.modnum then [node]
  else
    let (near, far) := Config.colRoute (node / 16)
    let p1 := s.nodeId (near % 16)
    let p2 := node / 16 * 16 + far % 16
    (if p1 = s.nodeId die then [] else [p1]) ++ (if p2 = node then [] else [p2]) ++ [node]

/-- Sends a packet from a die to a member: FWD entries for the engines on the way, and the entry that the member
performs. -/
def State.colSend (s : State) (die : Nat) (k : ColQ) (o : ColOp) (hop node : Nat) (p : Partial) : State :=
  let stops := s.colStops die node
  let route := ((stops.drop 1).map (fun n => n + Hop.fwd * 2 ^ 13) ++ [node + hop * 2 ^ 13]).zipIdx
  let pk : ColPacket :=
    { word0 := w64 (k.comm + p.chunk % 2 ^ 24 * 2 ^ 16 + o.seq % 256 * 2 ^ 40 + stops.length * 2 ^ 48 + Cd.op o.desc * 2 ^ 52)
      word1 := w64 (route.foldl (fun a e => a + e.1 * 2 ^ (16 * e.2)) 0), payload := p.sums, exps := p.exps, raw := p.raw }
  { s with msgs := s.msgs ++ [.col (s.nodeId die) (stops.headD node) pk] }

/-- ABT to the parent and the children. -/
def State.colAbort (s : State) (die : Nat) (k : ColQ) (o : ColOp) : State :=
  ((if k.root then [] else [k.parent]) ++ k.children).foldl (fun s n => s.colSend die k o Hop.abt n (Partial.empty 0)) s

/-- ABT for every collective, of every queue, that `p` names by its queue and itself (R397, R431). -/
def State.abortCollectives (s : State) (p : ColQ → ColOp → Bool) : State :=
  s.dies.foldl (fun s d =>
    d.2.col.queues.foldl (fun s q => (q.2.ops.filter (p q.2)).foldl (fun s o => s.colAbort d.1 q.2 o) s) s) s

end Sys2Proof.Machine
end

