-- ==== Sys2Proof/Machine/Sched.lean ====
section
/-! DEFINITION. The graph engine: launches, units, placement, eviction, completion, gambit shapes,
cancellation, and the charge of an error to a tenant (chapter 14; R81, R82, R128, R137, R414, R427–R432). -/

namespace Sys2Proof.Machine

def State.launch? (s : State) (l : Nat) : Option Launch := tget s.launches l

def State.modLaunch (s : State) (l : Nat) (f : Launch → Launch) : State :=
  { s with launches := tmod s.launches l f }

def State.setUnit (s : State) (l i : Nat) (u : UnitSt) : State :=
  s.modLaunch l fun x => { x with units := tput x.units i u }

/-- A unit that has ended. -/
def UnitSt.ended : UnitSt → Bool
  | .completed _ => true
  | .cancelled => true
  | .removed => true
  | _ => false

/-- A launch has completed. -/
def Launch.isDone (l : Launch) : Bool := l.done.isSome

/-- The class of a unit: the launch's, 0 while LEBAL is not positive, with what aging raised since (R321, R332,
R334). -/
def Launch.classOf (l : Launch) (raised : Nat) : Nat := min 3 ((if l.lebal ≤ 0 then 0 else l.cls) + raised)

def State.now (s : State) : Nat := s.cycle.toNat

/-! ## Interrupts and the tenant (R427, R439) -/

/-- A bit of INTSTAT becomes 1; whether it was 0 and so raises its vector (R439). -/
def State.raiseInt (s : State) (v k : Nat) : Bool × State :=
  (!(s.vfOf v).intstat.getLsbD k, s.modVf v fun x => { x with intstat := x.intstat ||| BitVec.ofNat 3 (2 ^ k) })

/-- A VF interrupt bit becomes 1 and sends the message of its vector at once (R439). -/
def State.setInt (s : State) (v k : Nat) : State :=
  let (raised, s) := s.raiseInt v k
  if raised then s.sendInt v k else s

/-- The same for an interrupt that the job of a context causes: while CKEN = 1 its message enters the host gate, and leaves
at once only where the phase is unprotected or the gate has no room (R432, R433, R439). -/
def State.setJobInt (s : State) (c v k : Nat) : State :=
  let (raised, s) := s.raiseInt v k
  if !raised then s
  else
    match s.gate c (.interrupt c v k) with
    | some s => s
    | none => (if s.protectedJob c then s.unprotect c else s).sendInt v k

/-- The tenant of a context: the VF of the nearest context with one, or 512 plus the partition (R427). -/
def State.tenantGo (s : State) : Nat → Nat → Nat
  | 0, c => 512 + (s.ctx c).part
  | n + 1, c =>
    match (s.ctx c).vf with
    | some v => v
    | none => if (s.ctx c).level = 0 then 512 + (s.ctx c).part else s.tenantGo n (s.ctx c).parent

def State.tenantOf (s : State) (c : Nat) : Nat := s.tenantGo 8 c

/-! ## Register banks (R81, R82) -/

/-- The parked bank that a claim takes: evicted earliest, then the lower number. -/
def oldestParked (bs : Table RegBank) : Option (Nat × UnitId × Nat × Thread) :=
  bs.foldl (fun best b => match b.2 with
    | .parked u tid o t =>
      match best with
      | some (bo, _) => if o < bo then some (o, b.1, u, tid, t) else best
      | none => some (o, b.1, u, tid, t)
    | .live _ => best) (none : Option (Nat × Nat × UnitId × Nat × Thread)) |>.map (fun (_, n, u, tid, t) => (n, u, tid, t))

/-- A starting thread claims the lowest FREE bank, or the oldest PARKED one after its spill (R82). -/
def Core.claimReg (c : Core) (tid : Nat) : Core :=
  match tfree c.regBanks 0 11 with
  | some n => { c with regBanks := tput c.regBanks n (.live tid) }
  | none =>
    match oldestParked c.regBanks with
    | some (n, u, ptid, t) =>
      { c with
        regBanks := tput c.regBanks n (.live tid)
        evicted := c.evicted.map (fun e =>
          if e.res.id = u then { e with threads := tput e.threads ptid t } else e) }
    | none => c

/-- A thread's bank becomes FREE (R81). -/
def Core.freeReg (c : Core) (tid : Nat) : Core :=
  { c with regBanks := c.regBanks.filter (fun b => b.2 != .live tid) }

/-! ## Banks at a start (R71, R137) -/

def bankBytes : Nat := 0x4000

/-- The bytes of a bank number become zero. -/
def State.clearBank (s : State) (h n : Nat) : State :=
  let a := aliasBase h + (s.core h).phys n * bankBytes
  { s with mem := s.mem.filter (fun e => !(decide (a ≤ e.1) && decide (e.1 < a + bankBytes))) }

/-- A PARKED bank of another owner is written to that owner's save area (R137). -/
def State.spillBank (s : State) (h n : Nat) : State :=
  let b := (s.core h).bank n
  match b.owner with
  | none => s
  | some u =>
    let a := aliasBase h + (s.core h).phys n * bankBytes
    let bs : Table Byte := (s.mem.filter (fun e => decide (a ≤ e.1) && decide (e.1 < a + bankBytes))).map
      (fun (e : Host.Cell) => (e.1 - a, e.2))
    let sv : SavedBank := { bytes := bs, format := b.format, sat := b.sat, badw := b.badw }
    s.modEvicted h u fun e => { e with banks := tput e.banks n sv }

/-- A returning unit's SPILLED bank is reloaded (R137). -/
def State.reloadBank (s : State) (h n : Nat) (u : UnitId) (b : SavedBank) : State :=
  let s := s.clearBank h n
  let a := aliasBase h + (s.core h).phys n * bankBytes
  let s : State := { s with mem := b.bytes.foldl (fun m e => memSet m (a + e.1) e.2) s.mem }
  s.modCore h fun c => c.modBank n fun _ =>
    { format := b.format, sat := b.sat, badw := b.badw, owner := some u }

/-- Matrix state in place of an evicted owner is spilled when another unit starts (R232). -/
def Core.spillMat (c : Core) : Core :=
  match c.matOwner with
  | some u =>
    { c with
      mat := MatUnit.reset
      matOwner := none
      evicted := c.evicted.map (fun e => if e.res.id = u then { e with mat := some c.mat } else e) }
  | none => c

/-! ## The end of a unit on its core -/

/-- The new value of an atomic on `k` bytes (R181). -/
def atomicNew (op : AtOp) (k old v n : Nat) : Nat :=
  let w := 8 * k
  let m := 2 ^ w
  match op with
  | .add => (old + v) % m
  | .and => old &&& v
  | .or => old ||| v
  | .xor => old ^^^ v
  | .max => if sInt w old < sInt w v then v % m else old
  | .min => if sInt w v < sInt w old then v % m else old
  | .maxz => if old < v % m then v % m else old
  | .minz => if v % m < old then v % m else old
  | .swp => v % m
  | .cas => if old = v % m then n % m else old

/-- The bytes of an access lie at this canonical SPA. -/
def Access.spa (a : Access) : Nat :=
  match a.path with
  | .mesh => a.addr
  | _ => aliasBase a.h + a.addr

/-- Where an access is performed; none: refused (R139, R140). A private alias was checked at its issue. -/
def State.accessLoc (s : State) (a : Access) : Option Loc :=
  if a.va.toNat < 0x200000 then some (.mem (s.physAddr a.h a.addr))
  else
    match a.path with
    | .mesh => s.locOf a.unit.ctx a.addr
    | _ => s.aliasLoc a.unit.ctx a.h a.addr

/-- The bytes that a store or an atomic leaves at its place. -/
def State.newBytes (s : State) (a : Access) (l : Loc) : Option (List Byte) :=
  match a.kind with
  | .store v => some (bytesOf a.size v.toNat)
  | .atomic op v n => some (bytesOf a.size (atomicNew op a.size (numOf (s.readLoc l a.size)) v.toNat n.toNat))
  | .load _ => none

/-- What the accesses of a unit on its core's own paths have yet to do to the banks is done before the unit's banks go
(R128, R311, R340). In mailbox memory, which stays, they are performed later, as the unit's other stores are. -/
def State.flushLocal (s : State) (h : Nat) (u : UnitId) : State :=
  if isService h then s
  else
    let mine (a : Access) : Bool := a.unit == u && a.path != .mesh && (s.accessLoc a).isSome
    let t := (s.inflight.filter mine).foldl (fun (s : State) a =>
      match s.accessLoc a with
      | some l => ((s.newBytes a l).map (s.writeLoc u.ctx l)).getD s
      | none => s) s
    { t with inflight := t.inflight.filter (fun a => !mine a) }

/-- A core as a partition sees it: its castle store holds it while the partition is out (R417, R420). -/
def State.coreOf (s : State) (p h : Nat) : Core :=
  if (s.part p).out then
    (((s.castled.find? (fun x => x.part == p)).bind (fun x => tget x.cores h))).getD Core.reset
  else s.core h

def State.modCoreOf (s : State) (p h : Nat) (f : Core → Core) : State :=
  if (s.part p).out then
    { s with castled := s.castled.map (fun x => if x.part = p then { x with cores := tmod x.cores h f } else x) }
  else s.modCore h f

/-- Power leave held or asked for by commands that vanish is given back (R335): `ids` of copy commands. -/
def Die.dropLeave (d : Die) (h agent : Nat) (held : Nat) (gone : Nat → Bool) : Die :=
  { d with held := d.held - held, waiting := d.waiting.filter (fun w => !(w.h == h && w.agent == agent && gone w.cmd)) }

/-- The number by which a bus operation at a handle of a unit asks for leave. -/
def busCmd (u : UnitId) (n : Nat) : Nat := n + 4 * (u.index + 2 ^ 20 * u.lnum)

def State.dropLeaves (s : State) (h : Nat) (u : UnitId) (keepCopies : Bool) : State :=
  let c := s.coreOf (s.ctx u.ctx).part h
  let cs := if keepCopies then [] else c.cpy.filter (fun q => q.unit == u)
  let bs := (c.bus ++ (((c.evicted.find? (fun e => e.res.id == u)).map (·.bus)).getD [])).filter (fun b => b.2.unit == u)
  let ops := bs.flatMap (fun b => b.2.ops)
  s.modDie (dieOf h) fun d =>
    (d.dropLeave h 2 (cs.filter (·.leave.held)).length (fun i => cs.any (·.id == i))).dropLeave h 3
      (ops.filter (·.leave.held)).length (fun i => bs.any (fun b => busCmd u b.1 == i))

/-- Contributions to VMAXX commands that a core goes on holding where a unit ends: those that came for it serve the next
unit of its launch there, unless a unit of another launch is resident (R202). -/
def Core.heldMax (c : Core) (u : UnitId) : List VmaxMsg :=
  c.vec.vmaxHeld ++
    (if c.unit.isNone then ((c.evicted.find? (fun e => e.res.id == u)).map (·.vec.vmaxHeld)).getD [] else [])

/-- What a core keeps when a unit's state leaves it. -/
def Core.clearUnit (c : Core) (u : UnitId) (keepCopies : Bool) : Core :=
  let res := (c.unit.map (fun x => decide (x.id = u))).getD false
  { c with
    unit := if res then none else c.unit
    threads := if res then [] else c.threads
    lastTid := if res then 0 else c.lastTid
    regBanks := c.regBanks.filter (fun b => match b.2 with
      | .live _ => !res
      | .parked v _ _ _ => v != u)
    regs := if res then CoreRegs.reset else c.regs
    banks := tmap c.banks (fun _ b => if b.owner = some u then Bank.reset else b)
    tags := if res then [] else c.tags
    tiles := if res then [] else c.tiles
    vec := { (if res then VecUnit.reset else c.vec) with vmaxHeld := c.heldMax u }
    mat := if res ∨ c.matOwner = some u then MatUnit.reset else c.mat
    matOwner := if c.matOwner = some u then none else c.matOwner
    cpy := if keepCopies then c.cpy else c.cpy.filter (fun q => q.unit != u)
    sync := if res then { SyncUnit.reset with held := c.sync.held } else c.sync
    qrn := if c.qrn.owner = some u then QrnUnit.reset else c.qrn
    bus := c.bus.filter (fun b => b.2.unit != u)
    evicted := c.evicted.filter (fun e => e.res.id != u) }

/-- Everything that a unit holds on its core becomes free, without a spill (R81, R128, R137, R311, R340);
`keepCopies`: accepted copy commands run on. -/
def State.clearUnit (s : State) (h : Nat) (u : UnitId) (keepCopies : Bool) : State :=
  let s := s.flushLocal h u
  let p := (s.ctx u.ctx).part
  let c := s.coreOf p h
  let mine := (c.bus.filter (fun b => b.2.unit == u && (b.2.st != 0))) ++
    (((c.evicted.find? (fun e => e.res.id == u)).map (·.bus)).getD [])
  let s := (s.dropHandles mine).dropLeaves h u keepCopies
  let s := s.modCoreOf p h (·.clearUnit u keepCopies)
  s.modPart p fun p => { p with saves := p.saves.filter (· != u) }

/-! ## Gambits (R336–R341) -/

/-- The predictor entry of a site. -/
def State.predOf (s : State) (c site : Nat) : Option (Nat × Pred) :=
  (s.preds.find? (fun p => p.2.ctx == c && p.2.site == site)).map (fun p => (p.1, p.2))

/-- The entry that a miss allocates: never updated first, then updated least recently, then the lowest. -/
def State.predVictim (s : State) : Nat :=
  ((List.range 64).foldl (fun best i =>
    let u := ((tget s.preds i).map (·.updated)).getD 0
    match best with
    | some (bu, _) => if u < bu then some (u, i) else best
    | none => some (u, i)) (none : Option (Nat × Nat))).map (·.2) |>.getD 0

/-- The predicted size, and the table after the look-up (R336). -/
def State.predict (s : State) (c site mode hint nu : Nat) : State × Nat :=
  match s.predOf c site with
  | some (_, p) =>
    let v := if mode = 1 then p.ts.headD hint
      else if mode = 2 then (p.ts.foldl max 0) else hint
    (s, min nu (if p.ts.isEmpty then hint else v))
  | none =>
    let e : Pred := { ctx := c, site := site, ts := [], updated := 0 }
    ({ s with preds := tput s.preds s.predVictim e }, min nu hint)

/-- A confirmation updates the entry of its site with T (R336). -/
def State.predUpdate (s : State) (c site t : Nat) : State :=
  match s.predOf c site with
  | some (i, p) =>
    { s with preds := tput s.preds i { p with ts := (t :: p.ts).take 4, updated := s.steps + 1 } }
  | none => s

/-- A LAUNCH or a GRUN: what a provisional unit is given back at a squash (R341). -/
def CmdOp.retractable : CmdOp → Bool
  | .launch _ => true
  | .grun .. => true
  | _ => false

/-- A GRUN of the unit holds the graph (R341). -/
def Graph.heldFor (g : Graph) (u : UnitId) : Bool := g.held.map (·.holder) == some u

/-- A retractable allocation of a squashed unit is returned, performed or still pending (R341). -/
def State.dropHeld (s : State) (u : UnitId) : State :=
  let s : State := { s with cmds := s.cmds.filter (fun k => !(k.u == u && k.op.retractable)) }
  let held := s.launches.filter (fun l => l.2.heldBy == some u)
  let s := held.foldl (fun s l =>
    let s := s.modCtx l.2.ctx fun x =>
      { x with
        energy := x.energy + l.2.lebal / 1000
        slots := match l.2.slotOut with
          | some k => tmod x.slots k (fun y => { y with bound := none })
          | none => x.slots }
    { s with launches := tdel s.launches l.1 }) s
  { s with
    ctxs := tmap s.ctxs (fun _ x =>
      { x with graphs := tmap x.graphs (fun _ g => if g.heldFor u then { g with held := none } else g) }) }

/-- A graph begins to run: none of its nodes has been launched (R326). -/
def Graph.start (g : Graph) : Graph :=
  { g with
    st := .running
    nodes := g.nodes.map (fun y => { y with launch := none, finished := false, status := 0, page := .none }) }

/-- A GRUN takes effect: the graph runs, or with PHASE waits for its boundary (R326, R328). -/
def Graph.run (g : Graph) (r : GraphRun) : Graph :=
  { g with held := none, arg := r.arg, phase := r.phase, waiting := r.phase, issuer := r.issuer, order := r.order }.start

/-- A confirmed unit's held launches enter the pool and its held graphs run (R341). -/
def State.releaseHeld (s : State) (u : UnitId) : State :=
  { s with
    launches := tmap s.launches (fun _ l =>
      if l.heldBy = some u then
        { l with
          heldBy := none
          units := tmap l.units (fun _ x => match x with
            | .waiting p _ _ _ => .waiting p 0 s.now s.now
            | x => x) }
      else l)
    ctxs := tmap s.ctxs (fun _ x =>
      { x with
        graphs := tmap x.graphs (fun _ g => match g.held with
          | some r => if r.holder = u then g.run r else g
          | none => g) }) }

/-- Stops a unit and discards everything of it: its pending instructions complete and its accepted copy commands drain,
what has stalled is not performed, and its held trap messages go (R340). -/
def State.squash (s : State) (u : UnitId) (h : Nat) (last : UnitSt) : State :=
  let s := s.clearUnit h u true
  let s : State := { s with posts := s.posts.filter (fun p => !(p.unit == some u && p.copies.isEmpty)) }
  (s.dropHeld u).setUnit u.lnum u.index last

/-- A unit of a launch that gets confirmed. -/
def State.confirmUnit (s : State) (c l i : Nat) (x : UnitSt) : State :=
  match x with
  | .waiting _ r t z => s.setUnit l i (.waiting false r t z)
  | .held v => (s.setUnit l i (.completed v)).releaseHeld { ctx := c, lnum := l, index := i }
  | .resident h =>
    let u : UnitId := { ctx := c, lnum := l, index := i }
    (s.modCoreOf (s.ctx c).part h fun k =>
      { k with unit := k.unit.map (fun r => { r with prov := r.prov && r.id != u }) }).releaseHeld u
  | .evicted h .. =>
    let u : UnitId := { ctx := c, lnum := l, index := i }
    (s.modCoreOf (s.ctx c).part h fun k =>
      { k with
        evicted := k.evicted.map (fun e => if e.res.id = u then { e with res := { e.res with prov := false } } else e) }).releaseHeld u
  | _ => s

/-- A unit of a launch that the shape leaves out (R339, R340). -/
def State.trimUnit (s : State) (c l i : Nat) (x : UnitSt) : State :=
  let u : UnitId := { ctx := c, lnum := l, index := i }
  match x with
  | .resident h => s.squash u h .removed
  | .evicted h .. => s.squash u h .removed
  | .held _ => (s.dropHeld u).setUnit l i .removed
  | .waiting .. => s.setUnit l i .removed
  | _ => s

/-- The shape of a launch becomes final (R337, R339): units that a CANCEL ended before stay so. -/
def State.applyShape (s : State) (l shape : Nat) : State :=
  match s.launch? l with
  | none => s
  | some x =>
    let n := (shape + x.quant - 1) / x.quant
    let t := min x.nu n
    let s := x.units.foldl (fun s e =>
      if e.1 < t then s.confirmUnit x.ctx l e.1 e.2 else s.trimUnit x.ctx l e.1 e.2) s
    let tail : Table UnitSt :=
      ((List.range t).filter (fun i => decide (x.psize ≤ i) && (tget x.units i).isNone)).map
        (fun i => (i, UnitSt.waiting false 0 s.now s.now))
    let s := s.modLaunch l fun y =>
      { y with
        units := tail.foldl (fun us e => tput us e.1 e.2) y.units, tsize := some t, ovf := decide (x.nu < n) }
    s.predUpdate x.ctx x.site t

/-! ## A launch (R320–R324, R334, R343, R344) -/

/-- The lowest launch number that no uncompleted launch bears (R344). -/
def State.freeLnum (s : State) : Option Nat :=
  firstFrom (fun n => ((s.launch? n).map Launch.isDone).getD true) 0x10000 0

/-- A completed launch whose number is taken again keeps its record under a number of its own. -/
def State.archive (s : State) (n : Nat) : State :=
  match s.launch? n with
  | some l =>
    let (k, s) := s.fresh
    { s with launches := tput (tdel s.launches n) (0x10000 + k) l }
  | none => s

/-- What a launch is given beside its descriptor; for a node, its graph, its index and the place of the GRUN. -/
structure LaunchArgs where
  ctx : Nat
  site : Nat
  h : Nat
  tid : Nat
  add : Word
  graph : Option (Nat × Nat × Nat)
  heldBy : Option UnitId
  isJob : Bool

/-- The boundary that a graph waits for, or that a held GRUN with PHASE is to bring: its place in the order of acceptance. -/
def Graph.boundaryAt (g : Graph) : Option Nat :=
  if g.waiting then some g.order else (g.held.filter (·.phase)).map (·.order)

/-- Where the first phase boundary that still waits stands in the order of acceptance: what comes later belongs to the
phase that it will begin (R328). -/
def Ctx.nextBoundary (x : Ctx) : Option Nat :=
  x.graphs.foldl (fun b g =>
    match g.2.boundaryAt, b with
    | some o, some k => some (min k o)
    | some o, none => some o
    | none, b => b) none

/-- A place in the order of acceptance that belongs to the current phase of a context (R328). -/
def Ctx.inPhase (x : Ctx) (k : Nat) : Bool :=
  decide (x.pstart ≤ k) && ((x.nextBoundary.map (fun b => decide (k < b))).getD true)

/-- A place in the order of acceptance; 0 is none. -/
def State.freshOrder (s : State) : Nat × State :=
  let (o, s) := s.fresh
  (o + 1, s)

/-- LAUNCH: numbers the launch, reserves its energy, binds its slot and enters it into the pool (R334, R336,
R337, R344). -/
def State.accept (s : State) (d : List Word) (img : Image) (k : LaunchArgs) : State × Nat :=
  let x := s.ctx k.ctx
  let l := (s.freeLnum).getD 0
  let s := s.archive l
  let nu := Desc.nu d
  let gmb := Desc.gmb d
  let want : Int := if k.isJob then max x.energy 0 else (bits (dWord d 4) 0 32 : Nat)
  let take : Int := min want (max x.energy 0)
  let (s, p) := if gmb then s.predict k.ctx k.site (Desc.mode d) (Desc.hint d) nu else (s, nu)
  let s := s.modCtx k.ctx fun x =>
    { x with
      energy := x.energy - take
      jobmap := if Desc.mapen d ∧ x.jobmap = none then some (Desc.mapw d) else x.jobmap
      slots := match Desc.slotOut d with
        | some i => tput x.slots i { value := 0, final := false, bound := some l }
        | none => x.slots }
  let (o, s) := s.freshOrder
  let launch : Launch :=
    { ctx := k.ctx, image := img, arg := d.getD 1 0 + k.add, astride := d.getD 2 0, nu := nu
      cls := if bit (dWord d 3) 32 then bits (dWord d 3) 33 2 else img.prio
      node := bits (dWord d 3) 48 16, mapen := Desc.mapen d, mapw := Desc.mapw d, cva := d.getD 5 0
      gmb := gmb, inen := Desc.inen d, slotIn := Desc.slotIn d, slotOut := Desc.slotOut d
      quant := Desc.quant d, mode := Desc.mode d, psize := p
      tsize := if gmb then none else some nu
      ovf := false, site := k.site, lebal := take * 1000, charged := 0, h := k.h, tid := k.tid
      heldBy := k.heldBy, graph := k.graph.map (fun g => (g.1, g.2.1)), porder := (k.graph.map (fun g => g.2.2)).getD o
      isJob := k.isJob, units := (List.range p).map (fun i => (i, UnitSt.waiting gmb 0 s.now s.now))
      order := o, cancelled := false, covered := false, result := 0, confirmed := 0, page := .none, resultWritten := false
      done := none }
  let s : State := { s with launches := tput s.launches l launch }
  match (tget (s.ctx k.ctx).slots (Desc.slotIn d)).filter (fun y => gmb && Desc.inen d && y.final) with
  | some y =>
    let s := s.applyShape l y.value.toNat
    (s.modLaunch l fun z => { z with psize := z.tsize.getD p }, l)
  | none => (s, l)

/-- The descriptor of a job's one unit (R308, R440). -/
def jobDesc (image arg : Word) : List Word :=
  [image, arg] ++ List.replicate 14 0

/-- Uncompleted launches of a context, and of the module, leave room for one more (R343, check 4). -/
def State.launchRoom (s : State) (c : Nat) : Bool :=
  decide ((s.launches.filter (fun l => !l.2.isDone && l.2.ctx == c)).length < 256) &&
  decide ((s.launches.filter (fun l => !l.2.isDone)).length < 4096)

/-- The slot that a launch binds is bound to a launch that has not completed (R337). -/
def State.slotBound (s : State) (c : Nat) (k : Option Nat) : Bool :=
  match k with
  | some i =>
    match (tget (s.ctx c).slots i).bind (·.bound) with
    | some l => ((s.launch? l).map (fun x => !x.isDone)).getD false
    | none => false
  | none => false

/-! ## A phase boundary (R328, R429) -/

/-- Step 4 of a commit: what a rollback restores. -/
def Ctx.record (x : Ctx) (opening : Option (Nat × Word)) : Ctx :=
  { x with
    job := x.job.map (fun j =>
      { j with graphs := x.graphs, slots := x.slots, jobmap := x.jobmap, opening := opening }) }

/-- Steps 1 to 3 of a commit: effects released, journal emptied (R429). -/
def State.commitPhase (s : State) (c : Nat) : State :=
  let p := (s.ctx c).part
  let s := s.releaseGate c
  let s := s.modPart p fun q => { q with jpages := q.jpages.filter (fun j => j.ctx != c) }
  s.modCtx c fun x => { x with unprot := false }

/-- A boundary: the commit of the ending phase, the number of the new one, and where it begins (R328, R429). -/
def State.boundary (s : State) (c : Nat) (opening : Option (Nat × Word)) (start : Nat) : State :=
  let cken := (s.part (s.ctx c).part).cken
  let s := if cken then (s.commitPhase c).modCtx c (·.record opening) else s.modCtx c fun x => { x with unprot := true }
  s.modCtx c fun x => { x with pnum := (x.pnum + 1) % 2 ^ 48, pstart := start }

/-- The job of a context starts with a launch of place `start`: PHASE is set to 0 and its first boundary placed
(R429). -/
def State.startJob (s : State) (c : Nat) (image arg : Word) (cls : Nat) (vf : Option Nat) (start : Nat) : State :=
  let s := s.modCtx c fun x =>
    { x with
      jstart := start, pnum := 0, rollbk := 0, unprot := false, jobmap := none, jobVf := vf
      job := some { image := image, arg := arg, cls := cls, graphs := x.graphs, slots := x.slots
                    jobmap := none, opening := none } }
  s.boundary c none start

/-! ## Eligibility and placement (R324, R329, R330, R333, R338) -/

/-- Cores that PREPARE drains take no new unit (R293). -/
def Part.leaving (p : Part) (h : Nat) : Bool :=
  match p.prepared with
  | some (b, n) => !(decide (b ≤ h) && decide (h < b + n))
  | none => false

/-- A core grant of the context or an ancestor has not completed on this core (R303), or units are still to leave
it after a revocation (R311). -/
def State.grantPending (s : State) (c h : Nat) : Bool :=
  s.drains.any (fun d => match d.kind with
    | .coreGrant k b n => s.reaches k c && decide (b ≤ h) && decide (h < b + n)
    | .revokeCores i _ b n => (s.ctx i).part == (s.ctx c).part && decide (b ≤ h) && decide (h < b + n)
    | _ => false)

/-- The run of compute cores of a pipeline coordinate (R324). -/
def State.runOf (s : State) (l : Launch) (i : Nat) : List Nat :=
  let cores := (s.ownCores l.ctx).filter (fun h => !isService h)
  let k := mapSize l.mapw 3
  let len := cores.length / k
  let p := i / (mapSize l.mapw 0 * mapSize l.mapw 1 * mapSize l.mapw 2)
  if p + 1 = k then cores.drop (p * len) else (cores.drop (p * len)).take len

/-- The physical core of a unit in determinism mode (R333). -/
def State.boundCore (s : State) (l : Launch) (i : Nat) : Option Nat :=
  let m := (s.ctx l.ctx).remap
  if m.isEmpty then none else m[i % m.length]?

/-- A core that could hold a unit of a launch, were it empty (R329). -/
def State.fits (s : State) (l : Launch) (h : Nat) : Bool :=
  s.ownCore l.ctx h && (s.ctx l.ctx).st == .live &&
  (l.image.features.toNat &&& (2 ^ 128 - 1 - capLo (isService h)) == 0) &&
  (!isService h || (l.image.bankMask == 0 && l.image.tileMask == 0)) &&
  !(s.part (s.ctx l.ctx).part).leaving h && !(s.part (s.ctx l.ctx).part).out && !s.grantPending l.ctx h

/-- The cores on which a fresh unit may run, in order of preference (R324, R330, R333). -/
def State.choices (s : State) (l : Launch) (i : Nat) : List Nat :=
  if (s.part (s.ctx l.ctx).part).det then
    match s.boundCore l i with
    | some h => [h].filter (s.fits l)
    | none => []
  else
    let own := (s.ownCores l.ctx).filter (s.fits l)
    if l.mapen then
      let run := (s.runOf l i).filter (s.fits l)
      run ++ own.filter (fun h => !run.contains h)
    else own

/-- A unit that waits for a core: its launch, index, core if it was evicted, class, raises and order. -/
structure Waiting where
  l : Nat
  i : Nat
  at_ : Option Nat
  prov : Bool
  cls : Nat
  raised : Nat
  since : Nat
  node : Nat

/-- The waiting units of a partition (R329). -/
def State.pool (s : State) (p : Nat) : List Waiting :=
  s.launches.flatMap (fun (n, l) =>
    if l.isDone || l.heldBy.isSome || (s.ctx l.ctx).part != p then []
    else l.units.filterMap (fun (i, u) => match u with
      | .waiting prov r t _ =>
        some { l := n, i := i, at_ := none, prov := prov, cls := l.classOf r, raised := r, since := t, node := l.node }
      | .evicted h true r t _ =>
        let u : UnitId := { ctx := l.ctx, lnum := n, index := i }
        let prov := (((s.core h).evicted.find? (fun e => e.res.id == u)).map (fun e => e.res.prov)).getD false
        some { l := n, i := i, at_ := some h, prov := prov, cls := l.classOf r, raised := r, since := t, node := l.node }
      | _ => none))

/-- The pool order (R330). -/
def Waiting.before (det : Bool) (a b : Waiting) : Bool :=
  let key (w : Waiting) : List Nat := [3 - w.cls, if det then w.node else w.since, w.l, w.i]
  decide (key a ≤ key b)

def State.poolOrder (s : State) (p : Nat) : List Waiting :=
  sortBy (Waiting.before (s.part p).det) (s.pool p)

/-- The threads of a unit that have not exited. -/
def Core.liveThreads (c : Core) : List Thread :=
  (c.threads.filter (fun t => t.2.exited.isNone)).map (·.2)

/-- A late fault may be delivered to a thread: it is not halted and waits for no trap reply (R407). -/
def Thread.deliverable (t : Thread) : Bool :=
  !t.late.isEmpty && !t.halted && (match t.wait with
    | .trapReply _ => false
    | .wdtStop => false
    | _ => true)

/-- A wait that is a blocking point (R107). -/
def Wait.blocking : Wait → Bool
  | .woken => true
  | .hjoin .. => true
  | .hexit _ => true
  | .waitm .. => true
  | .yieldu => true
  | .trapReply _ => true
  | .wdtStop => true
  | .waitc _ => true
  | .barwt _ => true
  | .tbwait .. => true
  | .colwt .. => true
  | .page .. => true
  | _ => false

/-- Every live thread waits at a blocking point, none is halted, and none is to leave its wait for a late fault (R109,
R407, R425). -/
def Core.allBlocked (c : Core) : Bool :=
  c.liveThreads.all (fun t => t.wait.blocking && !t.halted && !t.deliverable)

/-- The initial registers of a unit (R83, R321). -/
def startRegs (img : Image) (h : Nat) (arg : Word) : Regs :=
  let g2 := if isService h then 0x200000
    else if img.bankMask = 0 then 0 else (Nat.log2 img.bankMask.toNat + 1) * bankBytes
  let r := { Regs.reset with pc := img.entry }
  (r.writeG 2 (w64 g2)).writeG 3 arg

/-- The coordinates of unit i (R323). -/
def unitCoord (l : Launch) (i : Nat) : Word :=
  if !l.mapen then 0
  else
    let t := mapSize l.mapw 0
    let q := mapSize l.mapw 1
    let d := mapSize l.mapw 2
    w64 (i % t + (i / t % q) * 2 ^ 16 + (i / (t * q) % d) * 2 ^ 32 + (i / (t * q * d)) * 2 ^ 48)

/-- A fresh unit starts on a core; its tag entries begin as they are at reset, so that TGRD reads 0 from an entry that
nothing has written (DESIGN CHOICE, R150; log 80), and thread 0 issues first (log 2). DESIGN CHOICE: no command has been
accepted before, so the cyclic order of acceptance begins at thread 0; R65 does not say where it begins at a start or a
return (log 83) (R71, R83, R118, R134, R137, R186, R213, R235, R421). -/
def State.startUnit (s : State) (n i h : Nat) (prov : Bool) (raised : Nat) : State :=
  match s.launch? n with
  | none => s
  | some l =>
    let u : UnitId := { ctx := l.ctx, lnum := n, index := i }
    let det := (s.part (s.ctx l.ctx).part).det
    let lc := if det then i % (s.ctx l.ctx).remap.length else h
    let res : Resident :=
      { id := u, prov := prov, tail := l.gmb && decide (l.psize ≤ i), raised := raised, node := l.node
        ucoord := unitCoord l i, lcore := lc, bankMask := l.image.bankMask, tileMask := l.image.tileMask
        streams := l.image.streams, helpers := l.image.helpers, assigned := [], exit0 := none, stop := none }
    let s := (setBits 96 l.image.bankMask.toNat).foldl (fun s k =>
      let s := (s.spillBank h k).clearBank h k
      let f := l.image.bankFmt.getD k 0
      s.modCore h fun c => c.modBank k fun _ =>
        { format := f % 16, sat := bit f 4, badw := false, owner := some u }) s
    let s := l.image.sections.foldl (fun s x => s.localStore h x.addr x.bytes) s
    let arg := l.arg + BitVec.ofNat 64 i * l.astride
    let t : Thread := { Thread.reset with r := startRegs l.image h arg }
    let s := s.modCore h fun c =>
      { c.spillMat.claimReg 0 with
        unit := some res, threads := [(0, t)], lastTid := 10, regs := CoreRegs.reset, tags := [], tiles := []
        vec := { VecUnit.reset with vmaxHeld := c.vec.vmaxHeld.filter (fun m => m.ctx == u.ctx && m.lnum == u.lnum) }
        mat := MatUnit.reset, matOwner := some u, bus := []
        sync := { SyncUnit.reset with held := c.sync.held }
        icache := [], lastAccept := [] }
    s.setUnit n i (.resident h)

/-- An evicted unit returns to its core (R81, R82, R137, R232). DESIGN CHOICE: the thread whose command each coprocessor
accepted last is not saved with the unit: the order of acceptance goes on from what the core holds (log 83). -/
def State.returnUnit (s : State) (n i h raised : Nat) : State :=
  match (s.core h).evicted.find? (fun e => e.res.id.lnum == n && e.res.id.index == i) with
  | none => s
  | some e =>
    let u := e.res.id
    let s := e.banks.foldl (fun s b => (s.spillBank h b.1).reloadBank h b.1 u b.2) s
    let s := s.modCore h fun c =>
      let parked := c.regBanks.filterMap (fun b => match b.2 with
        | .parked v tid _ t => if v = u then some (tid, t) else none
        | .live _ => none)
      let regBanks := c.regBanks.map (fun b => match b.2 with
        | .parked v tid _ _ => if v = u then (b.1, RegBank.live tid) else b
        | .live _ => b)
      let c : Core := { c with regBanks := regBanks }
      let spilled := e.threads.filter (fun t => !parked.any (fun p => p.1 == t.1))
      let c : Core := spilled.foldl (fun (c : Core) t => if t.2.exited.isNone then c.claimReg t.1 else c) c
      let ts := (parked ++ spilled).foldl (fun (a : Table Thread) t => tput a t.1 t.2) []
      let c : Core := if c.matOwner = some u then c else
        let c := c.spillMat
        { c with mat := e.mat.getD MatUnit.reset, matOwner := some u }
      let c : Core := match e.qrn with
        | some q =>
          { c with
            evicted := c.evicted.map (fun (x : Evicted) =>
              if c.qrn.owner = some x.res.id then { x with qrn := some c.qrn.tab } else x)
            qrn := { tab := q, owner := some u, queue := [] } }
        | none => c
      { c with
        unit := some { e.res with raised := raised }, threads := ts, regs := e.regs, tags := e.tags, tiles := e.tiles, vec := e.vec
        sync := { e.sync with held := c.sync.held }, bus := e.bus, icache := []
        evicted := c.evicted.filter (fun x => x.res.id != u) }
    s.setUnit n i (.resident h)

/-- A waiting unit takes a core. -/
def State.place (s : State) (w : Waiting) (h : Nat) : State :=
  match w.at_ with
  | some _ => s.returnUnit w.l w.i h w.raised
  | none => s.startUnit w.l w.i h w.prov w.raised

/-- A saved wake condition that holds at once (R109, R415); conditions that events bring about set it when
they come. -/
def Thread.wakesNow (t : Thread) : Bool :=
  match t.wait with
  | .yieldu => true
  | .woken => true
  | .page (.replied _) _ _ => true
  | _ => t.deliverable

/-- Evicts the resident unit of a core whose queues have drained; it keeps its raises (R109, R332, R414). DESIGN CHOICE: the issue order of a unit
that returns begins at thread 1, as if thread 0 had issued last (log 2). -/
def State.evict (s : State) (h : Nat) : State :=
  let c := s.core h
  match c.unit with
  | none => s
  | some r =>
    let u := r.id
    let (o, s) := s.fresh
    let e : Evicted :=
      { res := r, threads := c.threads.filter (fun t => t.2.exited.isSome), regs := c.regs, tags := c.tags
        tiles := c.tiles, vec := c.vec, mat := none, sync := { c.sync with held := [] }, qrn := none, bus := c.bus, banks := []
        order := o }
    let ready := c.liveThreads.any Thread.wakesNow
    let s := s.setCore h
      { c with
        unit := none, threads := [], lastTid := 0, regs := CoreRegs.reset, tags := [], tiles := []
        vec := VecUnit.reset, sync := { SyncUnit.reset with held := c.sync.held }, bus := []
        regBanks := c.regBanks.map (fun b => match b.2 with
          | .live tid => (b.1, .parked u tid o (c.thread tid))
          | b' => (b.1, b'))
        matOwner := some u
        evicted := c.evicted ++ [e] }
    let s := s.modPart (s.ctx u.ctx).part fun p =>
      if p.saves.contains u then p else { p with saves := p.saves ++ [u] }
    s.setUnit u.lnum u.index (.evicted h ready r.raised s.now s.now)

/-- A save area holds 2 MiB (R403). -/
def saveArea : Nat := 0x200000

/-- The unit of a core could be evicted now: its threads wait, its vector, matrix and quasi-random commands
have completed, and a save area is there (R109, R211, R231, R270, R414). -/
def State.evictable (s : State) (h : Nat) : Bool :=
  let c := s.core h
  match c.unit with
  | none => false
  | some r =>
    let p := s.part (s.ctx r.id.ctx).part
    c.allBlocked && !s.inflight.any (fun a => a.unit == r.id && a.path != .mesh) && c.vec.queue.isEmpty && c.vec.vmax.isEmpty && c.mat.queue.isEmpty && c.qrn.queue.isEmpty && r.stop.isNone &&
    (p.saves.contains r.id || decide (p.saves.length < p.save.size / saveArea))

/-- The present class of the unit on a core (R322, R332, R334). -/
def State.resClass (s : State) (h : Nat) : Nat :=
  match (s.core h).unit with
  | some r => ((s.launch? r.id.lnum).map (fun l => l.classOf r.raised)).getD 0
  | none => 0

/-- The raises of a launch's units lapse (R334). -/
def Launch.lapse (l : Launch) : Launch :=
  { l with
    units := tmap l.units (fun _ u => match u with
      | .waiting p _ t z => .waiting p 0 t z
      | .evicted h r _ t z => .evicted h r 0 t z
      | u => u) }

/-- LEBAL of a launch changes; where it falls to 0 or below, every unit of the launch falls to class 0, from which aging
raises the waiting ones anew (R334). -/
def State.addEnergy (s : State) (n : Nat) (nj : Int) : State :=
  match s.launch? n with
  | none => s
  | some l =>
    let s := s.modLaunch n fun x => { x with lebal := x.lebal + nj }
    if 0 < l.lebal ∧ l.lebal + nj ≤ 0 then
      let f (c : Core) : Core :=
        { c with unit := c.unit.map (fun r => if r.id.ctx = l.ctx ∧ r.id.lnum = n then { r with raised := 0 } else r) }
      let s := s.modLaunch n Launch.lapse
      { s with
        cores := tmap s.cores (fun _ c => f c)
        castled := s.castled.map (fun x => { x with cores := tmap x.cores (fun _ c => f c) }) }
    else s

/-- The core from which a waiting unit may drive the resident unit (R331). -/
def State.victim (s : State) (w : Waiting) (cands : List Nat) : Option Nat :=
  let ok (h : Nat) : Bool :=
    s.evictable h &&
    (decide (s.resClass h < w.cls) ||
     ((s.core h).liveThreads.any (fun t => t.wait == .yieldu) && decide (s.resClass h ≤ w.cls)))
  (cands.filter ok).foldl (fun best h =>
    match best with
    | some b => if s.resClass h < s.resClass b ∨ (s.resClass h = s.resClass b ∧ h < b) then some h else best
    | none => some h) none

/-- The cores on which a waiting unit may run: an evicted one only on the core that it left, which a grant to
a child holds back until it has completed there (R303, R329). -/
def State.coresFor (s : State) (w : Waiting) : List Nat :=
  match s.launch? w.l with
  | none => []
  | some l =>
    match w.at_ with
    | some h => if (s.part (s.ctx l.ctx).part).out then [] else [h]
    | none => s.choices l w.i

def State.empty (s : State) (h : Nat) : Bool := (s.core h).unit.isNone

/-- A core on which a unit may be placed as far as R338 goes: a provisional one only where no waiting non-provisional
unit of its context is eligible. -/
def State.yields (s : State) (pool : List Waiting) (w : Waiting) (h : Nat) : Bool :=
  !w.prov || !pool.any (fun x => !x.prov && ((s.launch? x.l).map (·.ctx)) == ((s.launch? w.l).map (·.ctx)) &&
    (s.coresFor x).contains h)

/-- The core on which a unit that has no eligible core is placed after an eviction (R331, R338). -/
def State.victimFor (s : State) (pool : List Waiting) (w : Waiting) : Option Nat :=
  s.victim w ((s.coresFor w).filter (fun h => !s.empty h && s.yields pool w h))

/-- Places one waiting unit, evicting where R331 lets it (R330, R331, R338). -/
def State.placeOne (s : State) (pool : List Waiting) (w : Waiting) : State :=
  match (s.coresFor w).find? (fun h => s.empty h && s.yields pool w h) with
  | some h => s.place w h
  | none =>
    match s.victimFor pool w with
    | some h => (s.evict h).place w h
    | none => s

/-- One round of placement of a partition (R330). -/
def State.placeAll (s : State) (p : Nat) : State :=
  (s.poolOrder p).foldl (fun s w => s.placeOne (s.poolOrder p) w) s

/-! ## Cancellation (R311, R345) -/

/-- A unit that is cancelled leaves its core; its issued accesses and accepted copies go on (R311, R312, R345). -/
def State.cancelHere (s : State) (h : Nat) (u : UnitId) : State :=
  (s.clearUnit h u true).setUnit u.lnum u.index .cancelled

/-- The unit stands as a provisional one, resident on a core or evicted from it. -/
def State.provUnit (s : State) (h : Nat) (u : UnitId) : Bool :=
  let c := s.coreOf (s.ctx u.ctx).part h
  ((c.unit.map (fun r => r.id == u && r.prov)).getD false) || c.evicted.any (fun e => e.res.id == u && e.res.prov)

/-- Cancels one unit of a launch: a waiting one is removed, a provisional one squashed, an evicted one ends where it
lies, a resident one is asked to stop; one that its gambit launch has yet to make will not start. A unit that has
ended stays as it is (R345). -/
def State.cancelUnit (s : State) (n : Nat) (i : Nat) : State :=
  match s.launch? n with
  | none => s
  | some l =>
    let u : UnitId := { ctx := l.ctx, lnum := n, index := i }
    let mark (s : State) : State := s.modLaunch n fun y => { y with cancelled := true }
    match tget l.units i with
    | some (.waiting ..) => (mark s).setUnit n i .cancelled
    | some (.held _) => ((mark s).dropHeld u).setUnit n i .cancelled
    | some (.evicted h ..) =>
      if s.provUnit h u then (mark s).squash u h .cancelled else (mark s).cancelHere h u
    | some (.resident h) =>
      if s.provUnit h u then (mark s).squash u h .cancelled
      else (mark s).modCoreOf (s.ctx l.ctx).part h fun c =>
        { c with unit := c.unit.map (fun r => { r with stop := some (r.stop.getD { since := s.now }) }) }
    | some _ => s
    | none => if l.tsize.isNone then (mark s).setUnit n i .cancelled else s

/-- Cancels every unit of a launch that has not completed; its shape concerns it no more (R345). -/
def State.cancelLaunch (s : State) (n : Nat) : State :=
  match s.launch? n with
  | none => s
  | some l =>
    if l.isDone then s
    else
      let s := s.modLaunch n fun y => { y with cancelled := true, covered := true, heldBy := none }
      l.units.foldl (fun s u => if u.2.ended then s else s.cancelUnit n u.1) s

/-- Stops the unlaunched nodes of a graph and cancels its launches (R345). -/
def State.cancelGraph (s : State) (c k : Nat) : State :=
  match tget (s.ctx c).graphs k with
  | none => s
  | some g =>
    let s := g.nodes.foldl (fun s y => match y.launch with
      | some l => if y.finished then s else s.cancelLaunch l
      | none => s) s
    s.modCtx c fun x =>
      { x with
        graphs := tmod x.graphs k (fun g =>
          { g with
            waiting := false
            nodes := g.nodes.map (fun y =>
              if y.launch.isNone then { y with finished := true, status := St.cancelled } else y) }) }

/-- Cancels every launch and graph of a context's job. -/
def State.cancelJob (s : State) (c : Nat) : State :=
  let s := (s.ctx c).graphs.foldl (fun s g => if g.2.st = .running then s.cancelGraph c g.1 else s) s
  let s := s.launches.foldl (fun s l => if l.2.ctx = c then s.cancelLaunch l.1 else s) s
  s.modCtx c fun x => { x with relaunch := none }

end Sys2Proof.Machine
end

