-- ==== Sys2Proof/Machine/Mailbox.lean ====
section
/-! DEFINITION. Records in mailbox memory: how the hardware fills and frees them, what a reply does to its waiters, and
the words that the mailbox controller watches (R285–R291, R315, R410–R413, R423). -/

namespace Sys2Proof.Machine

/-! ## Records in mailbox memory (R285–R288, R411–R413) -/

/-- Eight bytes of a core's local memory. -/
def State.local8 (s : State) (h off : Nat) : Nat := numOf (s.localBytes h off 8)

def State.setLocal8 (s : State) (h off v : Nat) : State := s.localStore h off (bytesOf 8 v)

/-- The offset of the area of a context that takes page requests, or trap messages (R285, R410). -/
def State.areaOf (s : State) (c : Nat) (page : Bool) : Nat :=
  ((s.ctx c).psaOff + (if page then 0 else 1)) * 0x4000

/-- The lowest free record of an area: its SEQ is 0 (R287). -/
def State.freeRecord (s : State) (h base : Nat) : Option Nat :=
  ((List.range 256).drop 1).find? (fun n => s.local8 h (base + 64 * n + 0x20) % 2 ^ 63 == 0)

/-- Fills a record and rings DOORBELL (R286, R287, R411, R412). -/
def State.fillRecord (s : State) (h base n : Nat) (body : List Word) : State :=
  let r := base + 64 * n
  let bell := (s.local8 h base + 1) % 2 ^ 64
  let w (s : State) (off k : Nat) : State := s.setLocal8 h (r + off) (body.getD k 0).toNat
  let s := w (w (w (w (w (w s 0 0) 8 1) 0x10 2) 0x18 3) 0x30 4) 0x38 5
  let s := s.setLocal8 h (r + 0x28) 0
  (s.setLocal8 h (r + 0x20) (bell % 2 ^ 63)).setLocal8 h base bell

/-- A core holds a unit, resident or evicted, that is still provisional. -/
def Core.holdsProv (c : Core) (u : UnitId) : Bool :=
  ((c.unit.map (fun r => r.id == u && r.prov)).getD false) || c.evicted.any (fun e => e.res.id == u && e.res.prov)

/-- The unit of a record is still provisional, so the record is held, castled out or not (R412, R341). -/
def State.postHeld (s : State) (p : Post) : Bool :=
  match p.unit with
  | some u => (s.cores ++ s.castled.flatMap (·.cores)).any (fun c => c.2.holdsProv u)
  | none => false

/-- A thread of a unit of a core: resident, parked in a register bank, or in the save area. -/
def Core.unitThread (c : Core) (u : UnitId) (tid : Nat) : Thread :=
  if c.unit.map (·.id) = some u then c.thread tid
  else
    ((c.regBanks.findSome? (fun b => match b.2 with
      | .parked v k _ t => if v = u ∧ k = tid then some t else none
      | .live _ => none)).orElse fun _ =>
        (c.evicted.find? (fun e => e.res.id == u)).bind (fun e => tget e.threads tid)).getD Thread.reset

/-- A thread of a unit, wherever its state is held. -/
def State.unitThread (s : State) (h : Nat) (u : UnitId) (tid : Nat) : Thread :=
  (s.coreOf (s.ctx u.ctx).part h).unitThread u tid

/-- Applies a change to a thread of a unit of a core. -/
def Core.modUnitThread (c : Core) (u : UnitId) (tid : Nat) (f : Thread → Thread) : Core :=
  if c.unit.map (·.id) = some u then c.modThread tid f
  else
    { c with
      regBanks := tmap c.regBanks (fun _ b => match b with
        | .parked v t o th => if v = u ∧ t = tid then .parked v t o (f th) else b
        | .live _ => b)
      evicted := c.evicted.map (fun e => if e.res.id = u then { e with threads := tmod e.threads tid f } else e) }

/-- Applies a change to a thread of a unit, wherever its state is held: at its core, or in a castle store. -/
def State.modUnitThread (s : State) (h : Nat) (u : UnitId) (tid : Nat) (f : Thread → Thread) : State :=
  let s := s.modCore h (·.modUnitThread u tid f)
  { s with castled := s.castled.map (fun x =>
      if (s.ctx u.ctx).part = x.part then { x with cores := tmod x.cores h (·.modUnitThread u tid f) } else x) }

/-- RESUME of a trap record (R413). -/
def resumeThread (id : Nat) (epc : Word) (t : Thread) : Thread :=
  if t.wait = .trapReply id then { t with wait := .none, r := { t.r with pc := epc &&& ~~~3#64 } } else t

/-- A thread that the watchdog stopped goes on: the control context at EPC, the others where they stopped (R423). -/
def Thread.resumeWdt (tid : Nat) (epc : Word) (t : Thread) : Thread :=
  if t.wait = .wdtStop then
    { t with wait := .none, r := if tid = 0 then { t.r with pc := epc &&& ~~~3#64 } else t.r }
  else t

/-- COUNT is 0 again, and the WDT record is over (R423). -/
def CoreRegs.resumeWdt (r : CoreRegs) : CoreRegs := { r with wdogCount := 0, wdtPost := none }

/-- RESUME of the WDT record of a unit, resident or evicted (R415, R423). -/
def Core.resumeWdt (u : UnitId) (id : Nat) (epc : Word) (c : Core) : Core :=
  if c.unit.map (·.id) = some u then
    if c.regs.wdtPost = some id then
      { c with regs := c.regs.resumeWdt, threads := tmap c.threads (fun tid t => t.resumeWdt tid epc) }
    else c
  else if c.evicted.any (fun e => e.res.id == u && e.regs.wdtPost == some id) then
    { c with
      regBanks := tmap c.regBanks (fun _ b => match b with
        | .parked v tid o t => if v = u then .parked v tid o (t.resumeWdt tid epc) else b
        | .live _ => b)
      evicted := c.evicted.map (fun e =>
        if e.res.id = u then
          { e with regs := e.regs.resumeWdt, threads := tmap e.threads (fun tid t => t.resumeWdt tid epc) }
        else e) }
  else c

/-- SEQ of an invalidation, and its ERR: a reserved bit of INVCTL was set (R291). -/
def Inval.seq (i : Inval) : Nat := bits i.ctl 32 32

def Inval.bad (i : Inval) : Bool := bits i.ctl 17 15 != 0

/-- What a reply does to its waiters (R288, R413, R423): `epc` is the record's EPC at consumption. -/
def State.applyReply (s : State) (p : Post) (code : Nat) (epc : Word) : State :=
  match p.waiter with
  | .page c tag => s.answerTag c tag (code != 1)
  | .trap h tid u =>
    if code = 1 then s.modUnitThread h u tid (resumeThread p.id epc) else s.cancelUnit u.lnum u.index
  | .wdt h u =>
    if code = 1 then s.modCoreOf (s.ctx u.ctx).part h (·.resumeWdt u p.id epc)
    else s.cancelUnit u.lnum u.index
  | .nobody => s

/-- The partition of a context holds its interval: what the cores hold is its own (R417, R420). -/
def State.inForce (s : State) (c : Nat) : Bool := !(s.part (s.ctx c).part).out

/-- REPLY and SEQ of a record become 0. -/
def State.freeCopy (s : State) (c : Nat × Nat) : State := (s.setLocal8 c.1 (c.2 + 0x28) 0).setLocal8 c.1 (c.2 + 0x20) 0

/-- The same in the mailbox memory that a castle store holds for a partition (R420). -/
def Castled.freeCopy (x : Castled) (c : Nat × Nat) : Castled :=
  let a := aliasBase c.1 + c.2
  { x with mem := memWrite (memWrite x.mem (a + 0x28) 8 0) (a + 0x20) 8 0 }

/-- Every copy of a record becomes free, in the mailboxes or in the castle store of its partition. -/
def State.freeCopies (s : State) (p : Post) : State :=
  if s.inForce p.target then p.copies.foldl State.freeCopy s
  else
    { s with
      castled := s.castled.map (fun x => if x.part = (s.ctx p.target).part then p.copies.foldl Castled.freeCopy x else x) }

/-- Consumption of a reply, before what follows from a unit that it cancels: every copy of the record becomes free
(R288, R315, R413). -/
def State.consumeRaw (s : State) (p : Post) (code : Nat) (epc : Word) : State :=
  let s := s.freeCopies p
  let s : State := { s with posts := s.posts.filter (fun q => q.id != p.id) }
  s.applyReply p code epc

/-- The context, of a partition that holds its interval, whose page-service area begins at an offset of a mailbox. -/
def State.areaOwner (s : State) (h base : Nat) : Option Nat :=
  (s.ctxs.find? (fun x => x.2.psaValid && x.2.svch == h && x.2.psaOff * 0x4000 == base && s.inForce x.1)).map (·.1)

/-- A record of a page-service or trap-message area of a mailbox begins at `r`. -/
def State.recordAt (s : State) (h r : Nat) : Bool :=
  decide (r % 64 = 0) && decide (64 ≤ r % 0x4000) &&
  ((s.areaOwner h (r / 0x4000 * 0x4000)).isSome ||
    (decide (0x4000 ≤ r) && (s.areaOwner h (r / 0x4000 * 0x4000 - 0x4000)).isSome))

/-- The first part of an invalidation: the buffers drop the range (R291). -/
def State.startInval (s : State) (i : Inval) : State :=
  if i.bad then s else s.dropVa i.ctx (bit i.ctl 16) (bits i.va 16 36) (bits i.ctl 0 16 + 1)

/-- A request under way is one of the mailbox of a core, as the partition that holds the interval has it (R291, R420). -/
def State.invalOf (s : State) (h : Nat) (i : Inval) : Bool := i.h == h && s.inForce i.ctx

/-- A write to INVCTL with SEQ ≠ 0 starts a request, or queues it: the controller of a mailbox takes one at a time, of all
its areas (R291). -/
def State.invalWrite (s : State) (h base : Nat) : State :=
  match s.areaOwner h base with
  | none => s
  | some c =>
    let v := s.local8 h (base + 0x10)
    if bits v 32 32 = 0 then s
    else
      let i : Inval := { h := h, off := base, ctx := c, ctl := v, va := s.local8 h (base + 8) }
      let s := if s.invals.any (s.invalOf h) then s else s.startInval i
      { s with invals := s.invals ++ [i] }

/-- The controller has performed a write to the REPLY word of a record: where SEQ and REPLY[7:0] are not 0, it consumes
the reply; a record that no post filled has no waiter (R288, R413). -/
def State.replyHook (s : State) (h r : Nat) : State :=
  let code := s.local8 h (r + 0x28) % 256
  if code = 0 ∨ s.local8 h (r + 0x20) % 2 ^ 63 = 0 then s
  else
    match s.posts.find? (fun p => p.copies.contains (h, r) && s.inForce p.target) with
    | some p => s.consumeRaw p code (w64 (s.local8 h (r + 8)))
    | none => s.freeCopy (h, r)

/-- The words of a mailbox that the controller watches: REPLY of each record, and INVCTL (R288, R291, R413). Called
after a write of `n` bytes at `off`. -/
def State.hookRaw (s : State) (h off n : Nat) : State :=
  if !isService h then s
  else
    let hit (a : Nat) : Bool := decide (off < a + 8) && decide (a < off + n)
    let s := (List.range ((off + n) / 64 + 1 - off / 64)).foldl (fun s i =>
      let r := (off / 64 + i) * 64
      if hit (r + 0x28) && s.recordAt h r then s.replyHook h r else s) s
    let base := (off + n - 1) / 0x4000 * 0x4000
    if hit (base + 0x10) then s.invalWrite h base else s

/-- The bytes of a place take a value, and the mailbox controller sees it. -/
def State.storeRaw (s : State) (c : Nat) (l : Loc) (bs : List Byte) : State :=
  let s := s.writeLoc c l bs
  match l with
  | .mem a =>
    if spaAlias ≤ a then
      let (h, off) := aliasParts (a - spaAlias)
      s.hookRaw h off bs.length
    else s
  | .saved .. => s

/-- Writes an aligned double word of a context's memory (R164, R325). -/
def State.writeVa8 (s : State) (h tid c agent : Nat) (k : AccessKind) (va : Nat) (v : Word) : State × Rd Unit :=
  let (s, r) := s.engineTranslate h tid c agent va k
  match r with
  | .ok spa =>
    match s.locOf c spa with
    | some l => (s.storeRaw c l (bytesOf 8 v.toNat), .ok ())
    | none => (s, .access)
  | .access => (s, .access)
  | .page p => (s, .page p)

end Sys2Proof.Machine
end

