-- ==== Sys2Proof/Machine/Settle.lean ====
section
/-! DEFINITION. Completion of launches, graphs and jobs and what follows at once from it, the end of units, and the charge
of an error to a tenant (R128, R318–R327, R334, R337, R339, R427–R432, R440). -/

namespace Sys2Proof.Machine

/-! ## Completion (R128, R318, R325–R327, R334, R337, R440) -/

/-- UCNT: threads that have not exited, and stores and atomics to other homes not yet performed (R128). -/
def State.ucntOf (s : State) (u : UnitId) (threads : Nat) : Nat :=
  threads + (s.inflight.filter (fun a => a.unit == u && (match a.kind with
    | .load _ => false
    | _ => true) && (match a.path with
    | .localPort => false
    | .loopBack => false
    | .mesh => true))).length

def State.ucnt (s : State) (h : Nat) : Nat :=
  s.ucntOf (s.unitId h) (s.core h).liveThreads.length

/-- A launch is the producer of a slot: FINAL becomes 1 when it completes, and the slot is bound no more (R337). -/
def State.finalSlot (s : State) (c l : Nat) (slot : Option Nat) : State :=
  match slot with
  | some k => s.modCtx c fun x =>
      { x with slots := tmod x.slots k (fun y => if y.bound = some l then { y with final := true, bound := none } else y) }
  | none => s

/-- The node of a launch has finished. -/
def State.finishNode (s : State) (c : Nat) (g : Option (Nat × Nat)) (status : Nat) : State :=
  match g with
  | some (k, n) => s.modCtx c fun x =>
      { x with
        graphs := tmod x.graphs k (fun g =>
          { g with
            nodes := g.nodes.zipIdx.map (fun (y, i) =>
              if i = n then { y with finished := true, status := status } else y) }) }
  | none => s

/-- STATUS of a launch that ends (R319). -/
def Launch.status (l : Launch) : Nat := if l.cancelled then St.cancelled else if l.ovf then St.ovf else St.ok

/-- Confirmed normal completions and the sum of their exit values (R325). -/
def Launch.units' (l : Launch) : Nat := (l.units.filter (fun u => match u.2 with | .completed _ => true | _ => false)).length

def Launch.sum (l : Launch) : Word := l.units.foldl (fun a u => match u.2 with | .completed v => a + v | _ => a) 0

/-- Stores and atomics of a unit, and its copy commands, that have not been performed: a cancelled unit leaves them
behind (R312, R318, R345). -/
def State.unitBusy (s : State) (u : UnitId) : Bool :=
  s.inflight.any (fun a => a.unit == u) || s.cores.any (fun c => c.2.cpy.any (fun q => q.unit == u)) ||
  s.castled.any (fun x => x.cores.any (fun c => c.2.cpy.any (fun q => q.unit == u)))

/-- Accesses or copy commands of units of a launch that have ended, cancelled or squashed, are still under way. -/
def State.launchBusy (s : State) (n : Nat) (l : Launch) : Bool :=
  l.units.any (fun u => s.unitBusy { ctx := l.ctx, lnum := n, index := u.1 })

/-- A launch whose members have all ended, with every access of theirs performed (R318). -/
def State.launchReady (s : State) (n : Nat) (l : Launch) : Bool :=
  !l.isDone && l.heldBy.isNone && l.units.all (fun u => u.2.ended) && (l.tsize.isSome || l.covered) && !s.launchBusy n l

/-- A page wait over which an agent may go on: none, a reply, or room for a tag. -/
def State.pageClear (s : State) (p : PageWait) : Bool :=
  match p with
  | .none => true
  | .replied _ => true
  | .full c => decide ((s.ctx c).tags.length < 64)
  | .tag .. => false

/-- Barrier messages and maxima held for a launch are discarded when it completes (R202, R250). -/
def State.dropArrivals (s : State) (n : Nat) (c : Nat) : State :=
  { s with
    cores := tmap s.cores (fun _ k =>
      { k with
        sync := { k.sync with held := k.sync.held.filter (fun m => !(m.ctx == c && m.lnum == n)) }
        vec := { k.vec with vmaxHeld := k.vec.vmaxHeld.filter (fun m => !(m.ctx == c && m.lnum == n)) } }) }

/-- The launch ends: energy back, slot final, node finished (R334, R337). -/
def State.endLaunch (s : State) (n : Nat) (l : Launch) : State :=
  let s := (s.dropArrivals n l.ctx).modCtx l.ctx fun x =>
    { x with energy := if 0 ≤ l.lebal then x.energy + l.lebal / 1000 else max 0 (x.energy + l.lebal / 1000) }
  let s := s.modLaunch n fun y =>
    { y with done := some l.status, result := l.sum, confirmed := l.units', page := .none }
  (s.finalSlot l.ctx n l.slotOut).finishNode l.ctx l.graph l.status

/-- DONE of a record (R325). -/
def recordDone (status units : Nat) : Word := w64 (1 + status * 256 + units * 2 ^ 32)

/-- Writes the completion record and ends the launch; a page fault leaves it waiting (R325). -/
def State.completeLaunch (s : State) (n : Nat) (l : Launch) : State :=
  if l.cva = 0 ∨ l.page = .replied true then s.endLaunch n l
  else
    let a := l.cva.toNat
    let (s, r) := if l.resultWritten then (s, .ok ()) else s.writeVa8 l.h l.tid l.ctx 1 .copyWrite a l.sum
    match r with
    | .access => s.endLaunch n l
    | .page p => s.modLaunch n fun y => { y with page := p }
    | .ok _ =>
      let (s, r) := s.writeVa8 l.h l.tid l.ctx 1 .copyWrite (a + 8) (recordDone l.status l.units')
      match r with
      | .page p => s.modLaunch n fun y => { y with page := p, resultWritten := true }
      | _ => s.endLaunch n l

/-- A node's predecessors let it launch (R327). -/
def State.nodeReady (s : State) (g : Graph) (n : Nat) : Bool :=
  let _ := s
  g.edges.all (fun e =>
    if e.2.1 = n then
      match g.nodes[e.1]? with
      | some p => if e.2.2 then p.finished || p.launch.isSome else p.finished
      | none => false
    else true)

/-- The record of a node that failed its checks is to be written (R327). -/
def State.failRecord (s : State) (c : Nat) (g : Graph) (d : List Word) (status : Nat) : State :=
  if dWord d 5 = 0 then s
  else
    let r : PendRec :=
      { ctx := c, h := g.issuer.1, tid := g.issuer.2, cva := dWord d 5, status := status, half := false, page := .none }
    { s with recs := s.recs ++ [r] }

/-- Writes the first record that can be: RESULT 0, then DONE; a page fault leaves it waiting, and where a write is denied
or faults it is not written (R325, R327). -/
def State.writeRec (s : State) (r : PendRec) : State :=
  let rest := s.recs.erase r
  let s : State := { s with recs := rest }
  let keep (s : State) (r : PendRec) : State := { s with recs := s.recs ++ [r] }
  if r.page = .replied true then s
  else
    let (s, x) := if r.half then (s, .ok ()) else s.writeVa8 r.h r.tid r.ctx 1 .copyWrite r.cva 0
    match x with
    | .access => s
    | .page p => keep s { r with page := p }
    | .ok _ =>
      let (s, x) := s.writeVa8 r.h r.tid r.ctx 1 .copyWrite (r.cva + 8) (recordDone r.status 0)
      match x with
      | .page p => keep s { r with page := p, half := true }
      | _ => s

def State.modNode (s : State) (c k n : Nat) (f : Node → Node) : State :=
  s.modCtx c fun x =>
    { x with
      graphs := tmod x.graphs k (fun g =>
        { g with nodes := g.nodes.zipIdx.map (fun (y, i) => if i = n then f y else y) }) }

/-- Launches a node (R327, R343). -/
def State.launchNode (s : State) (c k n : Nat) (g : Graph) (y : Node) : State :=
  let d := y.desc
  let fail (s : State) (st : Nat) : State :=
    (s.failRecord c g d st).finishNode c (some (k, n)) st
  if Desc.mapen d ∧ ((s.ctx c).jobmap.map (fun m => m != Desc.mapw d)).getD false then fail s St.badarg
  else if s.slotBound c (Desc.slotOut d) then fail s St.busy
  else if !s.launchRoom c then fail s St.nores
  else if y.page = .replied true then fail s St.imgmap
  else
    let (s, r) := s.readImage g.issuer.1 g.issuer.2 c (d.getD 0 0)
    match r with
    | .page p => s.modNode c k n fun y => { y with page := p }
    | .fail st => fail s st
    | .ok img =>
      let args : LaunchArgs :=
        { ctx := c, site := y.site, h := g.issuer.1, tid := g.issuer.2, add := g.arg
          graph := some (k, n, g.order), heldBy := none, isJob := false }
      let (s, l) := s.accept d img args
      s.modNode c k n fun y => { y with launch := some l, page := .none }

/-- A node that can be launched now, with its context and graph. -/
def State.nextNode (s : State) : Option (Nat × Nat × Nat × Graph × Node) :=
  s.ctxs.findSome? (fun (c, x) =>
    x.graphs.findSome? (fun (k, g) =>
      if g.st = .running ∧ g.waiting = false then
        g.nodes.zipIdx.findSome? (fun (y, n) =>
          if !y.finished && y.launch.isNone && s.nodeReady g n && s.pageClear y.page then some (c, k, n, g, y)
          else none)
      else none))

/-- The job of a context has no uncompleted launch, no running graph, and no command that would add one (R318). -/
def State.jobEnded (s : State) (c : Nat) (x : Ctx) : Bool :=
  x.job.isSome && x.relaunch.isNone && !s.launches.any (fun l => l.2.ctx == c && !l.2.isDone) &&
  !x.graphs.any (fun g => g.2.st == .running) && !s.cmds.any (fun k => k.u.ctx == c && k.op.retractable)

/-- The queues of a subtree are freed, and their collectives end, at the other members with ABORT (R384, R397). -/
def State.dropColQueues (s : State) (cs : List Nat) : State :=
  let s := s.abortCollectives (fun q _ => cs.contains q.ctx)
  { s with
    dies := tmap s.dies (fun _ d =>
      { d with col := { d.col with queues := d.col.queues.filter (fun q => !cs.contains q.2.ctx) } }) }

/-- A job of JOBGO reports to its VF: JOBRES, RUN, JOBDONE. With CKEN = 1 the message of vector 0 enters the host gate; the
last phase has committed, so it leaves behind what entered before it (R433, R439, R440; log 59). -/
def State.jobDone (s : State) (c v : Nat) (res : Word) : State :=
  let s := s.modVf v fun y => { y with jobres := res, run := false }
  if (s.part (s.ctx c).part).cken then (s.setJobInt c v 0).releaseGate c else s.setInt v 0

/-- The job completes: its last phase commits, its VF is told, and its collective queues close (R318, R384, R440). -/
def State.completeJob (s : State) (c : Nat) : State :=
  let x := s.ctx c
  let s := if (s.part x.part).cken then s.commitPhase c else s
  let res := ((s.launches.find? (fun l => l.2.ctx == c && l.2.isJob && decide (x.jstart ≤ l.2.porder))).map (·.2.result)).getD 0
  let s : State := { s with launches := s.launches.filter (fun l => !(l.2.ctx == c && decide (0x10000 ≤ l.1))) }
  let s := match x.jobVf with
    | some v => s.jobDone c v res
    | none => s
  (s.modCtx c fun x => { x with job := none, jobmap := none, jobVf := none }).dropColQueues [c]

/-- Starts the initial unit of a job (R308, R440): its image is read for core `h` and thread `tid`. -/
def State.launchJob (s : State) (c h tid : Nat) (image arg : Word) : State × ImgRes × Nat :=
  if !s.launchRoom c then (s, .fail St.nores, 0)
  else
    let (s, r) := s.readImage h tid c image
    match r with
    | .ok img =>
      let args : LaunchArgs :=
        { ctx := c, site := 0, h := h, tid := tid, add := 0, graph := none, heldBy := none, isJob := true }
      let (s, l) := s.accept (jobDesc image arg) img args
      (s, .ok img, l)
    | r => (s, r, 0)

/-- A rolled-back job starts its initial unit again (R431). -/
def State.relaunch (s : State) (c : Nat) (x : Ctx) : State :=
  match x.job with
  | none => s.modCtx c fun x => { x with relaunch := none }
  | some j =>
    let (s, r, l) := s.launchJob c 0 0 j.image j.arg
    match r with
    | .page p => s.modCtx c fun x => { x with relaunch := some p }
    | .fail _ => s.modCtx c fun x => { x with relaunch := none }
    | .ok _ =>
      let o := ((s.launch? l).map (·.porder)).getD 0
      (s.modLaunch l fun y => { y with cls := j.cls }).modCtx c fun x =>
        { x with relaunch := none, jstart := o, pstart := o }

/-- One consequence that follows at once from the state of the launches and graphs (R318, R327, R339). -/
def State.settleStep (s : State) : Option State :=
  match s.launches.find? (fun l => !l.2.isDone && l.2.gmb && l.2.tsize.isNone && l.2.inen && !l.2.covered &&
      ((tget (s.ctx l.2.ctx).slots l.2.slotIn).map (·.final)).getD false) with
  | some (n, l) => some (s.applyShape n ((tget (s.ctx l.ctx).slots l.slotIn).map (·.value.toNat)).get!)
  | none =>
    match s.launches.find? (fun l => s.launchReady l.1 l.2 && s.pageClear l.2.page) with
    | some (n, l) => some (s.completeLaunch n l)
    | none =>
    match s.recs.find? (fun r => s.pageClear r.page) with
    | some r => some (s.writeRec r)
    | none =>
      match s.nextNode with
      | some (c, k, n, g, y) => some (s.launchNode c k n g y)
      | none =>
        match s.ctxs.findSome? (fun (c, x) =>
            (x.graphs.find? (fun g => g.2.st == .running && !g.2.waiting && g.2.nodes.all (·.finished))).map
              (fun g => (c, g.1))) with
        | some (c, k) => some (s.modCtx c fun x =>
            { x with graphs := tmod x.graphs k (fun g => { g with st := .done }) })
        | none =>
          match s.ctxs.find? (fun x => match x.2.relaunch with
              | some p => s.pageClear p
              | none => false) with
          | some (c, x) => some (s.relaunch c x)
          | none => (s.ctxs.find? (fun x => s.jobEnded x.1 x.2)).map (fun x => s.completeJob x.1)

/-- Every such consequence, at most `fuel` of them in one step. -/
def State.settleGo : Nat → State → State
  | 0, s => s
  | n + 1, s =>
    match s.settleStep with
    | some s' => State.settleGo n s'
    | none => s

def State.settle (s : State) : State := State.settleGo 4096 s

/-- A resident unit that CANCEL, a revocation or KILL asked to stop ends at its boundary (R311, R345): its
pending instructions have completed, its provisional effects are none. -/
def State.stopUnit (s : State) (h : Nat) : State :=
  match (s.core h).unit with
  | none => s
  | some r => ((s.clearUnit h r.id true).setUnit r.id.lnum r.id.index .cancelled).settle

/-- The unit of a core completes (R128, R318, R339). -/
def State.completeUnit (s : State) (h : Nat) : State :=
  match (s.core h).unit with
  | none => s
  | some r =>
    let v := r.exit0.getD 0
    let s := s.clearUnit h r.id true
    (s.setUnit r.id.lnum r.id.index (if r.prov then .held v else .completed v)).settle

/-- The unit of a core may complete (R128). -/
def State.unitEnds (s : State) (h : Nat) : Bool :=
  match (s.core h).unit with
  | some r => r.exit0.isSome && s.ucnt h == 0
  | none => false

/-- The unit of a launch has ended. -/
def State.unitOver (s : State) (u : UnitId) : Bool :=
  (((s.launch? u.lnum).bind (fun l => tget l.units u.index)).map UnitSt.ended).getD false

/-- An access or a copy command of a unit is over; the launch of a unit that has ended may end with it (R318, R345). -/
def State.accessOver (s : State) (u : UnitId) : State := if s.unitOver u then s.settle else s

/-! ## Writes that the mailbox controller sees (R288, R413) -/

/-- What follows at once where a reply was consumed: it may have cancelled a unit. -/
def State.settleFrom (t s : State) : State := if t.posts.length = s.posts.length then t else t.settle

/-- The bytes of a place take a value, the mailbox controller sees it, and what it does takes effect. -/
def State.storeLoc (s : State) (c : Nat) (l : Loc) (bs : List Byte) : State := (s.storeRaw c l bs).settleFrom s

/-- A write of the program or the host to a word of a mailbox. -/
def State.mailboxWrite (s : State) (h off : Nat) (v : Word) : State :=
  ((s.setLocal8 h off v.toNat).hookRaw h off 8).settleFrom s

/-- Consumption of a reply, with what follows from it. -/
def State.consume (s : State) (p : Post) (code : Nat) (epc : Word) : State := (s.consumeRaw p code epc).settle

/-- Posts one record that is under way: it fills the lowest free record of the area, or waits (R287, R412).
A record whose target context is gone is consumed as DENY or KILL (R284, R313). -/
def State.postRecord (s : State) (id : Nat) : State :=
  match s.posts.find? (fun p => p.id == id) with
  | none => s
  | some p =>
    if p.mp || !p.due || s.postHeld p || (s.part (s.ctx p.target).part).out then s
    else if (tget s.ctxs p.target).isNone || (s.ctx p.target).st == .draining then s.consume p 2 0
    else
      let h := (s.ctx p.target).svch
      let base := s.areaOf p.target p.page
      match s.freeRecord h base with
      | none => s
      | some n =>
        let s := s.fillRecord h base n p.body
        { s with
          posts := s.posts.map (fun q =>
            if q.id = id then { q with copies := q.copies ++ [(h, base + 64 * n)], due := false } else q) }

/-! ## Charges and rollback (R428–R432) -/

/-- A page of memory takes the bytes that its journal holds. -/
def memPage (m : Memory) (page : Nat) (bs : Memory) : Memory :=
  bs.foldl (fun m e => memSet m e.1 e.2) (m.filter (fun e => decide (e.1 / 0x10000 ≠ page)))

/-- A report to the management processor, and ERR of the VF concerned (R428, R432, R439). -/
def State.report (s : State) (r : Report) (tenant : Nat) : State :=
  let s : State := { s with mp := { s.mp with reports := s.mp.reports ++ [r] } }
  if tenant < 512 then s.setInt tenant 2 else s

/-- Performs an access still in flight whose unit is stopped for a rollback. One that reads poison charges its tenant once
more, which restarts the rollback where it stands: a report and no more (R428, R431). -/
def State.flushWrite (s : State) (a : Access) : State :=
  match s.accessLoc a with
  | none => s
  | some l =>
    let reads : Bool := match a.kind with | .store _ => false | _ => true
    if reads && s.poisoned l a.size then
      let t := s.tenantOf a.unit.ctx
      s.report (.charge t) t
    else ((s.newBytes a l).map (s.storeRaw a.unit.ctx l)).getD s

/-- The collectives of a context end with ABORT (R397, R431). -/
def ColQ.dropOps (q : ColQ) (c : Nat) : ColQ :=
  { q with
    ended := q.ended ++ (q.ops.filter (fun (o : ColOp) => o.unit.ctx == c)).map (fun (o : ColOp) =>
      { seq := o.seq, status := 14, disc := o.disc })
    ops := q.ops.filter (fun (o : ColOp) => o.unit.ctx != c) }

/-- Records of the units of a context that are stopped: those still held go, and the replies to the others find nobody
(R340, R431). -/
def State.orphanPosts (s : State) (c : Nat) : State :=
  let mine (p : Post) : Bool := (p.unit.map UnitId.ctx) == some c
  { s with
    posts := (s.posts.filter (fun p => !(mine p && s.postHeld p))).map (fun p => if mine p then { p with waiter := .nobody } else p) }

/-- A launch of a context's job that its current phase, or none that has completed, holds. -/
def Ctx.undone (x : Ctx) (l : Launch) : Bool := !(l.isDone && decide (l.porder < x.pstart))

/-- Stops every unit of a context's job and removes its launches; those of phases that have committed stay completed
(R344, R431). -/
def State.stopJob (s : State) (c : Nat) : State :=
  let s := s.inflight.foldl (fun s a => if a.unit.ctx = c then s.flushWrite a else s) s
  let s := (s.abortCollectives (fun _ o => o.unit.ctx == c)).orphanPosts c
  let dies := tmap s.dies (fun _ d => { d with col := { d.col with queues := tmap d.col.queues (fun _ q => q.dropOps c) } })
  let s : State := { s with
    inflight := s.inflight.filter (fun a => a.unit.ctx != c), dies := dies
    recs := s.recs.filter (fun r => r.ctx != c), cmds := s.cmds.filter (fun k => k.u.ctx != c) }
  let s := s.launches.foldl (fun s l =>
    if l.2.ctx = c then
      l.2.units.foldl (fun s u => match u.2 with
        | .resident h => s.clearUnit h { ctx := c, lnum := l.1, index := u.1 } false
        | .evicted h .. => s.clearUnit h { ctx := c, lnum := l.1, index := u.1 } false
        | _ => s) s
    else s) s
  { s with launches := s.launches.filter (fun l => !(l.2.ctx == c && (s.ctx c).undone l.2)) }

/-- rollback of one job (R431). -/
def State.rollback (s : State) (c : Nat) : State :=
  let p := (s.ctx c).part
  let s := s.stopJob c
  let pages := (s.part p).jpages.filter (fun j => j.ctx == c)
  let s := s.modPart p fun q =>
    { q with gated := q.gated.filter (fun g => !gateOf c g), jpages := q.jpages.filter (fun j => j.ctx != c) }
  let s : State := { s with
    mem := pages.foldl (fun m j => memPage m j.page j.bytes) s.mem
    poison := s.poison.filter (fun g => !pages.any (fun (j : JPage) => j.page == g * 32 / 0x10000)) }
  let s := s.modCtx c fun x =>
    match x.job with
    | some j =>
      { x with
        graphs :=
          let gs := tmap j.graphs (fun _ g => { g with held := none })
          match j.opening with
          | some (k, a) => tmod gs k (fun g =>
              { g with
                st := .running, waiting := false, arg := a
                nodes := g.nodes.map (fun y => { y with launch := none, finished := false, page := .none }) })
          | none => gs
        slots := tmap j.slots (fun _ y => { y with bound := none })
        jobmap := j.jobmap
        rollbk := min 255 (x.rollbk + 1)
        relaunch := if j.opening.isNone then some .none else none }
    | none => x
  s.settle

/-- The job of a context is lost (R432). -/
def State.loseJob (s : State) (c : Nat) : State :=
  let t := s.tenantOf c
  ((s.cancelJob c).report (.loss c) t).settle

/-- The contexts of a tenant that run a job (R427). -/
def State.jobsOf (s : State) (t : Nat) : List Nat :=
  (s.ctxs.filter (fun x => x.2.job.isSome && s.tenantOf x.1 == t)).map (·.1)

/-- An uncorrectable error is charged to a tenant (R428, R431, R432). -/
def State.charge (s : State) (t : Nat) : State :=
  let s := s.report (.charge t) t
  (s.jobsOf t).foldl (fun s c => if s.protectedJob c then s.rollback c else s.loseJob c) s

end Sys2Proof.Machine
end

