-- ==== Sys2Proof/Machine/Perform.lean ====
section
/-! DEFINITION. Performing accesses: scalar accesses from issue to their home, the order of one thread, exact traps and the
delivery of late faults (R124, R140, R143, R144, R163–R184, R407, R408). -/

namespace Sys2Proof.Machine

/-! ## One access at its home (R163, R164, R182) -/

/-- The value a load or an atomic leaves in its register (R142, R180, R182). -/
def loaded (kind : AccKind) (k x : Nat) : Word :=
  match kind with
  | .load true => BitVec.ofInt 64 (sInt (8 * k) x)
  | .load false => w64 x
  | .atomic .. => if k = 4 then BitVec.ofInt 64 (sInt 32 x) else w64 x
  | .store _ => 0

/-- The KIND of an access in a trap (R405). -/
def AccKind.code : AccKind → Nat
  | .load _ => 0
  | .store _ => 1
  | .atomic .. => 2

/-- An access is complete: its register is written and its window closes. -/
def Thread.finish (t : Thread) (a : Access) (v : Word) : Thread :=
  { t with
    r := match a.reg with
      | some n => t.r.writeN n v
      | none => t.r
    pend := t.pend.filter (fun p => p.access != a.id) }

/-- A refused load or atomic: its window closes, and LREF waits for the thread (R144). -/
def Thread.refuse (t : Thread) (a : Access) : Thread :=
  { t with
    pend := t.pend.filter (fun p => p.access != a.id)
    refused := t.refused ++ [{ access := a.id, epc := a.epc, cause := w64 (0x0A * 2 ^ 56 + addrInfo a.va a.kind.code 2) }] }

/-- The refused access of a thread that comes first in program order: the one that issued first (R144). -/
def Thread.firstRefused (t : Thread) : Option Refused :=
  t.refused.foldl (fun best r =>
    match best with
    | some b => if r.access < b.access then some r else best
    | none => some r) none

/-- The word at an address of the unit of a core: as its instruction cache holds it, else as a fetch would read it. -/
def State.fetched (s : State) (h : Nat) (a : Word) : Word32 :=
  match tget (s.core h).icache a.toNat with
  | some w => w
  | none =>
    match (s.translate h (s.ctxAt h) a .fetch).2 with
    | .ok spa =>
      match s.locOf (s.ctxAt h) (s.canon spa) with
      | some l => BitVec.ofNat 32 (numOf (s.readLoc l 4))
      | none => 0
    | _ => 0

/-- The SREF report of a refused store (R140, R405, R412). -/
def State.reportStore (s : State) (a : Access) : State :=
  let c := a.unit.ctx
  let (target, mp) := trapTarget s a.h c
  let body : List Word :=
    [w64 (0x11 * 2 ^ 56 + addrInfo a.va 0 0), a.epc,
     w64 (2 ^ 33 + (s.unitThread a.h a.unit a.tid).t.lost.toNat * 2 ^ 34), w64 (a.h + a.tid * 2 ^ 12 + c * 2 ^ 32), a.epc,
     (s.fetched a.h a.epc).setWidth 64]
  (s.addPost false target mp body .nobody (some a.unit)).2

/-- The home carries an access out (R163, R164, R182, R428). -/
def State.carryOut (s : State) (a : Access) : State :=
  let s : State := { s with inflight := s.inflight.filter (fun b => b.id != a.id) }
  let on (f : Thread → Thread) (s : State) : State := s.modUnitThread a.h a.unit a.tid f
  match s.accessLoc a with
  | none =>
    match a.kind with
    | .store _ => s.reportStore a
    | _ => on (·.refuse a) s
  | some l =>
    match a.kind with
    | .store v => s.storeLoc a.unit.ctx l (bytesOf a.size v.toNat)
    | .load _ =>
      if s.poisoned l a.size then (on (·.finish { a with reg := none } 0) s).charge (s.tenantOf a.unit.ctx)
      else on (·.finish a (loaded a.kind a.size (numOf (s.readLoc l a.size)))) s
    | .atomic op v n =>
      if s.poisoned l a.size then (on (·.finish { a with reg := none } 0) s).charge (s.tenantOf a.unit.ctx)
      else
        let old := numOf (s.readLoc l a.size)
        let s := s.storeLoc a.unit.ctx l (bytesOf a.size (atomicNew op a.size old v.toNat n.toNat))
        on (·.finish a (loaded a.kind a.size old)) s

/-- An access is performed. -/
def State.performAccess (s : State) (a : Access) : State := (s.carryOut a).accessOver a.unit

/-! ## The order of one thread's accesses (R165–R170, R184) -/

def Access.home (a : Access) : Home :=
  match a.path with
  | .mesh => homeOf a.addr
  | _ => .core a.h

def Access.overlaps (a b : Access) : Bool := decide (a.spa < b.spa + b.size) && decide (b.spa < a.spa + a.size)

def Access.isLoad (a : Access) : Bool :=
  match a.kind with
  | .load _ => true
  | _ => false

/-- An earlier access `e` of the thread is performed before `a` (R165, R166, R169, R170, R184). -/
def mustPrecede (e a : Access) : Bool :=
  e.h == a.h && e.tid == a.tid && e.unit == a.unit &&
  (e.overlaps a || (e.path == a.path && e.home == a.home) || (a.release && inScope a.scope a.h e.home) ||
   e.acquire || (e.fence && !a.isLoad))

/-- Performs an access after those that must precede it. -/
def State.performGo : Nat → State → Nat → State
  | 0, s, _ => s
  | n + 1, s, id =>
    match s.inflight.find? (fun a => a.id == id) with
    | none => s
    | some a =>
      let before := s.inflight.takeWhile (fun e => e.id != id)
      let s := before.foldl (fun s e => if mustPrecede e a then State.performGo n s e.id else s) s
      if s.inflight.any (fun b => b.id == id) then s.performAccess a else s

def State.perform (s : State) (id : Nat) : State := State.performGo (s.inflight.length + 1) s id

/-- Performs, in order, the accesses in flight of a thread that `p` names. -/
def State.drain (s : State) (h tid : Nat) (p : Access → Bool) : State :=
  (s.inflight.filter (fun a => a.h == h && a.tid == tid && p a)).foldl (fun s a => s.perform a.id) s

/-- complete_all_pending: every pending instruction of a thread reaches its completion point (R64). -/
def State.drainPend (s : State) (h tid : Nat) : State := s.drain h tid (fun a => !(match a.kind with
  | .store _ => true
  | _ => false))

/-! ## Exact traps (R124, R144) -/

/-- Where a refused load or atomic waits, the thread's other pending instructions complete, and the first refused one in
program order is taken as LREF at its own address; the instructions after it have had no effect (R64, R144). -/
def State.takeRefused (s : State) (h tid : Nat) : Option State :=
  if (s.thread h tid).refused.isEmpty then none
  else
    let s := s.drainPend h tid
    (s.thread h tid).firstRefused.map fun r =>
      let s := s.modThread h tid fun t => { t with refused := [] }
      takeTrap s h tid
        { code := r.cause.toNat / 2 ^ 56, info := r.cause.toNat % 2 ^ 56, epc := r.epc, ply := 0, late := false
          waddr := r.epc, word := s.fetched h r.epc }

/-- An exact trap of the executing instruction (R124): pending instructions complete first, and a refusal
among them comes before it. -/
def State.trapAt (s : State) (code info : Nat) (epc : Word) : State :=
  let h := s.curCore
  let tid := s.curTid
  let at_ := s.cur.r.pc
  let s := s.drainPend h tid
  match s.takeRefused h tid with
  | some s => s
  | none =>
    takeTrap s h tid
      { code := code, info := info, epc := epc, ply := 0, late := false, waddr := at_, word := s.curWord }

/-- An exact trap whose return address is the instruction itself (R124). -/
def State.trap (s : State) (code info : Nat) : State := s.trapAt code info s.cur.r.pc

/-- The thread waits at a blocking point, its pending instructions completed (R64, R107). -/
def State.blockAt (s : State) (w : Wait) : State :=
  let s := s.drainPend s.curCore s.curTid
  match s.takeRefused s.curCore s.curTid with
  | some s => s
  | none => s.block w

/-! ## Issuing a scalar access (R143, R144, R165, R178, R180, R182) -/

/-- What an access instruction asks for. -/
structure Req where
  va : Word
  size : Nat
  kind : AccKind
  reg : Option Nat
  scope : Scope
  acquire : Bool
  release : Bool
  look : Nat

def Req.akind (q : Req) : AccessKind :=
  match q.kind with
  | .load _ => .load
  | .store _ => .store
  | .atomic .. => .atomic

/-- The path, and the address on it, of an access to an SPA as its leaf gives it: an address of the domain ranges takes
the mesh, even to this module (R165, R273). -/
def State.pathOf (s : State) (h : Nat) (q : Req) (spa : Nat) : Path × Nat :=
  if q.va.toNat < 0x200000 then
    (if q.scope = .dom ∨ q.scope = .sys then .loopBack else .localPort, q.va.toNat)
  else if spaAlias ≤ spa ∧ spa < spaAlias + 2 ^ 33 ∧ (aliasParts (spa - spaAlias)).1 = h then
    (.loopBack, (aliasParts (spa - spaAlias)).2)
  else (.mesh, s.canon spa)

/-- The choice tape: whether this access stays in flight. A store does only where the tape says so; a load or
an atomic with a window does unless the tape says not (log 5). -/
def State.deferNext (s : State) (dflt : Bool) : Bool × State :=
  match s.defer with
  | [] => (dflt, s)
  | b :: bs => (b, { s with defer := bs })

/-- The stores that a core's store queue holds, oldest first (R146). -/
def State.storeQueue (s : State) (h : Nat) : List Access :=
  s.inflight.filter (fun b => b.h == h && (match b.kind with
    | .store _ => true
    | _ => false))

/-- A store finds the queue of 32 full and waits for an entry: the oldest store is performed (R146; log 5). -/
def State.storeRoom (s : State) (h : Nat) : State :=
  match s.storeQueue h with
  | [] => s
  | b :: l => if 32 ≤ l.length + 1 then s.perform b.id else s

/-- The access issues: after the acquires before it, and in flight or performed at once (R62, R146, R170). -/
def State.launchAccess (s : State) (q : Req) (spa : Nat) : State :=
  let h := s.curCore
  let tid := s.curTid
  let s := s.drain h tid (·.acquire)
  let fencer := s.cur.fencer
  let isLoad : Bool := match q.kind with | .load _ => true | _ => false
  let isStore : Bool := match q.kind with | .store _ => true | _ => false
  let byFence := !isLoad && fencer.isSome
  let (path, addr) := s.pathOf h q spa
  let (id, s) := s.fresh
  let scope := match fencer with
    | some sc => if byFence && (!q.release || decide (q.scope.code < sc.code)) then sc else q.scope
    | none => q.scope
  let a : Access :=
    { id := id, h := h, tid := tid, unit := s.unitId h, path := path, va := q.va, addr := addr, size := q.size
      kind := q.kind, reg := q.reg, epc := s.cur.r.pc, scope := scope, release := q.release || byFence
      acquire := q.acquire, fence := byFence }
  let s := if byFence then s.modCur (fun t => { t with fencer := none }) else s
  let (stay, s) := if isStore ∨ 0 < q.look then s.deferNext (!isStore) else (false, s)
  let s := if isStore then s.storeRoom h else s
  let s : State := { s with inflight := s.inflight ++ [a] }
  if stay then
    let s := s.retire
    if isStore then s
    else s.modCur (fun t => { t with pend := t.pend ++ [{ access := id, look := q.look, since := 0, reg := q.reg }] })
  else
    let s := s.perform id
    match s.takeRefused h tid with
    | some s => s
    | none => s.retire

/-- The checks of an access in their order, and its issue; an access to another module does not issue while the port that
it takes carries no traffic (R143, R144, R145, R178, R182, R353; log 8). -/
def State.access (s : State) (q : Req) : State :=
  let h := s.curCore
  let code := q.kind.code
  let isAtomic : Bool := match q.kind with | .atomic .. => true | _ => false
  let isStore : Bool := match q.kind with | .store _ => true | _ => false
  if q.va.toNat % q.size ≠ 0 then s.trap 0x0B (addrInfo q.va code 0)
  else if q.va.toNat < 0x200000 then
    match s.localCheck h q.va.toNat with
    | some sub => s.trap 0x0A (addrInfo q.va code sub)
    | none =>
      let loop := decide (q.scope = .dom) || decide (q.scope = .sys)
      if s.provisional h && (isAtomic || (isStore && (q.release || loop))) then s.block .confirm
      else s.launchAccess q 0
  else
    let (s, r) := s.translate h s.curCtx q.va q.akind
    match r with
    | .access sub => s.trap 0x0E (addrInfo q.va code sub)
    | .page f =>
      let (s, p) := s.pageFault s.curCtx h s.curTid 0 q.va q.akind f
      s.blockAt (.page p q.va code)
    | .ok spa =>
      if isAtomic ∧ homeOf (s.canon spa) = .host then s.trap 0x0D (addrInfo q.va 0 0)
      else if s.provisional h && (isAtomic || isStore) then s.block .confirm
      else if !s.routeOpen (s.canon spa) then s
      else s.launchAccess q spa

/-! ## Delivery of late faults (R407, R408) -/

/-- The queued late fault that goes first: the ply furthest behind the counter (R407). -/
def Thread.oldestLate (t : Thread) : Option LateFault :=
  t.late.foldl (fun best f =>
    match best with
    | some b => if (t.plyCtr - f.ply).toNat > (t.plyCtr - b.ply).toNat then some f else best
    | none => some f) none

/-- The ring entry that a ply number names (R67, R409). -/
def Thread.ringOf (t : Thread) (p : Word32) : PlyEntry :=
  (t.ring.find? (fun e => e.ply == p)).getD { ply := p, addr := 0, word := 0 }

/-- INFO of a late fault: the address of its word and its unit (R405). -/
def lateInfo (f : LateFault) : Nat := f.addr.toNat % 2 ^ 52 * 16 + f.unit % 16

/-- deliver_late (R408). Where a pending load or atomic turns out to be refused, that earlier instruction's LREF is taken
first, and the late fault at the next boundary (R144, R407; log 34). -/
def State.deliverLate (s : State) (h tid : Nat) : State :=
  let s := s.drainPend h tid
  match s.takeRefused h tid, (s.thread h tid).oldestLate with
  | some s, _ => s
  | none, none => s
  | none, some f =>
    let t := s.thread h tid
    let e := t.ringOf f.ply
    let s := s.modThread h tid fun t =>
      { t with late := t.late.filter (fun g => g != f) ++ (t.late.filter (fun g => g == f)).drop 1, wait := .none }
    takeTrap s h tid
      { code := f.code, info := lateInfo f, epc := t.r.pc, ply := f.ply, late := true, waddr := e.addr
        word := e.word }

end Sys2Proof.Machine
end

