-- ==== Sys2Proof/Machine/Alu.lean ====
section
/-! DEFINITION. Scalar integer arithmetic: ALU, the immediates, LI, LSI, SHI, BIT and PAL (R88–R94). -/

namespace Sys2Proof.Machine

/-- The instruction writes g[d] and completes. -/
def State.result (s : State) (d : Reg) (v : Word) : Out := .next (s.setG d v).retire

/-- The same with flags, which are raised even for g0 (R86, R89). -/
def State.resultF (s : State) (d : Reg) (v : Word) (f : Flags) : Out := .next ((s.setG d v).raise f).retire

/-- The 32-bit operand of a W form (R88). -/
def lo32 (w : Word) : Word32 := w.setWidth 32

/-- A 32-bit result, sign-extended (R88). -/
def State.resultW (s : State) (d : Reg) (v : Word32) : Out := s.result d (sext32 v)

/-- The result of a condition: 1 or 0. -/
def bool64 (b : Bool) : Word := if b then 1 else 0

/-- Shift amounts of 64-bit and 32-bit forms (R88). -/
def amt6 (b : Word) : Nat := b.toNat % 64
def amt5 (b : Word) : Nat := b.toNat % 32

/-! ## ALU (R88) -/

def execAdd (d a b : Reg) (s : State) : Out := s.result d (s.g a + s.g b)
def execSub (d a b : Reg) (s : State) : Out := s.result d (s.g a - s.g b)
def execMul (d a b : Reg) (s : State) : Out := s.result d (s.g a * s.g b)
def execMulh (d a b : Reg) (s : State) : Out :=
  s.result d (BitVec.ofInt 64 ((s.g a).toInt * (s.g b).toInt / 2 ^ 64))
def execMulhz (d a b : Reg) (s : State) : Out := s.result d (w64 ((s.g a).toNat * (s.g b).toNat / 2 ^ 64))

/-- The quotient or remainder of a 64-bit division (R89). -/
def State.divide (s : State) (d a b : Reg) (signed rem : Bool) : Out :=
  let (q, r, f) := divInt 64 signed (s.g a).toNat (s.g b).toNat
  s.resultF d (w64 (if rem then r else q)) f

def execDiv (d a b : Reg) (s : State) : Out := s.divide d a b true false
def execDivz (d a b : Reg) (s : State) : Out := s.divide d a b false false
def execRem (d a b : Reg) (s : State) : Out := s.divide d a b true true
def execRemz (d a b : Reg) (s : State) : Out := s.divide d a b false true
def execAnd (d a b : Reg) (s : State) : Out := s.result d (s.g a &&& s.g b)
def execOr (d a b : Reg) (s : State) : Out := s.result d (s.g a ||| s.g b)
def execXor (d a b : Reg) (s : State) : Out := s.result d (s.g a ^^^ s.g b)
def execAndn (d a b : Reg) (s : State) : Out := s.result d (s.g a &&& ~~~(s.g b))
def execSll (d a b : Reg) (s : State) : Out := s.result d (s.g a <<< amt6 (s.g b))
def execSrl (d a b : Reg) (s : State) : Out := s.result d (s.g a >>> amt6 (s.g b))
def execSra (d a b : Reg) (s : State) : Out := s.result d ((s.g a).sshiftRight (amt6 (s.g b)))
def execRol (d a b : Reg) (s : State) : Out := s.result d ((s.g a).rotateLeft (amt6 (s.g b)))
def execRor (d a b : Reg) (s : State) : Out := s.result d ((s.g a).rotateRight (amt6 (s.g b)))
def execSlt (d a b : Reg) (s : State) : Out := s.result d (bool64 ((s.g a).slt (s.g b)))
def execSltz (d a b : Reg) (s : State) : Out := s.result d (bool64 ((s.g a).ult (s.g b)))
def execMin (d a b : Reg) (s : State) : Out := s.result d (if (s.g b).slt (s.g a) then s.g b else s.g a)
def execMax (d a b : Reg) (s : State) : Out := s.result d (if (s.g a).slt (s.g b) then s.g b else s.g a)
def execMinz (d a b : Reg) (s : State) : Out := s.result d (if (s.g b).ult (s.g a) then s.g b else s.g a)
def execMaxz (d a b : Reg) (s : State) : Out := s.result d (if (s.g a).ult (s.g b) then s.g b else s.g a)
def execSel (d a b : Reg) (s : State) : Out := s.result d (if s.g d ≠ 0 then s.g a else s.g b)
def execClz (d a : Reg) (s : State) : Out := s.result d (w64 (clzN 64 (s.g a).toNat))
def execCtz (d a : Reg) (s : State) : Out := s.result d (w64 (ctzN 64 (s.g a).toNat))
def execFfs (d a : Reg) (s : State) : Out := s.result d (w64 (ffsN 64 (s.g a).toNat))
def execPopc (d a : Reg) (s : State) : Out := s.result d (w64 (popN 64 (s.g a).toNat))
def execBrev (d a : Reg) (s : State) : Out := s.result d (w64 (brevN 64 (s.g a).toNat))
def execBswap (d a : Reg) (s : State) : Out := s.result d (w64 (bswapN 8 (s.g a).toNat))
def execAddw (d a b : Reg) (s : State) : Out := s.resultW d (lo32 (s.g a) + lo32 (s.g b))
def execSubw (d a b : Reg) (s : State) : Out := s.resultW d (lo32 (s.g a) - lo32 (s.g b))
def execMulw (d a b : Reg) (s : State) : Out := s.resultW d (lo32 (s.g a) * lo32 (s.g b))

/-- The quotient or remainder of a 32-bit division, sign-extended (R89). -/
def State.divideW (s : State) (d a b : Reg) (signed rem : Bool) : Out :=
  let (q, r, f) := divInt 32 signed (s.g a).toNat (s.g b).toNat
  s.resultF d (sext32 (BitVec.ofNat 32 (if rem then r else q))) f

def execDivw (d a b : Reg) (s : State) : Out := s.divideW d a b true false
def execDivwz (d a b : Reg) (s : State) : Out := s.divideW d a b false false
def execRemw (d a b : Reg) (s : State) : Out := s.divideW d a b true true
def execRemwz (d a b : Reg) (s : State) : Out := s.divideW d a b false true
def execSllw (d a b : Reg) (s : State) : Out := s.resultW d (lo32 (s.g a) <<< amt5 (s.g b))
def execSrlw (d a b : Reg) (s : State) : Out := s.resultW d (lo32 (s.g a) >>> amt5 (s.g b))
def execSraw (d a b : Reg) (s : State) : Out := s.resultW d ((lo32 (s.g a)).sshiftRight (amt5 (s.g b)))

/-! ## Immediates, LI, LSI, SHI (R90–R92) -/

/-- The readings S and Z of imm16 (R90). -/
def immS (imm : BitVec 16) : Word := imm.signExtend 64
def immZ (imm : BitVec 16) : Word := imm.setWidth 64

def execAddi (d a : Reg) (imm : BitVec 16) (s : State) : Out := s.result d (s.g a + immS imm)
def execAndi (d a : Reg) (imm : BitVec 16) (s : State) : Out := s.result d (s.g a &&& immS imm)
def execOri (d a : Reg) (imm : BitVec 16) (s : State) : Out := s.result d (s.g a ||| immZ imm)
def execXori (d a : Reg) (imm : BitVec 16) (s : State) : Out := s.result d (s.g a ^^^ immZ imm)
def execSlti (d a : Reg) (imm : BitVec 16) (s : State) : Out := s.result d (bool64 ((s.g a).slt (immS imm)))
def execSltzi (d a : Reg) (imm : BitVec 16) (s : State) : Out := s.result d (bool64 ((s.g a).ult (immS imm)))
def execSlli (d a : Reg) (n : Fin 64) (s : State) : Out := s.result d (s.g a <<< n.val)
def execSrli (d a : Reg) (n : Fin 64) (s : State) : Out := s.result d (s.g a >>> n.val)
def execSrai (d a : Reg) (n : Fin 64) (s : State) : Out := s.result d ((s.g a).sshiftRight n.val)
def execRori (d a : Reg) (n : Fin 64) (s : State) : Out := s.result d ((s.g a).rotateRight n.val)
def execSlliw (d a : Reg) (n : Fin 32) (s : State) : Out := s.resultW d (lo32 (s.g a) <<< n.val)
def execSrliw (d a : Reg) (n : Fin 32) (s : State) : Out := s.resultW d (lo32 (s.g a) >>> n.val)
def execSraiw (d a : Reg) (n : Fin 32) (s : State) : Out := s.resultW d ((lo32 (s.g a)).sshiftRight n.val)
def execRoriw (d a : Reg) (n : Fin 32) (s : State) : Out := s.resultW d ((lo32 (s.g a)).rotateRight n.val)
def execLi (d : Reg) (imm : BitVec 21) (s : State) : Out := s.result d (imm.signExtend 64)
def execLsi (d : Reg) (imm : BitVec 21) (s : State) : Out := s.result d ((s.g d <<< 21) ||| imm.setWidth 64)

/-! ## Bit fields (R93) -/

/-- LEN is the field plus 1 (R93). -/
def execBextz (d a : Reg) (pos len : Fin 64) (s : State) : Out :=
  s.result d (w64 (bits (s.g a).toNat pos.val (len.val + 1)))
def execBexti (d a : Reg) (pos len : Fin 64) (s : State) : Out :=
  s.result d (BitVec.ofInt 64 (sInt (len.val + 1) (bits (s.g a).toNat pos.val (len.val + 1))))
def execBdep (d a : Reg) (pos len : Fin 64) (s : State) : Out :=
  let mask : Word := w64 ((2 ^ (len.val + 1) - 1) * 2 ^ pos.val)
  s.result d ((s.g d &&& ~~~mask) ||| ((s.g a <<< pos.val) &&& mask))

/-! ## Packed integers (R94) -/

def laneBits : LaneW → Nat
  | .w8 => 8
  | .w16 => 16
  | .w32 => 32

/-- Joins `n` elements of `w` bits, element 0 lowest. -/
def packLanes (w : Nat) : List Nat → Nat
  | [] => 0
  | x :: xs => x % 2 ^ w + 2 ^ w * packLanes w xs

/-- Applies an element operation to every lane; the flags are the union (R94). -/
def packed (l : LaneW) (f : Nat → Nat → Nat → Nat × Flags) (a b : Word) : Word × Flags :=
  let w := laneBits l
  let rs := (List.range (64 / w)).map (fun i => f w (bits a.toNat (w * i) w) (bits b.toNat (w * i) w))
  (w64 (packLanes w (rs.map (·.1))), rs.foldl (fun acc r => acc ||| r.2) 0)

/-- A packed instruction. -/
def State.packedOp (s : State) (d a b : Reg) (l : LaneW) (f : Nat → Nat → Nat → Nat × Flags) : Out :=
  let (v, fl) := packed l f (s.g a) (s.g b)
  s.resultF d v fl

/-- An element value, signed or unsigned. -/
def laneInt (z : Bool) (w x : Nat) : Int := if z then (x : Int) else sInt w x

/-- All ones or 0 in an element. -/
def laneMask (w : Nat) (c : Bool) : Nat := if c then 2 ^ w - 1 else 0

def execPadd (d a b : Reg) (l : LaneW) (s : State) : Out := s.packedOp d a b l fun _ x y => (x + y, 0)
def execPsub (d a b : Reg) (l : LaneW) (s : State) : Out := s.packedOp d a b l fun w x y => (x + 2 ^ w - y, 0)
def execPadds (d a b : Reg) (l : LaneW) (z : Bool) (s : State) : Out :=
  s.packedOp d a b l fun w x y => clampInt w z (laneInt z w x + laneInt z w y)
def execPsubs (d a b : Reg) (l : LaneW) (z : Bool) (s : State) : Out :=
  s.packedOp d a b l fun w x y => clampInt w z (laneInt z w x - laneInt z w y)
def execPmul (d a b : Reg) (l : LaneW) (s : State) : Out := s.packedOp d a b l fun _ x y => (x * y, 0)
def execPmulh (d a b : Reg) (l : LaneW) (z : Bool) (s : State) : Out :=
  s.packedOp d a b l fun w x y => (sPat w (laneInt z w x * laneInt z w y / (2 ^ w : Nat)), 0)
def execPdiv (d a b : Reg) (l : LaneW) (z : Bool) (s : State) : Out :=
  s.packedOp d a b l fun w x y => let (q, _, f) := divInt w (!z) x y; (q, f)
def execPrem (d a b : Reg) (l : LaneW) (z : Bool) (s : State) : Out :=
  s.packedOp d a b l fun w x y => let (_, r, f) := divInt w (!z) x y; (r, f)
def execPmin (d a b : Reg) (l : LaneW) (z : Bool) (s : State) : Out :=
  s.packedOp d a b l fun w x y => (if laneInt z w y < laneInt z w x then y else x, 0)
def execPmax (d a b : Reg) (l : LaneW) (z : Bool) (s : State) : Out :=
  s.packedOp d a b l fun w x y => (if laneInt z w x < laneInt z w y then y else x, 0)
def execPceq (d a b : Reg) (l : LaneW) (s : State) : Out :=
  s.packedOp d a b l fun w x y => (laneMask w (x == y), 0)
def execPclt (d a b : Reg) (l : LaneW) (z : Bool) (s : State) : Out :=
  s.packedOp d a b l fun w x y => (laneMask w (decide (laneInt z w x < laneInt z w y)), 0)
def execPsll (d a b : Reg) (l : LaneW) (s : State) : Out := s.packedOp d a b l fun w x y => (x * 2 ^ (y % w), 0)
def execPsrl (d a b : Reg) (l : LaneW) (s : State) : Out := s.packedOp d a b l fun w x y => (x / 2 ^ (y % w), 0)
def execPsra (d a b : Reg) (l : LaneW) (s : State) : Out :=
  s.packedOp d a b l fun w x y => (sPat w (sInt w x / (2 ^ (y % w) : Nat)), 0)
def execPclz (d a : Reg) (l : LaneW) (s : State) : Out := s.packedOp d a a l fun w x _ => (clzN w x, 0)
def execPctz (d a : Reg) (l : LaneW) (s : State) : Out := s.packedOp d a a l fun w x _ => (ctzN w x, 0)
def execPffs (d a : Reg) (l : LaneW) (s : State) : Out := s.packedOp d a a l fun w x _ => (ffsN w x, 0)
def execPpopc (d a : Reg) (l : LaneW) (s : State) : Out := s.packedOp d a a l fun w x _ => (popN w x, 0)

end Sys2Proof.Machine
end

