-- ==== Sys2Proof/Machine/Slots.lean ====
section
/-! DEFINITION. Command slots of the management processor: fields, responses and the generation count (R443,
R444), and the end of a partition (R445). -/

namespace Sys2Proof.Machine

/-- Statuses of the management processor (R444). -/
def Ms.ok : Nat := 0
def Ms.nores : Nat := 1
def Ms.badarg : Nat := 2
def Ms.noctx : Nat := 3
def Ms.busy : Nat := 7
def Ms.inuse : Nat := 8
def Ms.overlap : Nat := 0x0A
def Ms.hosterr : Nat := 0x0B
def Ms.stale : Nat := 0x0E

/-- A slot with `n` bytes at an offset replaced. -/
def putBytes (w : BitVec 512) (off n v : Nat) : BitVec 512 :=
  let x := w.toNat
  let lo := x % 2 ^ (8 * off)
  let hi := x / 2 ^ (8 * (off + n))
  BitVec.ofNat 512 (lo + v % 2 ^ (8 * n) * 2 ^ (8 * off) + hi * 2 ^ (8 * (off + n)))

/-- The response of a command: results, then STATUS (R443). -/
def State.respond (s : State) (slot : Nat) (cmd : BitVec 512) (st : Nat) (res : List (Nat × Nat × Nat)) : State :=
  let w := res.foldl (fun w (off, n, v) => putBytes w off n v) cmd
  { s with mp := { s.mp with slots := tput s.mp.slots slot (putBytes w 1 1 st) } }

/-- A command changed state: GEN (R443). -/
def State.bumpGen (s : State) : State := { s with mp := { s.mp with gen := s.mp.gen + 1 } }

/-- The command that has not completed does now. -/
def State.mpDone (s : State) (st : Nat) : State :=
  match s.mp.job with
  | some (slot, cmd) =>
    let s : State := { s with mp := { s.mp with job := none } }
    (if st = Ms.ok then s.bumpGen else s).respond slot cmd st []
  | none => s

/-- A partition whose root is gone frees its interval and its VFs (R445). -/
def State.endPartition (s : State) (p : Nat) : State :=
  { s with
    parts := tdel (tmap s.parts (fun _ x => if x.partner = some p then { x with partner := none } else x)) p
    vfs := tmap s.vfs (fun _ v => if v.part = some p then { v with part := none } else v)
    castled := s.castled.filter (fun x => x.part != p)
    mp := { s.mp with slices := s.mp.slices.filter (fun x => x.a != p && x.b != some p) } }

end Sys2Proof.Machine
end

