-- ==== Sys2Proof/Machine/Fpu.lean ====
section
/-! DEFINITION. Scalar floating point: FPU and FCV (R79, R80, R95–R101). -/

namespace Sys2Proof.Machine

/-- The format of a precision modifier (R95). -/
def precFmt : Prec → FFmt
  | .s => .fp32
  | .d => .fp64

/-- The first f register among those that an instruction names that a stream holds (R80). DESIGN CHOICE: INFO of its trap
names the first of d, a and b (log 80). -/
def Thread.boundReg (t : Thread) (rs : List Reg) : Option Reg :=
  rs.find? (fun r => decide (28 ≤ r.val) && t.bound.getLsbD (r.val - 28))

/-- Traps SBR where the instruction names a stream-bound register, else goes on (R80). -/
def State.guardF (s : State) (rs : List Reg) (k : State → Out) : Out :=
  match s.cur.boundReg rs with
  | some r => .next (s.trap 0x03 (32 + r.val))
  | none => k s

/-- The value of an f register in a format; bits above the format are ignored (R79). -/
def State.fnum (s : State) (f : FFmt) (r : Reg) : Num := decodeFloat f ((s.f r).toNat % 2 ^ f.width)

/-- The instruction writes a format's code into f[d], clears the bits above, and completes (R79, R86). -/
def State.resultFp (s : State) (d : Reg) (code : Nat) (fl : Flags) : Out :=
  .next ((s.setF d (w64 code)).raise fl).retire

/-- A rounding operation: the exact result, then encode_float without saturation (R96). -/
def State.roundOp (s : State) (d : Reg) (p : Prec) (rnd : Rnd) (x : NumF) : Out :=
  let (c, fl) := encodeFloat x.1 (precFmt p) rnd false
  s.resultFp d c (fl ||| x.2)

/-! ## FPU (R95–R97) -/

def execFadd (d a b : Reg) (p : Prec) (rnd : Rnd) (s : State) : Out :=
  s.guardF [d, a, b] fun s => s.roundOp d p rnd (addNum (s.fnum (precFmt p) a) (s.fnum (precFmt p) b) rnd)
def execFsub (d a b : Reg) (p : Prec) (rnd : Rnd) (s : State) : Out :=
  s.guardF [d, a, b] fun s =>
    s.roundOp d p rnd (addNum (s.fnum (precFmt p) a) (s.fnum (precFmt p) b).negate rnd)
def execFmul (d a b : Reg) (p : Prec) (rnd : Rnd) (s : State) : Out :=
  s.guardF [d, a, b] fun s => s.roundOp d p rnd (mulNum (s.fnum (precFmt p) a) (s.fnum (precFmt p) b))
def execFdiv (d a b : Reg) (p : Prec) (rnd : Rnd) (s : State) : Out :=
  s.guardF [d, a, b] fun s => s.roundOp d p rnd (divNum (s.fnum (precFmt p) a) (s.fnum (precFmt p) b))
def execFsqrt (d a : Reg) (p : Prec) (rnd : Rnd) (s : State) : Out :=
  s.guardF [d, a] fun s => s.roundOp d p rnd (sqrtNum (s.fnum (precFmt p) a))
def execFma (d a b : Reg) (p : Prec) (rnd : Rnd) (s : State) : Out :=
  s.guardF [d, a, b] fun s =>
    s.roundOp d p rnd (fmaNum (s.fnum (precFmt p) a) (s.fnum (precFmt p) b) (s.fnum (precFmt p) d) rnd)
def execFms (d a b : Reg) (p : Prec) (rnd : Rnd) (s : State) : Out :=
  s.guardF [d, a, b] fun s =>
    s.roundOp d p rnd (fmaNum (s.fnum (precFmt p) a).negate (s.fnum (precFmt p) b) (s.fnum (precFmt p) d) rnd)
def execFnms (d a b : Reg) (p : Prec) (rnd : Rnd) (s : State) : Out :=
  s.guardF [d, a, b] fun s =>
    s.roundOp d p rnd
      (fmaNum (s.fnum (precFmt p) a) (s.fnum (precFmt p) b) (s.fnum (precFmt p) d).negate rnd)

/-- FMIN and FMAX: one operand's value, which the format holds exactly (R97). -/
def State.minmax (s : State) (d a b : Reg) (p : Prec) (wantMax : Bool) : Out :=
  let f := precFmt p
  let (v, fl) := minmaxNum wantMax (s.fnum f a) (s.fnum f b)
  s.resultFp d (encodeFloat v f .rne false).1 fl

def execFmin (d a b : Reg) (p : Prec) (s : State) : Out := s.guardF [d, a, b] fun s => s.minmax d a b p false
def execFmax (d a b : Reg) (p : Prec) (s : State) : Out := s.guardF [d, a, b] fun s => s.minmax d a b p true

/-- Sign injection: the bits of a with another sign; no flag (R97). -/
def State.signOp (s : State) (d a b : Reg) (p : Prec) (f : Bool → Bool → Bool) : Out :=
  let w := (precFmt p).width
  let x := (s.f a).toNat % 2 ^ w
  let y := (s.f b).toNat % 2 ^ w
  s.resultFp d (x % 2 ^ (w - 1) + b2n (f (bit x (w - 1)) (bit y (w - 1))) * 2 ^ (w - 1)) 0

def execFsgn (d a b : Reg) (p : Prec) (s : State) : Out :=
  s.guardF [d, a, b] fun s => s.signOp d a b p fun _ y => y
def execFsgnn (d a b : Reg) (p : Prec) (s : State) : Out :=
  s.guardF [d, a, b] fun s => s.signOp d a b p fun _ y => !y
def execFsgnx (d a b : Reg) (p : Prec) (s : State) : Out :=
  s.guardF [d, a, b] fun s => s.signOp d a b p fun x y => x != y

/-! ## FCV (R98–R101) -/

/-- A conversion between floating-point formats; a signalling NaN raises NV (R41, R98). -/
def State.convert (s : State) (d a : Reg) (src dst : FFmt) (rnd : Rnd) : Out :=
  let (c, fl) := encodeFloat (s.fnum src a) dst rnd false
  s.resultFp d c fl

def execFdtos (d a : Reg) (rnd : Rnd) (s : State) : Out := s.guardF [d, a] fun s => s.convert d a .fp64 .fp32 rnd
def execFstod (d a : Reg) (s : State) : Out := s.guardF [d, a] fun s => s.convert d a .fp32 .fp64 .rne
def execFstoh (d a : Reg) (rnd : Rnd) (s : State) : Out := s.guardF [d, a] fun s => s.convert d a .fp32 .fp16 rnd
def execFhtos (d a : Reg) (s : State) : Out := s.guardF [d, a] fun s => s.convert d a .fp16 .fp32 .rne
def execFstob (d a : Reg) (rnd : Rnd) (s : State) : Out := s.guardF [d, a] fun s => s.convert d a .fp32 .bf16 rnd
def execFbtos (d a : Reg) (s : State) : Out := s.guardF [d, a] fun s => s.convert d a .bf16 .fp32 .rne

/-- FTOI: clamped; a 32-bit result is extended by its signedness (R99). -/
def execFtoi (d a : Reg) (p : Prec) (long z : Bool) (rnd : Rnd) (s : State) : Out :=
  s.guardF [a] fun s =>
    let w := if long then 64 else 32
    let v := s.fnum (precFmt p) a
    let (n, fl) := if z then encodeUint v w rnd else encodeInt v w rnd true
    s.resultF d (if z then w64 n else BitVec.ofInt 64 (sInt w n)) fl

/-- ITOF (R99). -/
def execItof (d a : Reg) (p : Prec) (long z : Bool) (rnd : Rnd) (s : State) : Out :=
  s.guardF [d] fun s =>
    let w := if long then 64 else 32
    let n : Nat := (s.g a).toNat % 2 ^ w
    let i : Int := if z then Int.ofNat n else sInt w n
    let (c, fl) := encodeFloat (.ofInt i) (precFmt p) rnd false
    s.resultFp d c fl

def execFmvgf (d a : Reg) (s : State) : Out := s.guardF [a] fun s => s.result d (s.f a)
def execFmvfg (d a : Reg) (s : State) : Out := s.guardF [d] fun s => .next (s.setF d (s.g a)).retire

/-- A compare: 0 with a NaN; FEQ signals on signalling NaNs only (R98). -/
def State.compare (s : State) (d a b : Reg) (p : Prec) (quiet : Bool) (f : Int → Bool) : Out :=
  let x := s.fnum (precFmt p) a
  let y := s.fnum (precFmt p) b
  if x.isNan || y.isNan then
    s.resultF d 0 (Flags.when (x.isSig || y.isSig || !quiet) Flags.nv)
  else s.result d (bool64 (f (cmpNum x y)))

def execFeq (d a b : Reg) (p : Prec) (s : State) : Out :=
  s.guardF [a, b] fun s => s.compare d a b p true fun c => decide (c = 0)
def execFlt (d a b : Reg) (p : Prec) (s : State) : Out :=
  s.guardF [a, b] fun s => s.compare d a b p false fun c => decide (c < 0)
def execFle (d a b : Reg) (p : Prec) (s : State) : Out :=
  s.guardF [a, b] fun s => s.compare d a b p false fun c => decide (c ≤ 0)

/-- The class of a value by its bit number (R100). -/
def classBit (f : FFmt) (v : Num) : Nat :=
  match v with
  | .nan sig => if sig then 8 else 9
  | .inf neg => if neg then 0 else 7
  | .fin neg m e _ =>
    if m = 0 then (if neg then 3 else 4)
    else
      let sub := decide (e + (Nat.log2 m : Int) < f.emin)
      match neg, sub with
      | true, false => 1
      | true, true => 2
      | false, true => 5
      | false, false => 6

def execFclass (d a : Reg) (p : Prec) (s : State) : Out :=
  s.guardF [a] fun s => s.result d (w64 (2 ^ classBit (precFmt p) (s.fnum (precFmt p) a)))

end Sys2Proof.Machine
end

