-- ==== Sys2Proof/Machine/Unit.lean ====
section
/-! DEFINITION. Coprocessor dispatch: plies, the ply ring, acceptance and its waits, late faults of commands,
bank tiles as the engines see them, and the words MFC reads (R57, R65–R67, R135, R153–R157, R175, R406). -/

namespace Sys2Proof.Machine

/-! ## Unit numbers (R57) -/

def Un.sync : Nat := 0
def Un.tile : Nat := 2
def Un.vec : Nat := 3
def Un.vcf : Nat := 4
def Un.mat : Nat := 5
def Un.mcf : Nat := 6
def Un.cpy : Nat := 7
def Un.qrn : Nat := 8
def Un.obs : Nat := 9
def Un.col : Nat := 10
def Un.grf : Nat := 11
def Un.vir : Nat := 12
def Un.pwr : Nat := 13
def Un.vex : Nat := 15

/-- The majors that share one hardware unit, and so one order of acceptance. -/
def acceptKey (unit : Nat) : Nat :=
  if unit = Un.vcf ∨ unit = Un.vex then Un.vec else if unit = Un.mcf then Un.mat else unit

/-! ## Unfinished commands (R67, R130) -/

/-- A bus command of a thread is unfinished at a handle: an operation, an OBJOIN not decided, or an OBLEAVE not done
(R363, R379). -/
def Handle.busy (b : Handle) (u : UnitId) (tid : Nat) (f : Word32 → Bool) : Bool :=
  b.ops.any (fun o => o.unit == u && o.tid == tid && f o.ply) ||
  (b.unit == u && ((b.asking && b.jtid == tid && f b.jply) || (b.st == 3 && b.ltid == tid && f b.lply)))

/-- A command of a thread, among those that `f` picks by ply, is unfinished in a unit of the core. -/
def Core.cmdBusy (c : Core) (u : UnitId) (tid : Nat) (f : Word32 → Bool) : Bool :=
  c.vec.queue.any (fun q => q.tid == tid && f q.ply) || c.vec.vmax.any (fun q => q.tid == tid && f q.ply) ||
  c.mat.queue.any (fun q => q.tid == tid && f q.ply) ||
  c.cpy.any (fun q => q.unit == u && q.tid == tid && f q.ply) ||
  c.qrn.queue.any (fun q => q.tid == tid && f q.ply) ||
  c.tiles.any (fun t => (t.2.publ || t.2.freeing) && t.2.tid == tid && f t.2.ply) ||
  c.bus.any (fun b => b.2.busy u tid f)

/-- A command of a thread of a unit has been accepted and not yet performed (R343, R400). -/
def State.cmdPend (s : State) (u : UnitId) (tid : Nat) (f : PendCmd → Bool) : Bool :=
  s.cmds.any (fun k => k.u == u && k.tid == tid && f k)

/-- A COLWT of the thread has not been performed (R400). -/
def State.colwtPend (s : State) (u : UnitId) (tid : Nat) : Bool :=
  s.cmdPend u tid (fun k => match k.op with
    | .colwt .. => true
    | _ => false)

/-- The same, with the commands that wait to be performed, and the drains that its VIR commands started (R316). -/
def State.busy (s : State) (h tid : Nat) (f : Word32 → Bool) : Bool :=
  (s.core h).cmdBusy (s.unitId h) tid f || s.cmdPend (s.unitId h) tid (fun k => f k.ply) ||
  (s.thread h tid).virPend.any (fun p => f p.2 && s.drains.any (fun d => d.id == p.1))

/-- The command dispatched 64 plies before is unfinished (R67). -/
def State.ringBusy (s : State) : Bool :=
  let t := s.cur
  match t.ring with
  | e :: _ => decide (64 ≤ t.ring.length) && s.busy s.curCore s.curTid (fun p => p == e.ply)
  | [] => false

/-! ## Dispatch -/

/-- A thread dispatches: the ply number and the ring entry (R66, R67). -/
def Thread.takePly (t : Thread) (word : Word32) : Thread :=
  let ring := if 64 ≤ t.ring.length then t.ring.drop 1 else t.ring
  { t with plyCtr := t.plyCtr + 1, ring := ring ++ [{ ply := t.plyCtr, addr := t.r.pc, word := word }] }

/-- The executing thread waits at dispatch (R65). -/
def State.waitDispatch (s : State) (unit : Nat) : Out :=
  .next (s.block (.dispatch { unit := unit, addr := s.cur.r.pc, word := s.curWord }))

/-- A C-format instruction: it waits at dispatch until the unit can accept it; then the thread's accesses that
R175 names are performed, the command takes its ply number, and `act` is what the unit does with it. `act`
completes the instruction or leaves the thread waiting. -/
def State.dispatchTo (s : State) (unit : Nat) (room : State → Bool) (act : Word32 → State → State) : Out :=
  let h := s.curCore
  let tid := s.curTid
  if s.ringBusy || !room s then s.waitDispatch unit
  else
    let s := s.drain h tid (fun a => a.home == .core h || a.acquire)
    match s.takeRefused h tid with
    | some s => .next s
    | none =>
      let ply := s.cur.plyCtr
      let s := s.modCur (·.takePly s.curWord)
      let s := s.modCore h fun c => { c with lastAccept := tput c.lastAccept (acceptKey unit) tid }
      .next (act ply s)

/-- The same for a command that completes on acceptance (R61). -/
def State.dispatch (s : State) (unit : Nat) (room : State → Bool) (act : Word32 → State → State) : Out :=
  s.dispatchTo unit room (fun p s => (act p s).retire)

/-- Always room. -/
def roomy (_ : State) : Bool := true

/-- A unit may accept it: not in a provisional unit (R178). -/
def State.confirmed (s : State) : Bool := !s.provisional s.curCore

/-- The unit's answer to a command that it checks. -/
inductive Gate where
  | ok
  | wait
  | fault (code : Nat)
  deriving DecidableEq, Repr

/-- The first answer that is not `ok`. -/
def Gate.then (a b : Gate) : Gate :=
  match a with
  | .ok => b
  | _ => a

/-- What checks on the states of several tiles come to: a fault of any comes before a wait for another. -/
def Gate.all (gs : List Gate) : Gate :=
  match gs.find? (fun g => g != .ok && g != .wait) with
  | some g => g
  | none => if gs.contains .wait then .wait else .ok

/-- The condition makes the command take a late fault. -/
def Gate.bad (c : Bool) (code : Nat) : Gate := if c then .fault code else .ok

/-- A late fault of a command of thread `tid`: the fault names the command by its ply number (R406). -/
def State.lateOf (s : State) (h tid : Nat) (ply : Word32) (addr : Word) (unit code : Nat) : State :=
  lateFault s h tid { code := code, ply := ply, addr := addr, unit := unit }

/-- A late fault found at acceptance; the command has no effect. -/
def State.lateHere (s : State) (ply : Word32) (unit code : Nat) : State :=
  s.lateOf s.curCore s.curTid ply s.cur.r.pc unit code

/-- A command that its unit checks on acceptance (R156, R228, R243). -/
def State.dispatchChecked (s : State) (unit : Nat) (room : State → Bool) (check : State → Gate)
    (act : Word32 → State → State) : Out :=
  s.dispatch unit (fun s => room s && check s != .wait) fun ply s =>
    match check s with
    | .fault code => s.lateHere ply unit code
    | _ => act ply s

/-- How a command that may read a descriptor or an image ends: performed, or it waits for a page (R343, R400). -/
inductive CmdEnd where
  | done (s : State)
  | page (s : State) (p : PageWait)

/-- Two commands are performed one after the other: those of one context at the graph engine, those of one die at its
collective engine (R343, R400). The job that a CTXENTER launches waits for no other command. -/
def PendCmd.sameOrder (a b : PendCmd) : Bool :=
  a.unit == b.unit && ((a.unit == Un.grf && a.u.ctx == b.u.ctx) || (a.unit == Un.col && dieOf a.h == dieOf b.h))

/-- An earlier command of its order has not been performed. -/
def State.cmdAhead (s : State) (k : PendCmd) : Bool := (s.cmds.takeWhile (fun j => j.id != k.id)).any (fun j => j.sameOrder k)

/-- An accepted command is performed at once, or stays pending: behind another, or for a page. -/
def State.enqueue (s : State) (unit : Nat) (ply : Word32) (op : CmdOp) (perform : PendCmd → State → CmdEnd) : State :=
  let k : PendCmd :=
    { id := s.nextId, unit := unit, h := s.curCore, u := s.unitId s.curCore, tid := s.curTid, ply := ply
      addr := s.cur.r.pc, op := op, cls := s.resClass s.curCore, page := .none }
  let keep (s : State) (p : PageWait) : State :=
    { s with cmds := s.cmds ++ [{ k with id := s.nextId, page := p }], nextId := s.nextId + 1 }
  if s.cmdAhead k then keep s .none
  else
    match perform k s with
    | .done s => s
    | .page s p => keep s p

/-- A command that its unit performs in an order of its own; the instruction completes at acceptance (R61). -/
def State.dispatchCmd (s : State) (unit : Nat) (room : State → Bool) (op : State → CmdOp)
    (perform : PendCmd → State → CmdEnd) : Out :=
  s.dispatch unit room fun ply s => s.enqueue unit ply (op s) perform

/-- A unit wait: the thread is not ready until its earlier commands have completed (R207, R227, R247, R266). -/
def State.unitWait (s : State) (unit mask : Nat) (done : State → Bool) : Out :=
  if done s then s.dispatch unit roomy (fun _ s => s) else .next (s.block (.unitDone unit mask))

/-! ## Wake conditions that have held (R108, R109) -/

/-- Changes every thread of a unit, wherever it is held. -/
def State.mapUnitThreads (s : State) (h : Nat) (u : UnitId) (f : Nat → Thread → Thread) : State :=
  s.modCore h fun c =>
    { c with
      threads := if c.unit.map (·.id) = some u then tmap c.threads f else c.threads
      regBanks := tmap c.regBanks (fun _ b => match b with
        | .parked v tid o t => if v = u then .parked v tid o (f tid t) else b
        | .live _ => b)
      evicted := c.evicted.map (fun e => if e.res.id = u then { e with threads := tmap e.threads f } else e) }

/-- A thread whose wait `p` names is to go on past its instruction. -/
def Thread.latch (p : Wait → Bool) (t : Thread) : Thread := if p t.wait then { t with wait := .woken } else t

/-! ## Bank tiles as engines see them (R135, R153–R157) -/

/-- Where byte `off` of bank number `n` of a unit of core `h` is held: in place, or in its save area. -/
def State.unitByte (s : State) (h : Nat) (u : UnitId) (a : Nat) : Loc :=
  let n := a / 0x4000
  match (s.evictedOf h u).bind (fun e => tget e.banks n) with
  | some _ => .saved h u n (a % 0x4000)
  | none => .mem (s.physAddr h a)

/-- Bytes of a unit's banks by bank-number address. -/
def State.unitRead (s : State) (h : Nat) (u : UnitId) (a n : Nat) : List Byte :=
  (List.range n).flatMap (fun i => s.readLoc (s.unitByte h u (a + i)) 1)

def State.unitWrite (s : State) (h : Nat) (u : UnitId) (a : Nat) (bs : List Byte) : State :=
  (List.range bs.length).foldl (fun s i => s.writeLoc u.ctx (s.unitByte h u (a + i)) [bs.getD i 0]) s

/-- FORMAT and SAT of a bank of a unit. -/
def State.unitFmt (s : State) (h : Nat) (u : UnitId) (n : Nat) : Nat × Bool :=
  match (s.evictedOf h u).bind (fun e => tget e.banks n) with
  | some b => (b.format, b.sat)
  | none => (((s.core h).bank n).format, ((s.core h).bank n).sat)

/-- The tile table of a unit, resident or evicted. -/
def State.unitTiles (s : State) (h : Nat) (u : UnitId) : Table Tile :=
  match s.evictedOf h u with
  | some e => e.tiles
  | none => if (s.core h).unit.map (·.id) = some u then (s.core h).tiles else []

def State.unitTile (s : State) (h : Nat) (u : UnitId) (e : Nat) : Option Tile := tget (s.unitTiles h u) e

/-- The wake condition of TBWAIT (R161). -/
def tbwaitDone (t : Option Tile) (tid : Nat) (st : TileSt) : Bool :=
  match t with
  | none => true
  | some t => !((t.publ || t.freeing) && t.tid == tid) && t.st == st

/-- A TBWAIT that waits on an entry in its state is over: status OK, or NODEF for an undefined entry (R161). -/
def State.tileLatch (s : State) (h : Nat) (u : UnitId) (e : Nat) : State :=
  let t := s.unitTile h u e
  s.mapUnitThreads h u fun tid th =>
    match th.wait with
    | .tbwait k st =>
      if k = e && tbwaitDone t tid st then
        { th with wait := .woken, u := { th.u with tstatus := if t.isSome then 0 else 3 } }
      else th
    | _ => th

def State.modTile (s : State) (h : Nat) (u : UnitId) (e : Nat) (f : Tile → Tile) : State :=
  let s : State := match s.evictedOf h u with
    | some _ => s.modEvicted h u fun x => { x with tiles := tmod x.tiles e f }
    | none => s.modCore h fun (c : Core) =>
        if c.unit.map Resident.id = some u then { c with tiles := tmod c.tiles e f } else c
  s.tileLatch h u e

/-- The state of a named side that must be READY (R156). -/
def tileGate (t : Option Tile) : Gate :=
  match t with
  | none => .fault Late.tnrdy
  | some t => match t.st with
    | .ready => .ok
    | .draining => .wait
    | _ => .fault Late.tnrdy

/-- A shadow write of `bs` at byte `off` of a tile; none: it is discarded (R157). -/
def State.shadowWrite (s : State) (h : Nat) (u : UnitId) (e off : Nat) (bs : List Byte) : Option State :=
  match s.unitTile h u e with
  | none => none
  | some t =>
    if t.nosh || t.freeing || decide (t.nb * 0x4000 < off + bs.length) then none
    else
      let s := s.unitWrite h u (t.sbank * 0x4000 + off) bs
      some (s.modTile h u e fun t => { t with shw := true, st := if t.st = .empty then .filling else t.st })

/-- Bytes per unit of a format that begins on a bank boundary: the tail of a bank below this multiple holds no
element (R34). -/
def bankData (code : Nat) : Nat := if isRec code then 0x4000 / recBytes code * recBytes code else 0x4000

/-- `n` bytes at byte `off` of a tile lie within NB banks, outside tail bytes (R34). -/
def State.inTile (s : State) (h : Nat) (u : UnitId) (t : Tile) (off n : Nat) : Bool :=
  decide (off + n ≤ t.nb * 0x4000) &&
  (n == 0 || (List.range ((off + n - 1) / 0x4000 - off / 0x4000 + 1)).all (fun i =>
    let b := off / 0x4000 + i
    let data := bankData (s.unitFmt h u (t.vbank + b)).1
    let lo := if i = 0 then off % 0x4000 else 0
    let hi := min 0x4000 (off + n - b * 0x4000)
    decide (hi ≤ data) && decide (lo < data)))

/-- Pieces of a range that lie in one bank each, by bank index within the tile. -/
def banksOf (off n : Nat) : List Nat :=
  if n = 0 then [] else (List.range ((off + n - 1) / 0x4000 - off / 0x4000 + 1)).map (· + off / 0x4000)

/-- Bytes of `n` elements of a format, whole records for a format of records. -/
def spanBytes (code n : Nat) : Nat :=
  if isRec code then (n + recElems code - 1) / recElems code * recBytes code else n * elemSize code

/-- Elements `k0` to `k0 + n - 1` of a side, which lie one after another from byte `o` in one bank of format `code`. -/
structure ElemRun where
  k0 : Nat
  o : Nat
  code : Nat
  n : Nat
  deriving DecidableEq, Repr

/-- Elements of a format that begin in a bank from byte `o` on. -/
def elemsFrom (code o : Nat) : Nat :=
  let left := 0x4000 - o % 0x4000
  if isRec code then left / recBytes code * recElems code else (left + elemSize code - 1) / elemSize code

/-- The stretches of `k` elements from byte `o` on, each element in the format of the bank that holds it; a stretch without
a format of its own is the tail of a bank. -/
def elemRunsGo (fmt : Nat → Nat) : Nat → Nat → Nat → Nat → List ElemRun
  | 0, _, _, _ => []
  | fuel + 1, k0, o, k =>
    if k = 0 then []
    else
      let m := elemsFrom (fmt o) o
      if m = 0 then [{ k0 := k0, o := o, code := fmt o, n := k }]
      else
        let n := min k m
        { k0 := k0, o := o, code := fmt o, n := n } ::
          elemRunsGo fmt fuel (k0 + n) (o + spanBytes (fmt o) n) (k - n)

def elemRuns (fmt : Nat → Nat) (o k : Nat) : List ElemRun := elemRunsGo fmt 128 0 o k

/-- Bytes of a stretch. -/
def ElemRun.span (x : ElemRun) : Nat := spanBytes x.code x.n

/-- Bytes of all stretches. -/
def runsSpan (rs : List ElemRun) : Nat := rs.foldl (fun a x => a + x.span) 0

/-- The byte and the format of element `k`: of its record, in a format of records. -/
def elemAt (rs : List ElemRun) (k : Nat) : Nat × Nat :=
  match rs.find? (fun x => decide (x.k0 ≤ k) && decide (k < x.k0 + x.n)) with
  | some x => (x.o + (if isRec x.code then (k - x.k0) / recElems x.code * recBytes x.code
      else (k - x.k0) * elemSize x.code), x.code)
  | none => (0, 0)

/-- A range of `n` bytes at byte `o` of a tile covers whole records of every bank of records that it touches; `fmt`
gives the format at a byte (R31, R34). -/
def wholeRecords (fmt : Nat → Nat) (o n : Nat) : Bool :=
  (banksOf o n).all (fun b =>
    let code := fmt (b * 0x4000)
    let lo := if b = o / 0x4000 then o % 0x4000 else 0
    let hi := min 0x4000 (o + n - b * 0x4000)
    !isRec code || (lo % recBytes code == 0 && hi % recBytes code == 0))

/-! ## The words of a thread's units -/

/-- Changes the unit words of the executing thread. -/
def State.words (s : State) (f : UnitWords → UnitWords) : State := s.modCur (·.modU f)

/-- Changes the unit words of thread `tid` of a unit, wherever the thread is held. -/
def State.wordsOf (s : State) (h : Nat) (u : UnitId) (tid : Nat) (f : UnitWords → UnitWords) : State :=
  s.modUnitThread h u tid (·.modU f)

/-- Flags that an operation raises for its thread at completion (R86). -/
def State.flagsOf (s : State) (h : Nat) (u : UnitId) (tid : Nat) (f : Flags) : State :=
  s.modUnitThread h u tid (·.modR (·.raise f))

/-- A late fault of a thread of a unit that may be evicted; it lets the unit return (R406). -/
def State.lateUnit (s : State) (h : Nat) (u : UnitId) (tid : Nat) (f : LateFault) : State :=
  s.modUnitThread h u tid fun t =>
    if t.late.length < 4 then { t with late := t.late ++ [f] } else { t with lateLost := t.lateLost + 1 }

end Sys2Proof.Machine
end

