-- ==== Sys2Proof/Machine/Tile.lean ====
section
/-! DEFINITION. The tile table: TBDEF, TBST, TBFREE, TBWAIT, PUBL, and the end of a drain (R152–R162). -/

namespace Sys2Proof.Machine

def Ts.ok : Nat := 0
def Ts.nores : Nat := 1
def Ts.badarg : Nat := 2
def Ts.nodef : Nat := 3
def Ts.noshadow : Nat := 4

/-- TSTATUS: the status, and for TBST the snapshot (R162). DESIGN CHOICE: SBANK of an entry defined with NOSH = 1 shows the
operand's bits (log 80). -/
def tstatus (status : Nat) (t : Option Tile) : Word :=
  match t with
  | none => w64 status
  | some t =>
    w64 (status + t.st.code * 2 ^ 6 + 2 ^ 8 + b2n t.shw * 2 ^ 9 + b2n t.freeing * 2 ^ 10 + t.vbank * 2 ^ 16 +
      t.sbank * 2 ^ 24 + (t.nb - 1) * 2 ^ 32 + b2n t.nosh * 2 ^ 36)

def State.setTstatus (s : State) (status : Nat) (t : Option Tile := none) : State :=
  s.words fun u => { u with tstatus := tstatus status t }

/-- Banks that a tile names. -/
def Tile.names (t : Tile) : List Nat :=
  (List.range t.nb).map (· + t.vbank) ++ (if t.nosh then [] else (List.range t.nb).map (· + t.sbank))

/-- Tile operands of a copy command: the entries that it uses with SH = 0 until it has moved its last byte
(R155, R236, R244). -/
def CopyCmd.entries (q : CopyCmd) : List Nat :=
  let e (w : Word) : List Nat := if w.getLsbD 63 then [] else [w.toNat % 64]
  match q.op with
  | .chl => e q.b
  | .clh => e q.a
  | .cbb => e q.a ++ e q.b
  | .cmc => e q.a
  | .cgath => e q.b ++ (q.index.map (·.entry)).toList
  | .cscat => e q.a ++ (q.index.map (·.entry)).toList

/-- A matrix command still reads or writes its bank operand (R155, R219): an MMA reads it at its start. -/
def MatCmd.entries (q : MatCmd) : List Nat :=
  let bankForm := match q.op with
    | .mld => true
    | .mst => true
    | .mclr => false
    | .mcfg => false
    | _ => q.b.getLsbD 63
  let inUse := match q.op with
    | .mld => !q.last
    | .mst => !q.last
    | .mrd => !q.last
    | _ => q.prog == 0
  if bankForm && inUse then [q.b.toNat % 64] else []

/-- The source and exponent tiles of a bus operation, until it has read them (R377). -/
def BusOp.entries (o : BusOp) : List Nat :=
  if o.started then []
  else bits o.forms.toNat 18 6 ::
    (if !o.max ∧ bits o.geom.toNat 21 2 = 1 then [bits o.forms.toNat 48 6] else [])

/-- A tile of a unit has users (R155). -/
def State.tileUsed (s : State) (h : Nat) (u : UnitId) (e : Nat) : Bool :=
  let c := s.core h
  c.cpy.any (fun q => q.unit == u && q.entries.contains e) ||
  (c.unit.map (·.id) == some u && c.mat.queue.any (fun q => q.entries.contains e)) ||
  c.bus.any (fun b => b.2.ops.any (fun o => o.unit == u && o.entries.contains e)) ||
  ((s.evictedOf h u).map (fun x => x.bus.any (fun b => b.2.ops.any (fun o => o.entries.contains e)))).getD false

/-- PUBL_SWAP: the physical banks behind the visible and the shadow bank numbers change places (R153, R158). The
banks of an evicted unit may stand in its save area, so their contents change places there. -/
def State.swapTile (s : State) (h : Nat) (u : UnitId) (t : Tile) : State :=
  match s.evictedOf h u with
  | some _ =>
    let n := t.nb * bankBytes
    let v := s.unitRead h u (t.vbank * bankBytes) n
    let x := s.unitRead h u (t.sbank * bankBytes) n
    (s.unitWrite h u (t.vbank * bankBytes) x).unitWrite h u (t.sbank * bankBytes) v
  | none =>
    s.modCore h fun c =>
      { c with
        rename := (List.range t.nb).foldl (fun r i =>
          tput (tput r (t.vbank + i) (c.phys (t.sbank + i))) (t.sbank + i) (c.phys (t.vbank + i))) c.rename }

/-- What a drain does when no users remain (R161). -/
def State.endDrain (s : State) (h : Nat) (u : UnitId) (e : Nat) (t : Tile) : State :=
  if t.freeing then
    let s := match s.evictedOf h u with
      | some _ => s.modEvicted h u fun x => { x with tiles := tdel x.tiles e }
      | none => s.modCore h fun c => { c with tiles := tdel c.tiles e }
    s.tileLatch h u e
  else
    (s.swapTile h u t).modTile h u e fun t => { t with st := .ready, shw := false, publ := false }

/-- Ends the drain of an entry if nothing uses it. -/
def State.tryEndDrain (s : State) (h : Nat) (u : UnitId) (e : Nat) : State :=
  match s.unitTile h u e with
  | some t => if t.st = .draining ∧ !s.tileUsed h u e then s.endDrain h u e t else s
  | none => s

def execTbdef (a b : Reg) (look : Fin 16) (entry : Fin 64) (s : State) : Out :=
  let _ := look
  s.dispatch Un.tile roomy fun _ s =>
    let h := s.curCore
    let c := s.core h
    let e := entry.val
    let x := (s.g a).toNat
    let y := (s.g b).toNat
    let claimed := (c.unit.map (fun r => r.tileMask.getLsbD e)).getD false
    if !claimed || (tget c.tiles e).isSome then s.setTstatus Ts.nores
    else if bits x 20 44 != 0 || bit x 15 || bit x 7 || bits y 2 62 != 0 then s.setTstatus Ts.badarg
    else
      let t : Tile :=
        { nb := bits x 16 4 + 1, vbank := bits x 0 7, sbank := bits x 8 7, nosh := bit y 1
          st := if bit y 0 then .ready else .empty, freeing := false, shw := false, publ := false, tid := 0, ply := 0 }
      let ns := t.names
      if 96 < t.vbank + t.nb || (!t.nosh && 96 < t.sbank + t.nb) || !ns.all (fun n => c.claimed n) ||
          !decide ns.Nodup || ns.any (fun n => c.tiles.any (fun k => k.2.names.contains n)) then
        s.setTstatus Ts.badarg
      else
        let s := s.modCore h fun c => { c with tiles := tput c.tiles e t }
        (s.tileLatch h (s.unitId h) e).setTstatus Ts.ok

def execTbst (look : Fin 16) (entry : Fin 64) (s : State) : Out :=
  let _ := look
  s.dispatch Un.tile roomy fun _ s =>
    match tget (s.core s.curCore).tiles entry.val with
    | some t => s.setTstatus Ts.ok (some t)
    | none => s.setTstatus Ts.nodef

/-- A tile that waits for its users to swap takes no further PUBL or TBFREE: these wait at dispatch (R65). -/
def State.publRoom (s : State) (e : Nat) : Bool :=
  match tget (s.core s.curCore).tiles e with
  | some t => !(t.st == .draining && !t.freeing)
  | none => true

def execTbfree (look : Fin 16) (entry : Fin 64) (s : State) : Out :=
  let _ := look
  s.dispatch Un.tile (fun s => s.publRoom entry.val) fun ply s =>
    let h := s.curCore
    match tget (s.core h).tiles entry.val with
    | none => s.setTstatus Ts.nodef
    | some t =>
      if t.freeing then s.setTstatus Ts.nodef
      else
        let tid := s.curTid
        let s := s.modTile h (s.unitId h) entry.val fun t =>
          { t with freeing := true, st := .draining, tid := tid, ply := ply }
        (s.tryEndDrain h (s.unitId h) entry.val).setTstatus Ts.ok

/-- PUBL acts as a release of system scope (R177). -/
def execPubl (look : Fin 16) (entry : Fin 64) (s : State) : Out :=
  let _ := look
  s.dispatch Un.tile (fun s => s.confirmed && s.publRoom entry.val) fun ply s =>
    let h := s.curCore
    let s := s.drain h s.curTid (fun _ => true)
    match tget (s.core h).tiles entry.val with
    | none => s.setTstatus Ts.nodef
    | some t =>
      if t.freeing then s.setTstatus Ts.nodef
      else if t.nosh then s.setTstatus Ts.noshadow
      else
        let u := s.unitId h
        let tid := s.curTid
        let s := s.setTstatus Ts.ok
        if t.st = .ready then
          (s.modTile h u entry.val fun t => { t with st := .draining, publ := true, tid := tid, ply := ply }).tryEndDrain
            h u entry.val
        else s.endDrain h u entry.val t

def execTbwait (look : Fin 16) (st : TileSt) (entry : Fin 64) (s : State) : Out :=
  let _ := look
  s.dispatchTo Un.tile roomy fun _ s =>
    let t := tget (s.core s.curCore).tiles entry.val
    if tbwaitDone t s.curTid st then (s.setTstatus (if t.isSome then Ts.ok else Ts.nodef)).retire
    else s.blockAt (.tbwait entry.val st)

/-- TILE_DRAIN_END: the last user of a DRAINING tile has finished (R155, R161). -/
def execTileDrainEnd (h e : Nat) (s : State) : Out :=
  let s := s.tryEndDrain h (s.unitId h) e
  .next ((s.core h).evicted.foldl (fun s x => s.tryEndDrain h x.res.id e) s)

end Sys2Proof.Machine
end

