-- ==== Sys2Proof/Machine/Stream.lean ====
section
/-! DEFINITION. Streams: positions, elements, the checks that name them (R187–R191, R208), and the quantisation of
blocks (R203, R204). -/

namespace Sys2Proof.Machine

/-! ## Positions (R188, R190) -/

/-- Counts and strides of the dimensions in use, innermost first. -/
def Stream.dims (st : Stream) : List (Nat × Int) := (st.cnt.zip st.str).take (st.ndim + 1)

/-- The length: the product of the counts. -/
def Stream.len (st : Stream) : Nat := st.dims.foldl (fun n d => n * d.1) 1

def Stream.offset : List (Nat × Int) → Nat → Int
  | [], _ => 0
  | (c, k) :: t, i => ((i % c : Nat) : Int) * k + Stream.offset t (i / c)

/-- Position number `i` of the stream. -/
def Stream.position (st : Stream) (i : Nat) : Int := st.e0 + Stream.offset st.dims i

/-- The next `n` positions. -/
def Stream.next (st : Stream) (n : Nat) : List Int := (List.range n).map (fun i => st.position (st.pos + i))

/-! ## Banks and formats (R188, R191) -/

/-- A stream of a core. -/
def Core.stream (c : Core) (n : Nat) : Stream := (tget c.vec.streams n).getD Stream.reset

def Core.modStream (c : Core) (n : Nat) (f : Stream → Stream) : Core :=
  { c with vec := { c.vec with streams := tput c.vec.streams n (f (c.stream n)) } }

/-- FORMAT and SAT of a bank as a stream sees it: a service core has FP32 with SAT 0. -/
def Core.streamFmt (c : Core) (h n : Nat) : Nat × Bool :=
  if isService h then (1, false) else ((c.bank n).format, (c.bank n).sat)

/-- The banks of a stream's range. -/
def Stream.banks (st : Stream) : List Nat := (List.range st.nb).map (· + st.b0)

/-- Elements per bank. -/
def streamElems (h code : Nat) : Nat := if isService h then 4096 else bankElems code

/-- A bank of the range is unclaimed or a shadow bank of a defined tile. -/
def Core.bankBad (c : Core) (h : Nat) (st : Stream) : Bool :=
  !isService h && st.banks.any (fun n => !c.claimed n || shadowIn c.tiles n)

/-- The banks of the range differ in FORMAT. -/
def Core.formatsDiffer (c : Core) (h : Nat) (st : Stream) : Bool :=
  st.banks.any (fun n => (c.streamFmt h n).1 != (c.streamFmt h st.b0).1)

/-- A position lies outside the range (R188). -/
def Stream.outside (st : Stream) (e : Nat) (o : Int) : Bool := decide (o < 0) || decide (((st.nb * e : Nat) : Int) ≤ o)

/-- Where an element lies: its bank, and its offset and its record's element within the local window. -/
def Stream.place (st : Stream) (e code : Nat) (o : Int) : Nat × Nat × Nat :=
  let n := st.b0 + o.toNat / e
  let k := o.toNat % e
  if isRec code then (n, n * 0x4000 + k / recElems code * recBytes code, k % recElems code)
  else (n, n * 0x4000 + k * elemSize code, 0)

/-- The bits of the plain element at a position, or its record. -/
def State.streamBits (s : State) (h : Nat) (st : Stream) (o : Int) : Nat :=
  let code := ((s.core h).streamFmt h st.b0).1
  let (_, off, _) := st.place (streamElems h code) code o
  numOf (s.localBytes h off (elemSize code))

/-- The exact value of the element at a position (R191). -/
def State.streamElem (s : State) (h : Nat) (st : Stream) (o : Int) : Num :=
  let code := ((s.core h).streamFmt h st.b0).1
  let (_, off, j) := st.place (streamElems h code) code o
  match fmtOf code with
  | some f => decodeFmt f (numOf (s.localBytes h off (elemSize code)))
  | none => recElem code (s.localBytes h off (recBytes code)) j

/-- Writes bytes of the core's own local memory as one event, each bank's part in the bank behind its number (R153, R164). -/
def State.streamStore (s : State) (h off : Nat) (bs : List Byte) : State :=
  (banksOf off bs.length).foldl (fun s b =>
    let lo := max off (b * 0x4000)
    let hi := min (off + bs.length) ((b + 1) * 0x4000)
    s.storeLoc (s.ctxAt h) (.mem (s.physAddr h lo)) ((bs.drop (lo - off)).take (hi - lo))) s

/-- Writes the code of a plain element at a position. -/
def State.streamWrite (s : State) (h : Nat) (st : Stream) (o : Int) (v : Nat) : State :=
  let code := ((s.core h).streamFmt h st.b0).1
  let (_, off, _) := st.place (streamElems h code) code o
  s.streamStore h off (bytesOf (elemSize code) v)

/-- Advances a stream (R190). -/
def State.advanceStream (s : State) (h n k : Nat) : State :=
  s.modCore h (·.modStream n (fun st => { st with pos := st.pos + k }))

/-! ## Quantisation (R203, R204) -/

/-- The magnitude of a value. -/
def Num.abs : Num → Num
  | .nan s => .nan s
  | .inf _ => .inf false
  | .fin _ m e st => .fin false m e st

def Num.isFin : Num → Bool
  | .fin .. => true
  | _ => false

/-- a < b, for values that are no NaN. -/
def numLt (a b : Num) : Bool := decide (cmpNum a b < 0)

def mulExact (a b : Num) : Num := (mulNum a b).1

/-- |a − b| of finite values. -/
def distNum (a b : Num) : Num := (addNum a b.negate .rne).1.abs

/-- The largest magnitude among the values that are no NaN; 0 if there are none. -/
def maxAbs (xs : List Num) : Num :=
  xs.foldl (fun a x => if x.isNan then a else if numLt a x.abs then x.abs else a) .zero

/-- The code of the smallest positive level (R30). -/
def zeroCode (code : Nat) : Nat := (levels code).length / 2

/-- nearest_level(x / t) for t > 0 (R203). The spec names no level for a quotient of 0, which lies between the two
smallest, and none for an infinite one (log 51). -/
def nearestLevel (code steps j : Nat) (x t : Num) : Nat :=
  let n := (levels code).length
  if x.isInf then Config.infLevel steps j % n
  else if x.isZero then (if Config.tieLevel steps j then zeroCode code else zeroCode code - 1)
  else
    let dist (c : Nat) : Num := distNum (mulExact (levelNum code c) t) x
    (List.range n).foldl (fun b c =>
      if numLt (dist c) (dist b) ||
         (cmpNum (dist c) (dist b) == 0 && numLt (levelNum code c).abs (levelNum code b).abs) then c else b) 0

/-- The codes of a block as a little-endian bit string (R31). -/
def packCodes (code : Nat) (cs : List Nat) : List Byte :=
  bytesOf (8 * codeBits code) (cs.zipIdx.foldl (fun n (c, i) => n + c * 2 ^ (codeBits code * i)) 0)

/-- One block of vqnt_superblock: its bytes and flags (R203). -/
def vqntBlock (code steps j0 : Nat) (sc : Num) (xs : List Num) : List Byte × Flags :=
  let a := maxAbs xs
  let ovf := numLt (mulExact (.exact false 31 (-4)) sc) a
  let s8 := if a.isZero then 0 else if ovf then 0xFF
    else ((List.range 256).find? (fun k => !numLt (mulExact (ue4m4 k) sc) a)).getD 0xFF
  let t := mulExact (ue4m4 s8) sc
  let one (x : Num) (j : Nat) : Nat × Flags :=
    if x.isNan then (zeroCode code, Flags.nv ||| Flags.nx)
    else
      let c := if s8 = 0 then zeroCode code else nearestLevel code steps j x t
      let v := mulExact (levelNum code c) t
      (c, Flags.when (x.isInf || cmpNum v x != 0) Flags.nx)
  let cs := xs.zipIdx.map (fun (x, i) => one x (j0 + i))
  (BitVec.ofNat 8 s8 :: packCodes code (cs.map (·.1)), cs.foldl (fun f c => f ||| c.2) (Flags.when ovf Flags.sat))

/-- vqnt_superblock: the record of 256 elements and the flags (R203). -/
def vqntSuper (code steps : Nat) (scale : Word32) (xs : List Num) : List Byte × Flags :=
  let sc := decodeFloat .fp32 scale.toNat
  if sc.isFin && numLt .zero sc then
    let bs := (chunks 64 4 xs).zipIdx.map (fun (b, i) => vqntBlock code steps (64 * i) sc b)
    (bytesOf 4 scale.toNat ++ bs.flatMap (·.1), bs.foldl (fun f b => f ||| b.2) 0)
  else
    let blk := (0 : Byte) :: packCodes code (List.replicate 64 (zeroCode code))
    (bytesOf 4 0x7FC00000 ++ blk ++ blk ++ blk ++ blk, Flags.nv)

/-- vqnt_block: the record of 32 elements and the flags (R204). -/
def vqntBsi (rnd : Rnd) (xs : List Num) : List Byte × Flags :=
  if !xs.all Num.isFin then ((0xFF : Byte) :: List.replicate 32 0, Flags.nv)
  else
    match maxAbs xs with
    | .fin _ m e _ =>
      if m = 0 then ((0 : Byte) :: List.replicate 32 0, 0)
      else
        let e8 := max 0 (min 254 (e + (Nat.log2 m : Int) + 121))
        let rs := xs.map (fun x => encodeInt (mulExact x (.exact false 1 (127 - e8))) 8 rnd true)
        (BitVec.ofNat 8 e8.toNat :: rs.map (fun r => BitVec.ofNat 8 r.1), rs.foldl (fun f r => f ||| r.2) 0)
    | _ => ((0 : Byte) :: List.replicate 32 0, 0)

end Sys2Proof.Machine
end

