-- ==== Sys2Proof/Machine/Sysreg.lean ====
section
/-! DEFINITION. System registers: what a read gives and what a write does, for every number that the spec
assigns (R36, R68, R85, R110, R111, R119, R123, R128, R297, R322, R404, R421, R434). -/

namespace Sys2Proof.Machine

/-! ## Reading -/

/-- The capability register of a core (R69). -/
def capWord (h : Nat) : Word := w64 (capLo (isService h))

/-- COREID (R111). -/
def coreId (h : Nat) : Word :=
  let (x, y) := hilbertXY h
  w64 (h + x * 2 ^ 12 + y * 2 ^ 18 + b2n (isService h) * 2 ^ 24)

/-- The assigned helper ids as HMASK shows them (R111). -/
def Resident.hmask (r : Resident) : Nat := r.assigned.foldl (fun m i => m ||| 2 ^ i) 0

/-- CTXINFO (R297). -/
def State.ctxInfo (s : State) (c : Nat) : Word :=
  let x := s.ctx c
  let st := match x.st with
    | .new => 0
    | .live => 1
    | .draining => 2
  w64 (c + (if x.level = 0 then c else x.parent) * 2 ^ 12 + b2n x.vf.isSome * 2 ^ 24 + st * 2 ^ 25 +
       x.level * 2 ^ 27 + x.part * 2 ^ 32)

/-- The ways that a partition may use on the die that WAYSEL names (R297). -/
def State.pways (s : State) (p die : Nat) : Nat := (s.part p).pways.getD die 0

/-- The mask that WAYSEL selects: the default of the partition, or a VF's; none for a VF of another (R297). -/
def State.wayMask (s : State) (p : Nat) (k : CoreRegs) : Option Nat :=
  if k.wayDef then some ((s.part p).defMask.getD k.wayDie 0)
  else if (s.vfOf k.wayVf).part = some p then some ((s.vfOf k.wayVf).masks.getD k.wayDie 0)
  else none

/-- ULAUNCH (R322). -/
def State.ulaunch (s : State) (h : Nat) (r : Resident) : Word :=
  w64 (r.id.lnum + r.node * 2 ^ 16 + b2n r.prov * 2 ^ 32 + b2n r.tail * 2 ^ 33 + s.resClass h * 2 ^ 34)

/-- BFMT (R36). -/
def Bank.bfmt (b : Bank) : Word := w64 (b.format + b2n b.sat * 16 + b2n b.badw * 32)

/-- PHASE (R434). -/
def Ctx.phaseWord (x : Ctx) : Word := w64 (x.pnum + x.rollbk * 2 ^ 48 + b2n x.unprot * 2 ^ 63)

/-- The unit of a core, for the registers that describe it. -/
def Resident.nobody : Resident :=
  { id := UnitId.nobody, prov := false, tail := false, raised := 0, node := 0, ucoord := 0, lcore := 0, bankMask := 0
    tileMask := 0, streams := 0, helpers := 0, assigned := [], exit0 := none, stop := none }

def State.res (s : State) (h : Nat) : Resident := ((s.core h).unit).getD Resident.nobody

/-- Thread registers by number (R85, R111, R119, R123, R404). -/
def Thread.sysRead (t : Thread) (tid n : Nat) : Option Word :=
  match n with
  | 0x001 => some (t.r.fflags.setWidth 64)
  | 0x002 => some (w64 tid)
  | 0x010 => some t.t.tvec
  | 0x011 => some t.t.tepc
  | 0x012 => some t.t.tcause
  | 0x013 => some (w64 (t.t.ply.toNat + t.t.lost.toNat * 2 ^ 32))
  | 0x014 => some (w64 (b2n t.t.inh + b2n t.t.halten * 2))
  | 0x020 => some t.r.loop0.cnt
  | 0x021 => some t.r.loop0.sta
  | 0x022 => some t.r.loop0.lend
  | 0x024 => some t.r.loop1.cnt
  | 0x025 => some t.r.loop1.sta
  | 0x026 => some t.r.loop1.lend
  | _ => none

/-- Core registers by number, apart from BFMT (R110). -/
def State.coreSysRead (s : State) (h n : Nat) : Option Word :=
  let r := s.res h
  let c := s.ctxAt h
  let x := s.ctx c
  let p := s.part x.part
  let k := (s.core h).regs
  match n with
  | 0x003 => some (w64 r.hmask)
  | 0x004 => some (w64 (s.ucnt h))
  | 0x005 => some (coreId h)
  | 0x006 => some (w64 c)
  | 0x007 => some s.cycle
  | 0x008 => some (capWord h)
  | 0x009 => some 0
  | 0x018 => some (w64 (k.wdogCount % 2 ^ 48 + k.wdogLimit * 2 ^ 48))
  | 0x080 => some (s.ctxInfo c)
  | 0x081 => some x.ttb1
  | 0x082 => some (w64 x.ttb2)
  | 0x083 => some (w64 (x.psaOff * 2 ^ 14 + x.svch * 2 ^ 32 + b2n x.psaValid * 2 ^ 63))
  | 0x084 => some (w64 p.hbase)
  | 0x085 => some (w64 p.hlen)
  | 0x086 => some (w64 (x.coreBase + x.coreLen * 2 ^ 12))
  | 0x087 => some (w64 (b2n k.notRoot + b2n k.badMask * 2))
  | 0x0A0 => some (w64 (k.wayVf + b2n k.wayDef * 2 ^ 12 + k.wayDie * 2 ^ 16))
  | 0x0A1 => some (w64 ((s.wayMask x.part k).getD 0 + s.pways x.part k.wayDie * 2 ^ 16))
  | 0x0C0 => some (s.ulaunch h r)
  | 0x0C1 => some (w64 r.id.index)
  | 0x0C2 => some r.ucoord
  | 0x0C3 => some (x.jobmap.getD 0)
  | 0x0C4 => some (BitVec.ofInt 64 (((s.launch? r.id.lnum).map (·.lebal)).getD 0))
  | 0x0C5 => some (BitVec.ofInt 64 x.energy)
  | 0x0C6 => some (w64 r.lcore)
  | 0x0E0 => some (w64 (b2n p.det + b2n p.cken * 2))
  | 0x0E1 => some x.phaseWord
  | 0x0E2 => some (w64 ((s.core h).errcnt * 2 ^ 32))
  | 0x0E3 => some (w64 (s.die k.wayDie).fenced.toNat)
  | _ => none

/-- The bank of a BFMT number of a compute core (R36, R110). -/
def bfmtBank (h n : Nat) : Option Nat :=
  if !isService h ∧ 0x400 ≤ n ∧ n < 0x460 then some (n - 0x400) else none

/-- A system register as thread `tid` of core `h` reads it; none: the number is unassigned (R110, R113). -/
def State.sysRead (s : State) (h tid n : Nat) : Option Word :=
  match bfmtBank h n with
  | some b => some ((s.core h).bank b).bfmt
  | none =>
    match (s.thread h tid).sysRead tid n with
    | some v => some v
    | none => s.coreSysRead h n

/-- The number names an assigned register of this core kind (R110, R113). -/
def sysAssigned (h n : Nat) : Bool :=
  (bfmtBank h n).isSome ||
  [0x001, 0x002, 0x003, 0x004, 0x005, 0x006, 0x007, 0x008, 0x009, 0x010, 0x011, 0x012, 0x013, 0x014, 0x018, 0x020,
   0x021, 0x022, 0x024, 0x025, 0x026].contains n ||
  [0x080, 0x081, 0x082, 0x083, 0x084, 0x085, 0x086, 0x087, 0x0A0, 0x0A1, 0x0C0, 0x0C1, 0x0C2, 0x0C3, 0x0C4, 0x0C5,
   0x0C6, 0x0E0, 0x0E1, 0x0E2, 0x0E3].contains n

/-! ## Writing -/

/-- A loop count; a nonzero one activates its level (R119, R122). -/
def Thread.setLcnt (t : Thread) (one : Bool) (v : Word) : Thread :=
  t.modR fun r => r.setLoop one { r.loop one with cnt := v }

def Thread.setLsta (t : Thread) (one : Bool) (v : Word) : Thread :=
  t.modR fun r => r.setLoop one { r.loop one with sta := v &&& ~~~3#64 }

def Thread.setLend (t : Thread) (one : Bool) (v : Word) : Thread :=
  t.modR fun r => r.setLoop one { r.loop one with lend := v &&& ~~~3#64 }

/-- A write of a thread register; RO numbers leave it (R85, R113, R119, R123, R404). -/
def Thread.sysWrite (t : Thread) (n : Nat) (v : Word) : Thread :=
  match n with
  | 0x001 => t.modR fun r => { r with fflags := v.setWidth 6 }
  | 0x010 => { t with t := { t.t with tvec := v &&& ~~~2#64 } }
  | 0x011 => { t with t := { t.t with tepc := v &&& ~~~3#64 } }
  | 0x012 => { t with t := { t.t with tcause := v } }
  | 0x014 => { t with t := { t.t with inh := v.getLsbD 0 } }
  | 0x020 => t.setLcnt false v
  | 0x021 => t.setLsta false v
  | 0x022 => t.setLend false v
  | 0x024 => t.setLcnt true v
  | 0x025 => t.setLsta true v
  | 0x026 => t.setLend true v
  | _ => t

/-- WDOG: LIMIT may only fall, and never to 0 (R421). -/
def State.writeWdog (s : State) (h : Nat) (v : Word) : State :=
  let l := bits v.toNat 48 16
  s.modCore h fun c =>
    if l = 0 ∨ c.regs.wdogLimit < l then c else { c with regs := { c.regs with wdogLimit := l } }

/-- WAYMASK: a PR register, written by the partition root or, where `mp`, by the management processor (R4, R297). -/
def State.writeWaymask (s : State) (h : Nat) (v : Word) (mp : Bool) : State :=
  let c := s.ctxAt h
  let p := (s.ctx c).part
  let k := (s.core h).regs
  let m := bits v.toNat 0 16
  let flag (f : CoreRegs → CoreRegs) : State := s.modCore h fun c => { c with regs := f c.regs }
  if (!mp && s.rootOf c != c) ∨ (s.wayMask p k).isNone then flag fun r => { r with notRoot := true }
  else if m = 0 ∨ m &&& s.pways p k.wayDie ≠ m then flag fun r => { r with badMask := true }
  else if k.wayDef then s.modPart p fun q => { q with defMask := q.defMask.set k.wayDie m }
  else s.modVf k.wayVf fun x => { x with masks := x.masks.set k.wayDie m }

/-- BFMT: FORMAT 13–15 changes nothing and sets BADW; BADW is W1C (R36). -/
def Bank.writeBfmt (b : Bank) (v : Word) : Bank :=
  let f := bits v.toNat 0 4
  if 13 ≤ f then { b with badw := true }
  else { b with format := f, sat := v.getLsbD 4, badw := b.badw && !v.getLsbD 5 }

def State.writeBfmt (s : State) (h n : Nat) (v : Word) : State := s.modCore h (·.modBank n (·.writeBfmt v))

/-- A write of a core register, apart from BFMT; RO numbers leave it (R110, R113, R297). -/
def State.coreSysWrite (s : State) (h n : Nat) (v : Word) : State :=
  match n with
  | 0x018 => s.writeWdog h v
  | 0x081 => s.modCtx (s.ctxAt h) fun x => { x with ttb1 := v &&& 0x0000FFFFFFFF0000#64 }
  | 0x087 => s.modCore h fun c =>
      { c with
        regs := { c.regs with
          notRoot := c.regs.notRoot && !v.getLsbD 0
          badMask := c.regs.badMask && !v.getLsbD 1 } }
  | 0x0A0 => s.modCore h fun c =>
      { c with
        regs := { c.regs with
          wayVf := bits v.toNat 0 9
          wayDef := v.getLsbD 12
          wayDie := bits v.toNat 16 4 } }
  | 0x0A1 => s.writeWaymask h v false
  | _ => s

/-- A write of a system register by thread `tid` of core `h`. -/
def State.sysWrite (s : State) (h tid n : Nat) (v : Word) : State :=
  match bfmtBank h n with
  | some b => s.writeBfmt h b v
  | none => (s.modThread h tid (·.sysWrite n v)).coreSysWrite h n v

/-- A formatted command of the core that has not completed, for which an SRW to BFMT waits (R38). -/
def Core.formattedBusy (c : Core) : Bool :=
  !c.vec.queue.isEmpty || !c.mat.queue.isEmpty || !c.qrn.queue.isEmpty || !c.cpy.isEmpty ||
  c.bus.any (fun b => !b.2.ops.isEmpty) || c.evicted.any (fun e => e.bus.any (fun b => !b.2.ops.isEmpty))

end Sys2Proof.Machine
end

