-- ==== Sys2Proof/Machine/Transcend.lean ====
section
/-! DEFINITION. The special functions of VEX before their one rounding: 2^x, log2 x, 1/x and 1/√x, held to at
least 120 significant bits and a sticky bit (R198). -/

namespace Sys2Proof.Machine

/-! ## 2^x -/

/-- Fraction bits of the working values. -/
def exp2Bits : Nat := 320

/-- The square root of a value with `exp2Bits` fraction bits. -/
def rootFix (r : Nat) : Nat := isqrt (exp2Bits + 2) (r * 2 ^ exp2Bits)

/-- The product of 2^(2^-i) over the set bits of the fraction `f` of `n` bits, highest first; `r` is the root of
the step before. -/
def exp2Frac : Nat → Nat → Nat → Nat → Nat
  | 0, _, _, acc => acc
  | n + 1, f, r, acc =>
    let r := rootFix r
    exp2Frac n f r (if bit f n then acc * r / 2 ^ exp2Bits else acc)

/-- 2^x of a finite x (R198). -/
def exp2Fin (neg : Bool) (m : Nat) (e : Int) : Num :=
  let k := (-e).toNat
  if m % 2 ^ k = 0 then
    let n := min (m * 2 ^ e.toNat / 2 ^ k) 5000
    .exact false 1 (if neg then -(n : Int) else n)
  else if e + sizeOf2 m ≤ -100 then .fin false (if neg then 2 ^ 90 - 1 else 2 ^ 90) (-90) true
  else
    let x : Int := if neg then -(m : Int) else m
    let n := x / (2 ^ k : Nat)
    let f := (x % (2 ^ k : Nat)).toNat
    if n < -2000 then .fin false 1 (-2000) true
    else .fin false (exp2Frac k f (2 ^ (exp2Bits + 1)) (2 ^ exp2Bits) / 2 ^ (exp2Bits - 160)) (n - 160) true

/-- The 2^n-th root of `v`, rounded down: `n` square roots, each rounded down. -/
def rootDown : Nat → Nat → Nat
  | 0, v => v
  | n + 1, v => rootDown n (Nat.sqrt v)

/-- 2^x of a finite x of at least 128 exactly, as an integer format encodes it (R43): its integer part and half bit, from
the root of a power of 2. Where x is an integer, 2^128 stands for it: every w bits of it, and its range, are the same. -/
def exp2Wide (m : Nat) (e : Int) : Num :=
  let k := (-e).toNat
  if m % 2 ^ k = 0 then .exact false 1 128 else .fin false (rootDown k (2 ^ (m + 2 ^ k))) (-1) true

/-- VEXP2 before its rounding; at 128 and above it overflows. -/
def exp2Num (x : Num) : NumF :=
  match x with
  | .nan s => nanOf s
  | .inf neg => (if neg then .zero else .inf false, 0)
  | .fin neg m e _ => (exp2Fin neg m e, 0)

/-- x is finite and at least 128 (R198). -/
def exp2Over (x : Num) : Bool :=
  match x with
  | .fin .. => decide (0 ≤ cmpNum x (.exact false 128 0))
  | _ => false

/-! ## log2 x -/

/-- `n` fraction bits of log2 of z / 2^512 in [1, 2), by repeated squaring. -/
def log2Frac : Nat → Nat → Nat → Nat
  | 0, _, acc => acc
  | n + 1, z, acc =>
    let y := z * z / 2 ^ 512
    if 2 ^ 513 ≤ y then log2Frac n (y / 2) (2 * acc + 1) else log2Frac n y (2 * acc)

/-- log2 of the positive value m × 2^e. -/
def log2Fin (m : Nat) (e : Int) : Num :=
  let l := Nat.log2 m
  let k := e + (l : Int)
  if m = 2 ^ l then .ofInt k
  else
    let t := k * (2 ^ 160 : Nat) + (log2Frac 160 (m * 2 ^ 512 / 2 ^ l) 0 : Int)
    if 0 ≤ t then .fin false t.toNat (-160) true else .fin true (t.natAbs - 1) (-160) true

/-- VLOG2 before its rounding. -/
def log2Num (x : Num) : NumF :=
  match x with
  | .nan s => nanOf s
  | .inf neg => if neg then invalid else (.inf false, 0)
  | .fin neg m e _ => if m = 0 then (.inf true, Flags.dz) else if neg then invalid else (log2Fin m e, 0)

/-! ## 1/x and 1/√x -/

/-- VRCP before its rounding. -/
def rcpNum (x : Num) : NumF := divNum (.exact false 1 0) x

/-- 1/√ of the positive value m × 2^e. -/
def rsqFin (m : Nat) (e : Int) : Num :=
  let odd := e % 2
  let m := m * 2 ^ odd.toNat
  let k := 200 + sizeOf2 m
  let r := isqrt (k + 1) (2 ^ (2 * k) / m)
  .fin false r (-(k : Int) - (e - odd) / 2) (r * r * m != 2 ^ (2 * k))

/-- VRSQ before its rounding. -/
def rsqNum (x : Num) : NumF :=
  match x with
  | .nan s => nanOf s
  | .inf neg => if neg then invalid else (.zero, 0)
  | .fin neg m e _ => if m = 0 then (.inf neg, Flags.dz) else if neg then invalid else (rsqFin m e, 0)

/-- The value that an integer destination encodes for a 2^x of x ≥ 128 (R43, R198). -/
def exp2Int (x : Num) : Num :=
  match x with
  | .fin _ m e _ => exp2Wide m e
  | x => x

/-- Encodes a special function's result; a 2^x of x ≥ 128 goes to +∞ in a floating-point format, and is encoded exactly in
an integer format (R43, R198). `src` is x. -/
def encodeSpecial (f : Fmt) (ovf : Bool) (src : Num) (x : NumF) (rnd : Rnd) (sat : Bool) : Nat × Flags :=
  match f with
  | .flt g =>
    if ovf then
      if sat then (g.maxCode, Flags.of ||| Flags.nx ||| Flags.sat) else (g.infCode, Flags.of ||| Flags.nx)
    else
      let (c, fl) := encodeFloat x.1 g rnd sat
      (c, fl ||| x.2)
  | .int w =>
    let (c, fl) := encodeInt (if ovf then exp2Int src else x.1) w rnd sat
    (c, fl ||| x.2)

end Sys2Proof.Machine
end

