-- ==== Sys2Proof/Machine/Vector.lean ====
section
/-! DEFINITION. The stream vector unit: VEC, VEX and VCF at dispatch, the performance of a command, and the
rank-wide maximum (R185–R211, R456). -/

namespace Sys2Proof.Machine

/-! ## What a command names -/

def VecOp.unit : VecOp → Nat
  | .vcvt | .vadd | .vsub | .vmul | .vfma | .vmax | .vmin | .vceq | .vclt | .vcle | .vsel | .vscale => Un.vec
  | .vexp2 | .vlog2 | .vrcp | .vrsq | .vsumx | .vdotx | .vrdq | .vclrq | .vmaxr | .vmaxx | .vqnt => Un.vex
  | .vsbase | .vsdim | .vson | .vsoff | .vsetvl => Un.vcf

/-- DST is a write stream (R194, R197). -/
def VecOp.hasDst : VecOp → Bool
  | .vcvt | .vadd | .vsub | .vmul | .vfma | .vmax | .vmin | .vceq | .vclt | .vcle | .vsel | .vscale => true
  | .vexp2 | .vlog2 | .vrcp | .vrsq | .vqnt => true
  | _ => false

/-- SRC is a read stream. -/
def VecOp.hasSrc : VecOp → Bool
  | .vsumx | .vdotx | .vmaxr => true
  | o => o.hasDst

/-- Field b is a stream or a broadcast scalar. -/
def VecOp.hasB : VecOp → Bool
  | .vadd | .vsub | .vmul | .vfma | .vmax | .vmin | .vceq | .vclt | .vcle | .vsel | .vdotx => true
  | _ => false

def VecOp.hasC : VecOp → Bool
  | .vfma | .vsel => true
  | _ => false

/-- The stream that field b names. -/
def VecCmd.bStream (q : VecCmd) : Option Nat := if q.op.hasB ∧ 28 ≤ q.bf then some (q.bf - 28) else none

/-- The stream that the addend selector names (R195). -/
def VecCmd.cStream (q : VecCmd) : Option Nat := if q.op.hasC ∧ q.a.getLsbD 2 then some (q.a.toNat % 4) else none

def VecCmd.sources (q : VecCmd) : List Nat :=
  (if q.op.hasSrc then [q.src] else []) ++ q.bStream.toList ++ q.cStream.toList

def VecCmd.dests (q : VecCmd) : List Nat := if q.op.hasDst then [q.dst] else []

/-- The streams that a command names for R265; a VCF command names the stream that it configures. -/
def VecCmd.names (q : VecCmd) : List Nat :=
  match q.op with
  | .vsbase | .vsdim | .vson | .vsoff => [q.dst]
  | _ => q.sources ++ q.dests

/-! ## Dispatch (R65, R185, R202, R265) -/

/-- A thread of the core waits to write a bank's format: no formatted command is accepted before it (R38). -/
def Core.formatPending (c : Core) : Bool :=
  c.threads.any (fun t => match t.2.wait with
    | .bfmt .. => true
    | _ => false)

/-- Commands of a thread in the quasi-random unit that name one of the streams (R265). -/
def Core.qrnNames (c : Core) (tid : Nat) (ns : List Nat) : Bool :=
  c.qrn.queue.any (fun q => q.tid == tid && q.op == .qseq && ns.contains q.stream)

/-- VMAXX commands of a core that have not completed (R185). -/
def Core.vmaxCount (c : Core) : Nat := (c.vec.queue.filter (fun q => q.op == .vmaxx)).length + c.vec.vmax.length

/-- The unit can accept the command. -/
def State.vecRoom (s : State) (q : VecCmd) : Bool :=
  let c := s.core s.curCore
  decide (c.vec.queue.length < 8) && !c.formatPending && !c.qrnNames s.curTid q.names &&
  (q.op != .vmaxx || (s.confirmed && decide (c.vmaxCount < 4)))

/-- The command enters the queue; VMAXX commands are numbered, and VSON and VSOFF bind in program order (R189,
R192, R201). -/
def State.vecAccept (s : State) (q : VecCmd) (ply : Word32) : State :=
  let n := (s.core s.curCore).vec.vmaxSeq
  let q : VecCmd := { q with ply := ply, addr := s.cur.r.pc, seq := if q.op = .vmaxx then n else 0, since := s.now }
  let s := s.modCore s.curCore fun c =>
    { c with
      vec := { c.vec with
        queue := c.vec.queue ++ [q]
        vmaxSeq := if q.op = .vmaxx then n + 1 else n } }
  match q.op with
  | .vson => s.modCur fun t => { t with bound := t.bound ||| BitVec.ofNat 4 (2 ^ q.dst) }
  | .vsoff => s.modCur fun t => { t with bound := t.bound &&& ~~~(BitVec.ofNat 4 (2 ^ q.dst)) }
  | _ => s

/-- The operands of a command are read at dispatch (R193). -/
def State.vecCmd (s : State) (op : VecOp) (a b : Reg) (dst src dim : Nat) (rnd : Rnd) : VecCmd :=
  { op := op, tid := s.curTid, ply := 0, addr := 0, a := s.g a, b := s.g b, bf := b.val,
    scalar := (s.f b).setWidth 32, dst := dst, src := src, dim := dim, rnd := rnd, seq := 0, since := 0 }

def State.vecDispatch (s : State) (q : VecCmd) : Out :=
  s.dispatch q.op.unit (fun s => s.vecRoom q) (fun ply s => s.vecAccept q ply)

def execVcvt (look : Fin 16) (dst src : Fin 4) (rnd : Rnd) (s : State) : Out :=
  let _ := look
  s.vecDispatch (s.vecCmd .vcvt 0 0 dst src 0 rnd)
def execVadd (b : Reg) (look : Fin 16) (dst src : Fin 4) (rnd : Rnd) (s : State) : Out :=
  let _ := look
  s.vecDispatch (s.vecCmd .vadd 0 b dst src 0 rnd)
def execVsub (b : Reg) (look : Fin 16) (dst src : Fin 4) (rnd : Rnd) (s : State) : Out :=
  let _ := look
  s.vecDispatch (s.vecCmd .vsub 0 b dst src 0 rnd)
def execVmul (b : Reg) (look : Fin 16) (dst src : Fin 4) (rnd : Rnd) (s : State) : Out :=
  let _ := look
  s.vecDispatch (s.vecCmd .vmul 0 b dst src 0 rnd)
def execVfma (a b : Reg) (look : Fin 16) (dst src : Fin 4) (rnd : Rnd) (s : State) : Out :=
  let _ := look
  s.vecDispatch (s.vecCmd .vfma a b dst src 0 rnd)
def execVmax (b : Reg) (look : Fin 16) (dst src : Fin 4) (rnd : Rnd) (s : State) : Out :=
  let _ := look
  s.vecDispatch (s.vecCmd .vmax 0 b dst src 0 rnd)
def execVmin (b : Reg) (look : Fin 16) (dst src : Fin 4) (rnd : Rnd) (s : State) : Out :=
  let _ := look
  s.vecDispatch (s.vecCmd .vmin 0 b dst src 0 rnd)
def execVceq (b : Reg) (look : Fin 16) (dst src : Fin 4) (rnd : Rnd) (s : State) : Out :=
  let _ := look
  s.vecDispatch (s.vecCmd .vceq 0 b dst src 0 rnd)
def execVclt (b : Reg) (look : Fin 16) (dst src : Fin 4) (rnd : Rnd) (s : State) : Out :=
  let _ := look
  s.vecDispatch (s.vecCmd .vclt 0 b dst src 0 rnd)
def execVcle (b : Reg) (look : Fin 16) (dst src : Fin 4) (rnd : Rnd) (s : State) : Out :=
  let _ := look
  s.vecDispatch (s.vecCmd .vcle 0 b dst src 0 rnd)
def execVsel (a b : Reg) (look : Fin 16) (dst src : Fin 4) (rnd : Rnd) (s : State) : Out :=
  let _ := look
  s.vecDispatch (s.vecCmd .vsel a b dst src 0 rnd)
def execVscale (a : Reg) (look : Fin 16) (dst src : Fin 4) (rnd : Rnd) (s : State) : Out :=
  let _ := look
  s.vecDispatch (s.vecCmd .vscale a 0 dst src 0 rnd)

def execVexp2 (look : Fin 16) (dst src : Fin 4) (rnd : Rnd) (s : State) : Out :=
  let _ := look
  s.vecDispatch (s.vecCmd .vexp2 0 0 dst src 0 rnd)
def execVlog2 (look : Fin 16) (dst src : Fin 4) (rnd : Rnd) (s : State) : Out :=
  let _ := look
  s.vecDispatch (s.vecCmd .vlog2 0 0 dst src 0 rnd)
def execVrcp (look : Fin 16) (dst src : Fin 4) (rnd : Rnd) (s : State) : Out :=
  let _ := look
  s.vecDispatch (s.vecCmd .vrcp 0 0 dst src 0 rnd)
def execVrsq (look : Fin 16) (dst src : Fin 4) (rnd : Rnd) (s : State) : Out :=
  let _ := look
  s.vecDispatch (s.vecCmd .vrsq 0 0 dst src 0 rnd)
def execVsumx (look : Fin 16) (dst src : Fin 4) (rnd : Rnd) (s : State) : Out :=
  let _ := look
  s.vecDispatch (s.vecCmd .vsumx 0 0 dst src 0 rnd)
def execVdotx (b : Reg) (look : Fin 16) (dst src : Fin 4) (rnd : Rnd) (s : State) : Out :=
  let _ := look
  s.vecDispatch (s.vecCmd .vdotx 0 b dst src 0 rnd)
def execVrdq (a : Reg) (look : Fin 16) (dst : Fin 4) (rnd : Rnd) (s : State) : Out :=
  let _ := look
  s.vecDispatch (s.vecCmd .vrdq a 0 dst 0 0 rnd)
def execVclrq (look : Fin 16) (dst : Fin 4) (rnd : Rnd) (s : State) : Out :=
  let _ := look
  s.vecDispatch (s.vecCmd .vclrq 0 0 dst 0 0 rnd)
def execVmaxr (a : Reg) (look : Fin 16) (src : Fin 4) (rnd : Rnd) (s : State) : Out :=
  let _ := look
  s.vecDispatch (s.vecCmd .vmaxr a 0 0 src 0 rnd)
def execVmaxx (a b : Reg) (look : Fin 16) (rnd : Rnd) (s : State) : Out :=
  let _ := look
  s.vecDispatch (s.vecCmd .vmaxx a b 0 0 0 rnd)
def execVqnt (b : Reg) (look : Fin 16) (dst src : Fin 4) (rnd : Rnd) (s : State) : Out :=
  let _ := look
  s.vecDispatch (s.vecCmd .vqnt 0 b dst src 0 rnd)

def execVsbase (a b : Reg) (look : Fin 16) (stream : Fin 4) (s : State) : Out :=
  let _ := look
  s.vecDispatch (s.vecCmd .vsbase a b stream 0 0 .rne)
def execVsdim (a b : Reg) (look : Fin 16) (stream dim : Fin 4) (s : State) : Out :=
  let _ := look
  s.vecDispatch (s.vecCmd .vsdim a b stream 0 dim .rne)
def execVson (look : Fin 16) (stream : Fin 4) (s : State) : Out :=
  let _ := look
  s.vecDispatch (s.vecCmd .vson 0 0 stream 0 0 .rne)
def execVsoff (look : Fin 16) (stream : Fin 4) (s : State) : Out :=
  let _ := look
  s.vecDispatch (s.vecCmd .vsoff 0 0 stream 0 0 .rne)
def execVsetvl (a : Reg) (look : Fin 16) (s : State) : Out :=
  let _ := look
  s.vecDispatch (s.vecCmd .vsetvl a 0 0 0 0 .rne)

/-- Commands of a thread in the vector unit that have not completed. -/
def Core.vecBusy (c : Core) (tid : Nat) : Bool :=
  c.vec.queue.any (fun q => q.tid == tid) || c.vec.vmax.any (fun q => q.tid == tid)

/-- VWAIT (R207). -/
def execVwait (look : Fin 16) (s : State) : Out :=
  let _ := look
  s.unitWait Un.vcf 0 (fun s => !(s.core s.curCore).vecBusy s.curTid)

/-! ## The checks of R208 -/

/-- The late cause with which a command is not performed. -/
def State.vecFault (s : State) (h : Nat) (q : VecCmd) : Option Nat :=
  let c := s.core h
  let n := (c.thread q.tid).u.vlen
  let named := q.sources ++ q.dests
  let st (k : Nat) : Stream := c.stream k
  let code (k : Nat) : Nat := (c.streamFmt h (st k).b0).1
  let copies := q.op == .vcvt && code q.src == 0 && code q.dst == 0
  let rec' := recElems (code q.dst)
  let whole : Bool :=
    n % rec' == 0 && (chunks rec' (n / rec') ((st q.dst).next n)).all (fun ps =>
      decide (ps.headD 0 % (rec' : Int) = 0) && ps.zipIdx.all (fun (o, i) => decide (o = ps.headD 0 + (i : Int))))
  if named.any (fun k => !(st k).en || (st k).owner != q.tid) then some Late.sflt
  else if q.sources.any (fun k => (st k).write) || q.dests.any (fun k => !(st k).write) then some Late.sflt
  else if named.any (fun k => decide ((st k).len < (st k).pos + n)) then some Late.sflt
  else if named.any (fun k => c.bankBad h (st k)) then some Late.bflt
  else if named.any (fun k => c.formatsDiffer h (st k)) || (!copies && named.any (fun k => code k == 0)) ||
      q.dests.any (fun k => isRec (code k) != (q.op == .vqnt)) then some Late.fflt
  else if named.any (fun k => ((st k).next n).any ((st k).outside (streamElems h (code k)))) then some Late.frng
  else if q.op == .vqnt && !whole then some Late.fflt
  else none

/-! ## Elements (R193–R198) -/

/-- A compare under the NaN rules of FEQ, FLT and FLE (R98, R196). -/
def vecCompare (op : VecOp) (x y : Num) : NumF :=
  if x.isNan || y.isNan then
    (.zero, Flags.when (op != .vceq || x.isSig || y.isSig) Flags.nv)
  else
    let k := cmpNum x y
    let r := match op with
      | .vceq => decide (k = 0)
      | .vclt => decide (k < 0)
      | _ => decide (k ≤ 0)
    (if r then .exact false 1 0 else .zero, 0)

/-- x × 2^n; beyond ±5000 no format's result changes any more. -/
def scaleNum (x : Num) (n : Int) : Num :=
  match x with
  | .fin neg m e st => .fin neg m (e + max (-5000) (min 5000 n)) st
  | x => x

/-- The exact result of an element-wise operation, with the flags of forming it. -/
def vecElem (op : VecOp) (a : Word) (rnd : Rnd) (x y c : Num) : NumF :=
  match op with
  | .vadd => addNum x y rnd
  | .vsub => addNum x y.negate rnd
  | .vmul => mulNum x y
  | .vfma => fmaNum x y c rnd
  | .vmax => minmaxNum true x y
  | .vmin => minmaxNum false x y
  | .vceq | .vclt | .vcle => vecCompare op x y
  | .vsel => (if x.isZero || x.isNan then c else y, 0)
  | .vscale => (scaleNum x a.toInt, 0)
  | .vexp2 => exp2Num x
  | .vlog2 => log2Num x
  | .vrcp => rcpNum x
  | .vrsq => rsqNum x
  | _ => (x, 0)

/-- The code and flags of a result element in its destination. -/
def vecEncode (op : VecOp) (f : Fmt) (sat : Bool) (rnd : Rnd) (x : Num) (r : NumF) : Nat × Flags :=
  encodeSpecial f (op == .vexp2 && exp2Over x) x r rnd sat

/-- The elements of a role: of a stream, or a scalar for all. -/
def State.roleElems (s : State) (h n : Nat) (st : Option Nat) (scalar : Nat) : List Num :=
  match st with
  | some k =>
    let t := (s.core h).stream k
    (t.next n).map (s.streamElem h t)
  | none => List.replicate n (decodeFloat .fp32 scalar)

/-- Element `i` of a role. -/
def nth (l : List Num) (i : Nat) : Num := l.getD i .zero

/-- Every stream that a command names advances once (R190). -/
def State.advanceNamed (s : State) (h : Nat) (q : VecCmd) (n : Nat) : State :=
  (q.sources ++ q.dests).eraseDups.foldl (fun s k => s.advanceStream h k n) s

/-- An element-wise command: every read comes before any write (R456). -/
def State.vecMap (s : State) (h : Nat) (q : VecCmd) (n : Nat) : State × Flags :=
  let c := s.core h
  let sx := c.stream q.src
  let sd := c.stream q.dst
  let code := (c.streamFmt h sd.b0).1
  let dst := sd.next n
  let e := streamElems h code
  match fmtOf code with
  | none =>
    let ws := (sx.next n).map (s.streamBits h sx)
    ((dst.zip ws).foldl (fun s (o, w) => s.streamWrite h sd o w) s, 0)
  | some f =>
    let xs := s.roleElems h n (some q.src) 0
    let ys := s.roleElems h n q.bStream q.scalar.toNat
    let cs := s.roleElems h n q.cStream (q.a.toNat / 2 ^ 32)
    let rs := dst.zipIdx.map (fun (o, i) =>
      let sat := (c.streamFmt h (sd.place e code o).1).2
      (o, vecEncode q.op f sat q.rnd (nth xs i) (vecElem q.op q.a q.rnd (nth xs i) (nth ys i) (nth cs i))))
    (rs.foldl (fun s (o, r) => s.streamWrite h sd o r.1) s, rs.foldl (fun fl r => fl ||| r.2.2) 0)

/-- VQNT: one record for each group of elements (R203, R204). -/
def State.vecQuant (s : State) (h : Nat) (q : VecCmd) (n : Nat) : State × Flags :=
  let c := s.core h
  let sd := c.stream q.dst
  let code := (c.streamFmt h sd.b0).1
  let k := recElems code
  let xs := chunks k (n / k) (s.roleElems h n (some q.src) 0)
  let at_ := (chunks k (n / k) (sd.next n)).map (fun ps => (sd.place (streamElems h code) code (ps.headD 0)).2.1)
  let rs := xs.zipIdx.map (fun (g, i) =>
    if code = 12 then vqntBsi q.rnd g else vqntSuper code (s.steps * 4096 + i) q.scalar g)
  ((at_.zip rs).foldl (fun s (off, r) => s.streamStore h off r.1) s, rs.foldl (fun fl r => fl ||| r.2) 0)

/-! ## Reductions (R199, R200) -/

def State.modQ (s : State) (h n : Nat) (f : QAcc → QAcc) : State :=
  s.modCore h fun c =>
    { c with vec := { c.vec with q := tput c.vec.q n (f ((tget c.vec.q n).getD QAcc.clear)) } }

def State.wordsAt (s : State) (h tid : Nat) (f : UnitWords → UnitWords) : State := s.modThread h tid (·.modU f)

/-- A result of `w` bits in RES: integers sign-extended (R199). -/
def resWord (f : Fmt) (v : Nat) : Word :=
  match f with
  | .flt _ => w64 v
  | .int w => BitVec.ofInt 64 (sInt w v)

/-- The format of a selector: 0 is FP64. -/
def selFmt (n : Nat) : Option Fmt := if n = 0 then some (.flt .fp64) else fmtOf n

/-- VRDQ. -/
def State.vecRead (s : State) (h : Nat) (q : VecCmd) : State × Flags :=
  match selFmt (q.a.toNat % 16) with
  | none => (s.wordsAt h q.tid fun u => { u with vxstat := 2 }, 0)
  | some f =>
    let k := (tget (s.core h).vec.q q.dst).getD QAcc.clear
    let (v, fl) := k.acc.read k.ovf f q.rnd (q.a.getLsbD 4)
    (s.wordsAt h q.tid fun u => { u with res := resWord f v, vxstat := 0 }, fl)

/-- The larger of two values, +0 above −0. -/
def larger (a b : Num) : Num :=
  let k := cmpNum a b
  if k < 0 || (k == 0 && a.neg && !b.neg) then b else a

/-- The FP64 value of the largest, or the default NaN (R200, R201). -/
def maxFp64 (xs : List Num) : Word :=
  if xs.any Num.isNan then w64 (FFmt.nanCode .fp64)
  else w64 (encodeFloat (xs.foldl larger (.inf true)) .fp64 .rne false).1

/-- VMAXR. -/
def State.vecMaxr (s : State) (h : Nat) (q : VecCmd) (n : Nat) : State × Flags :=
  let xs := s.roleElems h n (some q.src) 0
  let ys := if q.a.getLsbD 0 then xs.map Num.abs else xs
  (s.wordsAt h q.tid fun u => { u with res := maxFp64 ys }, Flags.when (xs.any Num.isSig) Flags.nv)

/-! ## The rank-wide maximum (R201, R202) -/

/-- The lowest sequence number of a core that has not completed. -/
def VecUnit.vmaxBase (v : VecUnit) : Nat :=
  ((v.queue.filter (fun q => q.op == .vmaxx)).map (·.seq) ++ v.vmax.map (·.seq)).foldl min v.vmaxSeq

/-- A contribution for one of the next four sequence numbers is held; a lower one is discarded. DESIGN CHOICE: the four
are counted from the lowest number that has not completed, and a contribution beyond them is dropped (log 80). -/
def VecUnit.hold (v : VecUnit) (m : VmaxMsg) : VecUnit :=
  if v.vmaxBase ≤ m.seq ∧ m.seq < v.vmaxBase + 4 then { v with vmaxHeld := v.vmaxHeld ++ [m] } else v

/-- The contributions that an operation combines, when every file of its span has sent one. -/
def VecUnit.gathered (v : VecUnit) (o : VmaxOp) : Option (List VmaxMsg) :=
  (List.range (o.wm1 + 1)).mapM (fun i => v.vmaxHeld.find? (fun m =>
    m.fromX == o.x0 + i && m.seq == o.seq && m.x0 == o.x0 && m.wm1 == o.wm1))

/-- A VMAXX completes: its status, and its result if it combined. -/
def State.vmaxEnd (s : State) (h : Nat) (o : VmaxOp) (status : Nat) (res : Option Word) : State :=
  let s := s.modCore h fun c =>
    let v : VecUnit := { c.vec with vmax := c.vec.vmax.filter (fun p => p.seq != o.seq) }
    { c with vec := { v with vmaxHeld := v.vmaxHeld.filter (fun m => decide (v.vmaxBase ≤ m.seq)) } }
  s.wordsAt h o.tid fun u => { u with vxstat := status, res := res.getD u.res }

/-- Combines every operation of a core whose contributions have all arrived. -/
def State.vmaxTry (s : State) (h : Nat) : State :=
  (s.core h).vec.vmax.foldl (fun s o =>
    match (s.core h).vec.gathered o with
    | some ms => s.vmaxEnd h o 0 (some (maxFp64 (ms.map (fun m => decodeFloat .fp32 m.value.toNat))))
    | none => s) s

/-- A contribution at its core: for a unit of its launch there, resident or evicted; a core without a resident unit holds
it for the unit that starts there; another launch's is discarded (R202). -/
def State.vmaxDeliver (s : State) (m : VmaxMsg) : State :=
  let mine (u : UnitId) : Bool := u.ctx == m.ctx && u.lnum == m.lnum
  let c := s.core m.dst
  if (c.unit.map (fun r => mine r.id)).getD false then
    (s.modCore m.dst fun c => { c with vec := c.vec.hold m }).vmaxTry m.dst
  else
    match c.evicted.find? (fun e => mine e.res.id) with
    | some e => s.modEvicted m.dst e.res.id fun x => { x with vec := x.vec.hold m }
    | none => if c.unit.isNone then s.modCore m.dst fun c => { c with vec := c.vec.hold m } else s

/-- VMAXX: its own contribution and those to the other cores of the span. -/
def State.vecMaxx (s : State) (h : Nat) (q : VecCmd) : State :=
  let (x, y) := hilbertXY h
  let a := q.a.toNat
  let x0 := bits a 0 6
  let wm1 := bits a 8 6
  if x < x0 ∨ x0 + wm1 < x ∨ 63 < x0 + wm1 then s.wordsAt h q.tid fun u => { u with vxstat := 2 }
  else
    let v := if bit a 16 then q.scalar &&& 0x7FFFFFFF#32 else q.scalar
    let u := s.unitId h
    let msg (f : Nat) : VmaxMsg :=
      { dst := hilbertH f y, fromX := x, ctx := u.ctx, lnum := u.lnum, x0 := x0, wm1 := wm1, seq := q.seq, value := v }
    let others := ((List.range (wm1 + 1)).map (· + x0)).filter (· != x)
    let s : State := { s with msgs := s.msgs ++ others.map (fun f => Msg.vmax (msg f)) }
    let o : VmaxOp := { tid := q.tid, ply := q.ply, seq := q.seq, x0 := x0, wm1 := wm1, at_ := q.since }
    (s.modCore h fun c => { c with vec := { c.vec with vmax := c.vec.vmax ++ [o] } }).vmaxDeliver (msg x)

/-! ## VCF (R206) -/

def Vs.ok : Nat := 0
def Vs.nores : Nat := 1
def Vs.badarg : Nat := 2
def Vs.busy : Nat := 7

/-- VSBASE: a new configuration, or BADARG (R187). -/
def streamBase (h : Nat) (st : Stream) (a b : Nat) : Option Stream :=
  let nb := bits a 8 8
  let b0 := bits a 0 7
  if bit a 7 || bits a 40 24 != 0 || bits b 3 61 != 0 || nb == 0 ||
     decide ((if isService h then 128 else 96) < b0 + nb) then none
  else some { st with b0 := b0, nb := nb, e0 := bits a 16 24, write := bit b 0, ndim := bits b 1 2 }

/-- VSDIM. DESIGN CHOICE: the whole of g[a] is the count, so a nonzero bit above the field makes it BADARG (R187 asks
other bits to be 0 of VSBASE only; log 80). -/
def streamDim (st : Stream) (j a : Nat) (b : Int) : Option Stream :=
  if a = 0 ∨ 65536 < a ∨ b < -(2 ^ 23) ∨ 2 ^ 23 ≤ b then none
  else some { st with cnt := st.cnt.set j a, str := st.str.set j b }

/-- A VCF command: its status and the state it leaves. DESIGN CHOICE (log 83): a stream that VSOFF or HEXIT has disabled
keeps OWNER, the id of the thread that had it. -/
def State.vecConfig (s : State) (h : Nat) (q : VecCmd) : State × Nat :=
  let c := s.core h
  let st := c.stream q.dst
  let put (x : Option Stream) : State × Nat :=
    match x with
    | some x => (s.modCore h (·.modStream q.dst (fun _ => x)), Vs.ok)
    | none => (s, Vs.badarg)
  match q.op with
  | .vsbase => if st.en then (s, Vs.busy) else put (streamBase h st q.a.toNat q.b.toNat)
  | .vsdim => if st.en then (s, Vs.busy) else put (streamDim st q.dim q.a.toNat q.b.toInt)
  | .vson =>
    if !((c.unit.map (fun r => r.streams.getLsbD q.dst)).getD false) then (s, Vs.nores)
    else if st.en then (s, Vs.busy)
    else if st.dims.any (fun d => d.1 == 0) then (s, Vs.badarg)
    else put (some { st with en := true, owner := q.tid, pos := 0 })
  | .vsoff => if !st.en || st.owner != q.tid then (s, Vs.busy) else put (some { st with en := false })
  | _ =>
    if q.a.toNat = 0 ∨ 4096 < q.a.toNat then (s, Vs.badarg)
    else (s.wordsAt h q.tid fun u => { u with vlen := q.a.toNat }, Vs.ok)

/-! ## The performance of a command (R192) -/

/-- What a command does once its checks have passed. -/
def State.vecRun (s : State) (h : Nat) (q : VecCmd) : State × Flags :=
  let n := (s.thread h q.tid).u.vlen
  let adv (r : State × Flags) : State × Flags := (r.1.advanceNamed h q n, r.2)
  match q.op with
  | .vsumx =>
    let xs := s.roleElems h n (some q.src) 0
    adv (s.modQ h q.dst (fun k => xs.foldl QAcc.add k), 0)
  | .vdotx =>
    let xs := s.roleElems h n (some q.src) 0
    let ys := s.roleElems h n q.bStream q.scalar.toNat
    adv (s.modQ h q.dst (fun k => (xs.zip ys).foldl (fun k (x, y) => k.add (mulExact x y)) k), 0)
  | .vrdq => s.vecRead h q
  | .vclrq => (s.modQ h q.dst (fun _ => QAcc.clear), 0)
  | .vmaxr => adv (s.vecMaxr h q n)
  | .vmaxx => (s.vecMaxx h q, 0)
  | .vqnt => adv (s.vecQuant h q n)
  | .vsbase | .vsdim | .vson | .vsoff | .vsetvl =>
    let (s, st) := s.vecConfig h q
    (s.wordsAt h q.tid fun u => { u with vcstat := st }, 0)
  | _ => adv (s.vecMap h q n)

/-- The vector unit can perform the command at the head of its queue: its thread is not halted (R425). -/
def State.vecReady (s : State) (h : Nat) : Bool :=
  match (s.core h).vec.queue with
  | q :: _ => !(s.thread h q.tid).halted
  | [] => false

/-- VECTOR_COMMAND_PERFORM (R192, R193, R208). -/
def execVectorCommandPerform (h : Nat) (s : State) : Out :=
  if !s.vecReady h then .next s
  else
    match (s.core h).vec.queue with
    | [] => .next s
    | q :: rest =>
      let pop (s : State) : State := s.modCore h fun c => { c with vec := { c.vec with queue := rest } }
      match s.vecFault h q with
      | some code => .next ((pop s).lateOf h q.tid q.ply q.addr q.op.unit code)
      | none =>
        let (s, fl) := (pop s).vecRun h q
        .next (s.raiseAt h q.tid fl)

/-- VMAXX_CONTRIBUTION: message `n` under way arrives, if it is one (R201). -/
def execVmaxxContribution (n : Nat) (s : State) : Out :=
  match s.msgs[n]? with
  | some (.vmax m) =>
    if (s.part (s.ctx m.ctx).part).out then .next s
    else
      let s : State := { s with msgs := s.msgs.eraseIdx n }
      .next (s.vmaxDeliver m)
  | _ => .next s

/-- VMAXX_TIMEOUT: 2^24 cycles after its acceptance (R202). -/
def execVmaxxTimeout (h seq : Nat) (s : State) : Out :=
  match (s.core h).vec.vmax.find? (fun o => o.seq == seq) with
  | some o => if o.at_ + 2 ^ 24 ≤ s.now then .next (s.vmaxEnd h o 6 none) else .next s
  | none => .next s

end Sys2Proof.Machine
end

