-- ==== Sys2Proof/Machine/Matrix.lean ====
section
/-! DEFINITION. Tile registers and matrix engines: MAT and MCF at dispatch with their checks, engine steps and
completion (R212–R233). -/

namespace Sys2Proof.Machine

/-! ## Configuration (R214, R215) -/

/-- COLS is legal for a CODE (R214). -/
def colsOk (code cols : Nat) : Bool :=
  if isRec code then (if code = 12 then cols % 32 == 0 && decide (cols ≤ 128) else cols == 256)
  else decide (cols ≤ 128 / elemSize code)

/-- Row bytes of a CODE and COLS; a record format takes whole records (R214). -/
def rowBytes (code cols : Nat) : Nat :=
  if isRec code then recBytes code * (cols / recElems code) else elemSize code * cols

/-- The layout of MCONF read as a configuration; none: BADARG (R215, R226). -/
def mconfOf (v : Nat) (t : TileReg) : Option TileReg :=
  let code := bits v 0 4
  let cols := bits v 16 9 + 1
  if bits v 5 3 != 0 || bits v 13 3 != 0 || bits v 25 39 != 0 || decide (12 < code) || !colsOk code cols then none
  else some { t with code := code, sat := bit v 4, rows := bits v 8 5 + 1, cols := cols }

def MatUnit.reg (x : MatUnit) (m : Nat) : TileReg := (tget x.m m).getD TileReg.reset

/-- The configuration of m after the MCFG commands accepted before (R216). -/
def MatUnit.config (x : MatUnit) (m : Nat) : TileReg :=
  (x.queue.filter (fun q => q.op == .mcfg && q.m == m)).foldl (fun t q => (mconfOf q.a.toNat t).getD t) (x.reg m)

/-! ## Operands (R222, R223) -/

def MatOp.isMma : MatOp → Bool
  | .mmaw | .mmah | .mmae | .mmai | .mmas | .mmaq => true
  | _ => false

def MatCmd.ra (q : MatCmd) : Nat := bits q.a.toNat 0 4
def MatCmd.rb (q : MatCmd) : Nat := bits q.a.toNat 4 4
def MatCmd.rc (q : MatCmd) : Nat := bits q.a.toNat 8 4
def MatCmd.cinc (q : MatCmd) : Bool := q.b.getLsbD 56
def MatCmd.cid (q : MatCmd) : Nat := bits q.b.toNat 50 6
def MatCmd.pitch (q : MatCmd) : Nat := bits q.b.toNat 32 18
def MatCmd.off (q : MatCmd) : Nat := bits q.b.toNat 8 18
def MatCmd.entry (q : MatCmd) : Nat := bits q.b.toNat 0 6

/-- MLD and MST always have a bank operand, MMA and MRD with BT = 1 (R223). -/
def MatCmd.bankForm (q : MatCmd) : Bool :=
  match q.op with
  | .mld | .mst => true
  | .mclr | .mcfg => false
  | _ => q.b.getLsbD 63

/-- The tile registers that a command names (R216). -/
def MatCmd.regs (q : MatCmd) : List Nat :=
  match q.op with
  | .mclr => []
  | .mcfg => [q.m]
  | .mmaq => [q.ra, q.ra + 1, q.rb]
  | .mrd | .mld | .mst => [q.rc]
  | _ => [q.ra, q.rb]

/-- The register that gives the shape of the bank operand. -/
def MatCmd.shapeReg (q : MatCmd) : Nat := if q.op.isMma then q.rb else q.rc

/-- The engine that owns the command's accumulator tile (R217). -/
def MatCmd.engine (q : MatCmd) : Nat := q.k / 2

/-! ## Checks (R228) -/

/-- Check 1. -/
def MatCmd.operandBad (q : MatCmd) : Bool :=
  let b := q.b.toNat
  match q.op with
  | .mclr | .mcfg => false
  | _ =>
    bits q.a.toNat 12 52 != 0 || (q.op == .mmaq && q.ra % 2 == 1) ||
    (if q.bankForm then
      bits b 57 6 != 0 || bits b 26 6 != 0 || bits b 6 2 != 0 || (q.cinc && q.op != .mst) || (!q.cinc && q.cid != 0)
     else b != 0)

/-- The formats of an MMA form's operands (R224). -/
def mmaFormats : MatOp → List Nat
  | .mmaw => [1]
  | .mmah => [2, 3]
  | .mmae => [4, 5]
  | .mmai => [6]
  | .mmas => [12]
  | _ => [9, 10, 11]

/-- Check 2. -/
def MatCmd.formatBad (q : MatCmd) (cfg : Nat → TileReg) : Bool :=
  match q.op with
  | .mclr | .mcfg | .mld | .mst => false
  | .mrd =>
    decide (32 < (cfg q.rc).cols) ||
    (!q.bankForm && !(decide (1 ≤ (cfg q.rc).code) && decide ((cfg q.rc).code ≤ 8)))
  | .mmaq =>
    let act (m : Nat) : Bool := [4, 5].contains (cfg m).code && (cfg m).cols == 128
    !act q.ra || !act (q.ra + 1) || (cfg q.ra).rows != (cfg (q.ra + 1)).rows || (cfg q.rb).cols != 256 ||
    (!q.bankForm && !(mmaFormats .mmaq).contains (cfg q.rb).code)
  | op =>
    !(mmaFormats op).contains (cfg q.ra).code || (!q.bankForm && !(mmaFormats op).contains (cfg q.rb).code) ||
    (cfg q.ra).cols != (cfg q.rb).cols

/-- Bytes of a row of the bank operand: MLD and MST move the register's row bytes; the other forms take the
bank's format. -/
def MatCmd.bankRow (q : MatCmd) (shape : TileReg) (bankCode : Nat) : Nat :=
  match q.op with
  | .mld | .mst => rowBytes shape.code shape.cols
  | _ => rowBytes bankCode shape.cols

/-- The format of the bank that holds byte `o` of a tile. -/
def Core.tileCode (c : Core) (t : Tile) (o : Nat) : Nat := (c.bank (t.vbank + o / 0x4000)).format

/-- A row of `n` bytes at byte `o` of a tile lies in element bytes, and covers whole records of every bank of records
that it touches (check 5). -/
def State.rowOk (s : State) (h : Nat) (t : Tile) (o n : Nat) : Bool :=
  s.inTile h (s.unitId h) t o n &&
  wholeRecords ((s.core h).tileCode t) o n

/-- Checks 5 and 6 on the bank operand. -/
def State.matBankGate (s : State) (h : Nat) (q : MatCmd) (t : Tile) (shape : TileReg) : Gate :=
  let c := s.core h
  let rows := (List.range shape.rows).map (fun r =>
    let o := q.off + r * q.pitch
    (o, q.bankRow shape (c.tileCode t o)))
  let whole (o : Nat) : Bool := match q.op with
    | .mld | .mst => true
    | _ => !isRec (c.tileCode t o) || shape.cols % recElems (c.tileCode t o) == 0
  let touched := (rows.flatMap (fun (o, n) => banksOf o n)).map (fun b => (c.bank (t.vbank + b)).format)
  let code := c.tileCode t q.off
  let wrong := match q.op with
    | .mld | .mst => shape.code != code && shape.code != 0 && code != 0
    | .mrd => !(decide (1 ≤ code) && decide (code ≤ 8))
    | op => !(mmaFormats op).contains code
  (Gate.bad (rows.any (fun (o, n) => (decide (1 < shape.rows) && decide (q.pitch < n)) || !whole o ||
    !s.rowOk h t o n)) Late.frng).then
  (Gate.bad (touched.any (· != code) || wrong) Late.fflt)

/-- Checks 1 to 6 of a MAT command at acceptance (R228). -/
def State.matGate (s : State) (h : Nat) (q : MatCmd) : Gate :=
  let c := s.core h
  let cfg := c.mat.config
  (Gate.bad q.operandBad Late.mopf).then <|
  (Gate.bad (q.formatBad cfg) Late.fflt).then <|
  if q.bankForm then
    (tileGate (tget c.tiles q.entry)).then <|
    match tget c.tiles q.entry with
    | some t => s.matBankGate h q t (cfg q.shapeReg)
    | none => .ok
  else .ok

/-! ## Dispatch (R212, R216, R221) -/

/-- Room in the queue of the command's stream, and confirmation for a chunk increment. -/
def State.matRoom (s : State) (q : MatCmd) : Bool :=
  let c := s.core s.curCore
  decide ((c.mat.queue.filter (fun p => p.ms == q.ms)).length < 8) && !c.formatPending &&
  !(q.op == .mst && q.cinc && !s.confirmed)

def State.matAccept (s : State) (q : MatCmd) (ply : Word32) : State :=
  let q : MatCmd := { q with ply := ply, addr := s.cur.r.pc }
  s.modCore s.curCore fun c => { c with mat := { c.mat with queue := c.mat.queue ++ [q] } }

def State.matCmd (s : State) (op : MatOp) (a b : Reg) (ms k : Nat) (rnd : Rnd) (m : Nat) : MatCmd :=
  { op := op, tid := s.curTid, ply := 0, addr := 0, a := s.g a, b := s.g b, ms := ms, k := k, rnd := rnd, m := m,
    prog := 0, capA := [], capB := [], codeB := 0, flags := 0, last := false, seq := 0 }

def State.matDispatch (s : State) (q : MatCmd) : Out :=
  s.dispatchChecked Un.mat (fun s => s.matRoom q) (fun s => s.matGate s.curCore q) (fun ply s => s.matAccept q ply)

def execMclr (look : Fin 16) (ms k : Fin 4) (s : State) : Out :=
  let _ := look
  s.matDispatch (s.matCmd .mclr 0 0 ms k .rne 0)
def execMmaw (a b : Reg) (look : Fin 16) (ms k : Fin 4) (s : State) : Out :=
  let _ := look
  s.matDispatch (s.matCmd .mmaw a b ms k .rne 0)
def execMmah (a b : Reg) (look : Fin 16) (ms k : Fin 4) (s : State) : Out :=
  let _ := look
  s.matDispatch (s.matCmd .mmah a b ms k .rne 0)
def execMmae (a b : Reg) (look : Fin 16) (ms k : Fin 4) (s : State) : Out :=
  let _ := look
  s.matDispatch (s.matCmd .mmae a b ms k .rne 0)
def execMmai (a b : Reg) (look : Fin 16) (ms k : Fin 4) (s : State) : Out :=
  let _ := look
  s.matDispatch (s.matCmd .mmai a b ms k .rne 0)
def execMmas (a b : Reg) (look : Fin 16) (ms k : Fin 4) (s : State) : Out :=
  let _ := look
  s.matDispatch (s.matCmd .mmas a b ms k .rne 0)
def execMmaq (a b : Reg) (look : Fin 16) (ms k : Fin 4) (s : State) : Out :=
  let _ := look
  s.matDispatch (s.matCmd .mmaq a b ms k .rne 0)
def execMrd (a b : Reg) (look : Fin 16) (ms k : Fin 4) (rnd : Rnd) (s : State) : Out :=
  let _ := look
  s.matDispatch (s.matCmd .mrd a b ms k rnd 0)
def execMld (a b : Reg) (look : Fin 16) (ms : Fin 4) (s : State) : Out :=
  let _ := look
  s.matDispatch (s.matCmd .mld a b ms 0 .rne 0)
def execMst (a b : Reg) (look : Fin 16) (ms : Fin 4) (s : State) : Out :=
  let _ := look
  s.matDispatch (s.matCmd .mst a b ms 0 .rne 0)

/-- MWAIT: MCFG counts as belonging to every stream (R227). -/
def execMwait (look : Fin 16) (mask : Fin 16) (s : State) : Out :=
  let _ := look
  s.unitWait Un.mat mask.val (fun s => !(s.core s.curCore).mat.queue.any (fun q =>
    q.tid == s.curTid && (q.op == .mcfg || bit mask.val q.ms)))

/-- The matrix stream number under which the configuration slot is listed. -/
def cfgSlot : Nat := 4

/-- MCFG: checked at acceptance, then it waits in the configuration slot (R215). -/
def execMcfg (a : Reg) (look : Fin 16) (m : Fin 16) (s : State) : Out :=
  let _ := look
  let q := s.matCmd .mcfg a 0 cfgSlot 0 .rne m.val
  s.dispatch Un.mcf (fun s => !(s.core s.curCore).mat.queue.any (fun p => p.op == .mcfg)) fun ply s =>
    match mconfOf q.a.toNat TileReg.reset with
    | none => s.words fun u => { u with mcstat := 2 }
    | some _ => (s.words fun u => { u with mcstat := 0 }).matAccept q ply

/-! ## Rows (R214, R226) -/

/-- `n` bytes of row `r` of a tile register. -/
def TileReg.row (t : TileReg) (r n : Nat) : List Byte := (List.range n).map (fun i => (tget t.bytes (136 * r + i)).getD 0)

def TileReg.setRow (t : TileReg) (r : Nat) (bs : List Byte) : TileReg :=
  { t with bytes := (List.range bs.length).foldl (fun b i => tput b (136 * r + i) (bs.getD i 0)) t.bytes }

/-- The tile of a command's bank operand. -/
def Core.matTile (c : Core) (q : MatCmd) : Option Tile := tget c.tiles q.entry

/-- The local offset of row `r` of the bank operand. -/
def MatCmd.rowAt (q : MatCmd) (t : Tile) (r : Nat) : Nat := t.vbank * 0x4000 + q.off + r * q.pitch

/-- Format, row bytes, and rows of an operand in a register (`bank` false) or in the bank tile. -/
def Core.operand (c : Core) (q : MatCmd) (m : Nat) (bank : Bool) : Nat × Nat × Nat :=
  let t := c.mat.reg m
  let code := if bank then ((c.matTile q).map (fun k => c.tileCode k q.off)).getD 0 else t.code
  (code, rowBytes code t.cols, t.rows)

/-- All rows of an operand, one after another. DESIGN CHOICE (log 77): every row of every source is read in one event,
where the spec lets the choice of old or new differ from row to row (R219). -/
def State.captureRows (s : State) (h : Nat) (q : MatCmd) (m : Nat) (bank : Bool) : List Byte :=
  let c := s.core h
  let (_, n, rows) := c.operand q m bank
  (List.range rows).flatMap (fun r =>
    if bank then
      match c.matTile q with
      | some t => s.localBytes h (q.rowAt t r) n
      | none => List.replicate n 0
    else (c.mat.reg m).row r n)

/-- Element `k` of a row of bytes in a format (R214). -/
def rowElem (code : Nat) (bs : List Byte) (k : Nat) : Num :=
  match fmtOf code with
  | some f => decodeFmt f (numOf ((bs.drop (elemSize code * k)).take (elemSize code)))
  | none => recElem code ((bs.drop (recBytes code * (k / recElems code))).take (recBytes code)) (k % recElems code)

/-! ## Multiplication (R224, R225, R50) -/

/-- Steps of an MMA form with `k` products per element. -/
def mmaSteps (op : MatOp) (k : Nat) : Nat :=
  match op with
  | .mmaw => 2 * k
  | .mmah => (k + 1) / 2
  | .mmaq => 32
  | _ => (k + 3) / 4

/-- The rows and the products that step `p` of an MMA form adds, and by how much N grows. DESIGN CHOICE (log 77): N of an
MMAW grows at the second of the two steps of a k; R217 gives the total alone. -/
def mmaSlice (op : MatOp) (k p : Nat) : (Nat → Bool) × List Nat × Nat :=
  match op with
  | .mmaw => (fun i => decide (i / 16 = p % 2), [p / 2], p % 2)
  | .mmah =>
    let ks := [2 * p, 2 * p + 1].filter (· < k)
    (fun _ => true, ks, ks.length)
  | _ =>
    let ks := [4 * p, 4 * p + 1, 4 * p + 2, 4 * p + 3].filter (· < k)
    (fun _ => true, ks, ks.length)

/-- The addend of one superblock: P rounded once to FP32, times S32 (R50). -/
def superAddend (code : Nat) (xs : List Num) (rec' : List Byte) : Num :=
  let p := sumExact (xs.zipIdx.map (fun (x, j) => mulExact (blockValue code rec' j) x))
  let p32 := decodeFloat .fp32 (encodeFloat p .fp32 .rne false).1
  mulExact p32 (superScale rec')

/-- Adds to the elements of a tile: `f i j` lists the addends of element (i, j). -/
def KTile.addAll (t : KTile) (rows cols n : Nat) (f : Nat → Nat → List Num) : KTile :=
  { elems := (List.range rows).foldl (fun e i => (List.range cols).foldl (fun e j =>
      let vs := f i j
      if vs.isEmpty then e
      else tput e (32 * i + j) (vs.foldl Acc.add ((tget e (32 * i + j)).getD Acc.clear))) e) t.elems
    n := t.n + w64 n }

/-- Step `p` of an MMA on captured operands. -/
def Core.mmaStep (c : Core) (q : MatCmd) (p : Nat) (t : KTile) : KTile :=
  let (ca, na, ra) := c.operand q q.ra false
  let rb := (c.mat.reg q.rb).rows
  let nb := rowBytes q.codeB (c.mat.reg q.rb).cols
  let rowA (i : Nat) : List Byte := (q.capA.drop (na * i)).take na
  let rowB (j : Nat) : List Byte := (q.capB.drop (nb * j)).take nb
  if q.op = .mmaq then
    if p + 1 < 32 then t
    else
      let (ca2, na2, _) := c.operand q (q.ra + 1) false
      let act (i : Nat) : List Num :=
        (List.range 128).map (rowElem ca (rowA i)) ++
        (List.range 128).map (rowElem ca2 ((q.capA.drop (na * ra + na2 * i)).take na2))
      t.addAll ra rb 1 (fun i j => [superAddend q.codeB (act i) (rowB j)])
  else
    let (rows, ks, n) := mmaSlice q.op (c.mat.reg q.ra).cols p
    t.addAll ra rb n (fun i j =>
      if rows i then ks.map (fun k => mulExact (rowElem ca (rowA i) k) (rowElem q.codeB (rowB j) k)) else [])

/-! ## Readout (R226) -/

/-- The format and the saturation control of element `j` of row `i` of the destination of an MRD: of the register, or of the
visible bank that holds the row, with SAT of the bank that holds the element (R42, R226; log 77). -/
def Core.readTarget (c : Core) (q : MatCmd) (i j : Nat) : Nat × Bool :=
  let m := c.mat.reg q.rc
  if q.bankForm then
    match c.matTile q with
    | some k =>
      let o := q.off + i * q.pitch
      let code := (c.bank (k.vbank + o / 0x4000)).format
      (code, (c.bank (k.vbank + (o + j * elemSize code) / 0x4000)).sat)
    | none => (0, false)
  else (m.code, m.sat)

/-- The rows that MRD writes, as bytes, with the flags of all elements (R226). -/
def Core.readTile (c : Core) (q : MatCmd) : List Byte × Flags :=
  let t := (tget c.mat.k q.k).getD KTile.clear
  let m := c.mat.reg q.rc
  let rs := (List.range m.rows).flatMap (fun i => (List.range m.cols).map (fun j =>
    let (code, sat) := c.readTarget q i j
    let x := (tget t.elems (32 * i + j)).getD Acc.clear
    let (v, fl) := x.read t.ovf ((fmtOf code).getD (.int 32)) q.rnd sat
    (bytesOf (elemSize code) v, fl)))
  (rs.flatMap (·.1), rs.foldl (fun f r => f ||| r.2) 0)

/-! ## Power leave (R230, R335) -/

/-- Asks the die power manager for leave, once. -/
def State.askLeave (s : State) (h agent cmd cls : Nat) : State :=
  let (o, s) := s.fresh
  s.modDie (dieOf h) fun d =>
    if d.waiting.any (fun w => w.h == h && w.agent == agent && w.cmd == cmd) then d
    else { d with waiting := d.waiting ++ [{ h := h, agent := agent, cmd := cmd, cls := cls, order := o }] }

def Core.engineLeave (c : Core) (e : Nat) : Leave := (tget c.leave e).getD Leave.reset

def Core.modLeave (c : Core) (e : Nat) (f : Leave → Leave) : Core := { c with leave := tput c.leave e (f (c.engineLeave e)) }

/-- An engine without leave asks for it. -/
def State.engineAsks (s : State) (h e : Nat) : State :=
  if (s.core h).engineLeave e |>.wanted then s
  else (s.askLeave h e 0 (s.resClass h)).modCore h (·.modLeave e fun l => { l with wanted := true })

/-! ## Steps (R218, R219, R231) -/

/-- The command of a stream whose steps come next, with the commands accepted before it. -/
def nextStep (queue : List MatCmd) (ms : Nat) : Option (List MatCmd × MatCmd) :=
  match queue.dropWhile (fun q => !(q.ms == ms && !q.last)) with
  | [] => none
  | q :: _ => some (queue.takeWhile (fun q => !(q.ms == ms && !q.last)), q)

/-- The command may take a step: it has started, or the commands before it on its stream let it start, no MCFG
before it that names its registers is still to be performed, and its thread is not halted (R216, R219, R425). -/
def MatCmd.mayStep (q : MatCmd) (before : List MatCmd) (halted : Bool) : Bool :=
  decide (0 < q.prog) ||
  (!halted && before.all (fun p => p.ms != q.ms || (p.op.isMma && q.op.isMma && p.engine == q.engine)) &&
   !before.any (fun p => p.op == .mcfg && q.regs.contains p.m))

/-- What serves the next step of a command: an engine, the move port of MLD and MST, or, for the rows that MRD writes,
nothing that streams share (R218, R229). -/
def MatCmd.port (q : MatCmd) : Option Nat :=
  match q.op with
  | .mld | .mst => some 2
  | .mrd => if q.prog = 0 then some q.engine else none
  | .mcfg => none
  | _ => some q.engine

/-- The next command of a stream, where it may take a step. -/
def State.stepOf (s : State) (h ms : Nat) : Option MatCmd :=
  match nextStep (s.core h).mat.queue ms with
  | some (before, q) => if decide (ms < cfgSlot) && q.mayStep before (s.thread h q.tid).halted then some q else none
  | none => none

/-- A step that could be performed now: an MMA form needs leave (R230). -/
def Core.stepServed (c : Core) (q : MatCmd) : Bool := !q.op.isMma || (c.engineLeave q.engine).held

/-- The stream that a port serves next: the first with a step ready in cyclic order after the one it served last (R218,
R229). DESIGN CHOICE: a port that has served none since reset or since the unit started begins with stream 0; the spec does
not say where it begins (log 74). -/
def State.nextServed (s : State) (h port : Nat) : Option Nat :=
  let last := (tget (s.core h).mat.last port).getD 3
  ((List.range 4).map (fun i => (last + 1 + i) % 4)).find? (fun ms =>
    ((s.stepOf h ms).map (fun q => q.port == some port && (s.core h).stepServed q)).getD false)

/-- A stream of a core has a step to take: its turn has come, or its engine is yet to ask for leave. -/
def State.matStepReady (s : State) (h ms : Nat) : Bool :=
  match s.stepOf h ms with
  | none => false
  | some q =>
    if (s.core h).stepServed q then
      match q.port with
      | some p => s.nextServed h p == some ms
      | none => true
    else !((s.core h).engineLeave q.engine).wanted

/-- Replaces the first unfinished command of a stream. -/
def Core.setCmd (c : Core) (ms : Nat) (q : MatCmd) : Core :=
  let pre := c.mat.queue.takeWhile (fun p => !(p.ms == ms && !p.last))
  match c.mat.queue.drop pre.length with
  | _ :: post => { c with mat := { c.mat with queue := pre ++ q :: post } }
  | [] => c

def Core.setK (c : Core) (k : Nat) (t : KTile) : Core := { c with mat := { c.mat with k := tput c.mat.k k t } }

def Core.setM (c : Core) (m : Nat) (t : TileReg) : Core := { c with mat := { c.mat with m := tput c.mat.m m t } }

/-- A step of an MMA form: at its start it reads its operand rows (R219). -/
def State.mmaRun (s : State) (h : Nat) (q : MatCmd) : State :=
  let c := s.core h
  let q : MatCmd := if q.prog = 0 then
      { q with
        capA := s.captureRows h q q.ra false ++ (if q.op = .mmaq then s.captureRows h q (q.ra + 1) false else [])
        capB := s.captureRows h q q.rb q.bankForm
        codeB := (c.operand q q.rb q.bankForm).1 }
    else q
  let k := c.mmaStep q q.prog ((tget c.mat.k q.k).getD KTile.clear)
  let prog := q.prog + 1
  let q : MatCmd := { q with prog := prog, last := decide (mmaSteps q.op (c.mat.reg q.ra).cols ≤ prog) }
  s.modCore h fun c =>
    (c.setK q.k k).setCmd q.ms q

/-- A row of MLD, MST or MRD; the first step of MRD reads the tile, that of MST the rows of its register. -/
def State.rowRun (s : State) (h : Nat) (q : MatCmd) : State :=
  let c := s.core h
  let m := c.mat.reg q.rc
  let put (s : State) (q : MatCmd) (last : Bool) : State :=
    s.modCore h fun c => c.setCmd q.ms { q with prog := q.prog + 1, last := last }
  match q.op with
  | .mclr => put (s.modCore h (·.setK q.k KTile.clear)) q true
  | .mld =>
    let n := rowBytes m.code m.cols
    let bs := match c.matTile q with
      | some t => s.localBytes h (q.rowAt t q.prog) n
      | none => List.replicate n 0
    put (s.modCore h (·.setM q.rc (m.setRow q.prog bs))) q (decide (m.rows ≤ q.prog + 1))
  | .mst =>
    let n := rowBytes m.code m.cols
    let q : MatCmd := if q.prog = 0 then { q with capA := (List.range m.rows).flatMap (fun r => m.row r n) } else q
    let s := match c.matTile q with
      | some t => s.streamStore h (q.rowAt t q.prog) ((q.capA.drop (n * q.prog)).take n)
      | none => s
    put s q (decide (m.rows ≤ q.prog + 1))
  | _ =>
    if q.prog = 0 then
      let (bs, fl) := c.readTile q
      put s { q with capA := bs, flags := fl } false
    else
      let r := q.prog - 1
      let n := (c.operand q q.rc q.bankForm).2.1
      let bs := (q.capA.drop (n * r)).take n
      let s := if q.bankForm then
          match c.matTile q with
          | some t => s.streamStore h (q.rowAt t r) bs
          | none => s
        else s.modCore h (·.setM q.rc (m.setRow r bs))
      put s q (decide (m.rows ≤ q.prog))

/-- A stream has been served: its port goes on after it, and an engine that performed a step was busy until now
(R218, R229, R230). -/
def Core.served (c : Core) (port : Option Nat) (ms now : Nat) : Core :=
  match port with
  | none => c
  | some p =>
    let c : Core := { c with mat := { c.mat with last := tput c.mat.last p ms } }
    if p < 2 ∧ (c.engineLeave p).held then c.modLeave p fun l => { l with idle := now } else c

/-- MATRIX_ENGINE_STEP: one indivisible step of an engine, or one row of a move (R218, R230, R231). -/
def execMatrixEngineStep (h ms : Nat) (s : State) : Out :=
  if !s.matStepReady h ms then .next s
  else
    match s.stepOf h ms with
    | none => .next s
    | some q =>
      if (s.core h).stepServed q then
        let s := if q.op.isMma then s.mmaRun h q else s.rowRun h q
        .next (s.modCore h (·.served q.port ms s.now))
      else .next (s.engineAsks h q.engine)

/-! ## Completion (R215, R226, R229, R393) -/

/-- chunk_increment at the collective engine of a die; none: no queue of the context owns the counter (R393). -/
def State.chunkIncrement (s : State) (die ctx cid : Nat) : Option State :=
  let e := (s.die die).col
  if e.queues.any (fun q => q.2.ctx == ctx && q.2.cnts.contains cid) then
    some (s.modDie die fun d =>
      { d with col := { d.col with counters := tput d.col.counters cid ((tget d.col.counters cid).getD 0 + 1) } })
  else none

/-- The command of a stream that has taken its last step, or the MCFG whose wait has ended. -/
def State.matDone (s : State) (h ms : Nat) : Option MatCmd :=
  let queue := (s.core h).mat.queue
  if ms = cfgSlot then
    match queue.find? (fun q => q.op == .mcfg) with
    | some q =>
      if (queue.takeWhile (fun p => p.op != .mcfg)).any (fun p => p.regs.contains q.m) || (s.thread h q.tid).halted then
        none
      else some q
    | none => none
  else queue.find? (fun q => q.ms == ms && q.last)

/-- MATRIX_COMMAND_COMPLETE. -/
def execMatrixCommandComplete (h ms : Nat) (s : State) : Out :=
  match s.matDone h ms with
  | none => .next s
  | some q =>
    let s := s.modCore h fun c => { c with mat := { c.mat with queue := c.mat.queue.erase q } }
    match q.op with
    | .mcfg => .next (s.modCore h fun c => c.setM q.m ((mconfOf q.a.toNat (c.mat.reg q.m)).getD (c.mat.reg q.m)))
    | .mst =>
      if q.cinc then
        match s.chunkIncrement (dieOf h) (s.ctxAt h) q.cid with
        | some s => .next s
        | none => .next (s.lateOf h q.tid q.ply q.addr Un.mat Late.xcinc)
      else .next s
    | _ => .next (s.raiseAt h q.tid q.flags)

end Sys2Proof.Machine
end

