-- ==== Sys2Proof/Machine/Sync.lean ====
section
/-! DEFINITION. Arrival counters and barrier registers: SYNC, and the messages of a barrier (R249–R254). -/

namespace Sys2Proof.Machine

/-! ## The sync state of a unit, resident or evicted (R235) -/

def SyncUnit.counter (x : SyncUnit) (n : Nat) : BitVec 48 := (tget x.counters n).getD 0

def SyncUnit.bar (x : SyncUnit) (n : Nat) : Bar := (tget x.bars n).getD Bar.reset

/-- The counter is 0, or the barrier is released, so that a WAITC or a BARWT that waits goes on (R249, R251). -/
def SyncUnit.wakes (x : SyncUnit) : Wait → Bool
  | .waitc n => x.counter n == 0
  | .barwt n => (x.bar n).gen == (x.bar n).rgen
  | _ => false

/-- The sync state of a unit. -/
def State.syncOf (s : State) (h : Nat) (u : UnitId) : SyncUnit :=
  match s.evictedOf h u with
  | some e => e.sync
  | none => (s.core h).sync

/-- Changes the sync state of a unit; waits whose condition now holds are over, whatever follows. -/
def State.modSync (s : State) (h : Nat) (u : UnitId) (f : SyncUnit → SyncUnit) : State :=
  let s : State := match s.evictedOf h u with
    | some _ => s.modEvicted h u fun e => { e with sync := f e.sync }
    | none => s.modCore h fun (c : Core) => if c.unit.map Resident.id = some u then { c with sync := f c.sync } else c
  s.mapUnitThreads h u (fun _ => Thread.latch (s.syncOf h u).wakes)

def SyncUnit.setBar (x : SyncUnit) (n : Nat) (b : Bar) : SyncUnit := { x with bars := tput x.bars n b }

/-- A decrement, or the addend of ARMC, as one event (R240, R249). -/
def State.addCounter (s : State) (h : Nat) (u : UnitId) (n : Nat) (v : Int) : State :=
  s.modSync h u fun x => { x with counters := tput x.counters n (x.counter n + BitVec.ofInt 48 v) }

/-! ## Counters (R249) -/

def execArmc (a : Reg) (look : Fin 16) (n : Fin 16) (s : State) : Out :=
  let _ := look
  s.dispatch Un.sync roomy fun _ s =>
    let v := (s.g a).toInt
    if v < -(2 ^ 47) ∨ 2 ^ 47 ≤ v then s.words fun u => { u with sstat := 2 }
    else (s.addCounter s.curCore (s.unitId s.curCore) n.val v).words fun u => { u with sstat := 0 }

def execWaitc (look : Fin 16) (n : Fin 16) (s : State) : Out :=
  let _ := look
  s.dispatchTo Un.sync roomy fun _ s =>
    if (s.core s.curCore).sync.counter n.val = 0 then s.retire else s.blockAt (.waitc n.val)

/-! ## Barriers (R250–R252) -/

/-- A barrier message to a member, with the tag of the sender's unit and rectangle. -/
def Bar.msg (b : Bar) (u : UnitId) (z x y : Nat) (release alongX : Bool) : Msg :=
  .bar { dst := hilbertH x y, z := z, ctx := u.ctx, lnum := u.lnum, x0 := b.x0, y0 := b.y0, wm1 := b.wm1, hm1 := b.hm1,
         release := release, alongX := alongX }

def State.send (s : State) (ms : List Msg) : State := { s with msgs := s.msgs ++ ms }

/-- The releases that a member at (x, y) sends on: `alongX` if the release came along its rank. -/
def Bar.releases (b : Bar) (u : UnitId) (z x y : Nat) (alongX : Bool) : List Msg :=
  (if x < b.x0 + b.wm1 then [b.msg u z (x + 1) y true true] else []) ++
  (if alongX = false ∧ y < b.y0 + b.hm1 then [b.msg u z x (y + 1) true false] else [])

/-- Forwards the arrivals of a member once they are complete, and at the corner releases the barrier (R251). DESIGN CHOICE
(log 83): at a barrier that is not configured the member's own BARARV raises GEN and nothing is forwarded or released, so
that a BARWT waits. -/
def State.barTry (s : State) (h : Nat) (u : UnitId) (z : Nat) (b : Bar) : State :=
  let (x, y) := hilbertXY h
  let put (b : Bar) (ms : List Msg) : State := (s.modSync h u (·.setBar z b)).send ms
  let row := b.cfg && b.own && (b.fromX || decide (b.x0 + b.wm1 ≤ x))
  let sent : Bar := { b with own := false, fromX := false, fromY := false }
  if !row then put b []
  else if b.x0 < x then put sent [b.msg u z (x - 1) y false true]
  else if !(b.fromY || decide (b.y0 + b.hm1 ≤ y)) then put b []
  else if b.y0 < y then put sent [b.msg u z x (y - 1) false false]
  else put { sent with rgen := b.gen } (b.releases u z x y false)

def Bar.sameRect (b : Bar) (m : BarMsg) : Bool :=
  b.x0 == m.x0 && b.y0 == m.y0 && b.wm1 == m.wm1 && b.hm1 == m.hm1

/-- A message at a member that has configured the barrier. -/
def State.barReceive (s : State) (h : Nat) (u : UnitId) (b : Bar) (m : BarMsg) : State :=
  let (x, y) := hilbertXY h
  if !b.sameRect m then s.modSync h u (·.setBar m.z { b with mism := true })
  else if m.release then (s.modSync h u (·.setBar m.z { b with rgen := b.gen })).send (b.releases u m.z x y m.alongX)
  else s.barTry h u m.z (if m.alongX then { b with fromX := true } else { b with fromY := true })

/-- The unit of a message's launch on a core whose barrier is configured. -/
def State.barUnit (s : State) (m : BarMsg) : Option (UnitId × Bar) :=
  let c := s.core m.dst
  let mine (u : UnitId) (x : SyncUnit) : Option (UnitId × Bar) :=
    if u.ctx = m.ctx ∧ u.lnum = m.lnum ∧ (x.bar m.z).cfg then some (u, x.bar m.z) else none
  match c.unit.bind (fun r => mine r.id c.sync) with
  | some r => some r
  | none => c.evicted.findSome? (fun e => mine e.res.id e.sync)

/-- A message arrives: it combines, or the core holds it (R250). -/
def State.barArrive (s : State) (m : BarMsg) : State :=
  match s.barUnit m with
  | some (u, b) => s.barReceive m.dst u b m
  | none => s.modCore m.dst fun c => { c with sync := { c.sync with held := c.sync.held ++ [m] } }

/-- The rectangle of a BARCFG operand; none: BADARG (R250). DESIGN CHOICE (log 83): a barrier that is configured anew while
GEN = RGEN keeps the arrivals of neighbours that it combined under the old rectangle. -/
def barRect (h : Nat) (v : Nat) (b : Bar) : Option Bar :=
  let (x, y) := hilbertXY h
  let x0 := bits v 0 6
  let y0 := bits v 8 6
  let wm1 := bits v 16 6
  let hm1 := bits v 24 6
  if bits v 6 2 != 0 || bits v 14 2 != 0 || bits v 22 2 != 0 || bits v 30 34 != 0 || decide (63 < x0 + wm1) ||
     decide (63 < y0 + hm1) || decide (x < x0) || decide (x0 + wm1 < x) || decide (y < y0) || decide (y0 + hm1 < y) then
    none
  else some { b with cfg := true, x0 := x0, y0 := y0, wm1 := wm1, hm1 := hm1 }

/-- Messages that the core holds for a barrier of the resident unit's launch are taken up (R250). -/
def State.takeHeld (s : State) (h : Nat) (u : UnitId) (z : Nat) : State :=
  let mine (m : BarMsg) : Bool := m.z == z && m.ctx == u.ctx && m.lnum == u.lnum
  let ms := (s.core h).sync.held.filter mine
  let s := s.modCore h fun c => { c with sync := { c.sync with held := c.sync.held.filter (fun m => !mine m) } }
  ms.foldl State.barArrive s

/-- BARCFG (R250). DESIGN CHOICE: an episode under way (BUSY) is tested before the operand (BADARG) (log 23). -/
def execBarcfg (a : Reg) (look : Fin 16) (n : Fin 8) (s : State) : Out :=
  let _ := look
  s.dispatch Un.sync roomy fun _ s =>
    let h := s.curCore
    let u := s.unitId h
    let b := (s.core h).sync.bar n.val
    let status (k : Nat) (s : State) : State := s.words fun w => { w with sstat := k }
    if b.gen ≠ b.rgen then status 7 s
    else
      match barRect h (s.g a).toNat b with
      | none => status 2 s
      | some b => status 0 ((s.modSync h u (·.setBar n.val b)).takeHeld h u n.val)

/-- BARARV is a release of module scope (R252). -/
def execBararv (look : Fin 16) (n : Fin 8) (s : State) : Out :=
  let _ := look
  s.dispatch Un.sync (fun s =>
      let b := (s.core s.curCore).sync.bar n.val
      s.confirmed && b.gen == b.rgen) fun _ s =>
    let h := s.curCore
    let s := s.drain h s.curTid (fun a => inScope .mod h a.home)
    let b := (s.core h).sync.bar n.val
    s.barTry h (s.unitId h) n.val { b with gen := b.gen + 1, own := true }

def execBarwt (look : Fin 16) (n : Fin 8) (s : State) : Out :=
  let _ := look
  s.dispatchTo Un.sync roomy fun _ s =>
    let b := (s.core s.curCore).sync.bar n.val
    if b.gen = b.rgen then s.retire else s.blockAt (.barwt n.val)

/-- The message under way with a number, if it is of the kind. -/
def State.barMsg (s : State) (n : Nat) (release : Bool) : Option BarMsg :=
  match s.msgs[n]? with
  | some (.bar m) => if m.release = release then some m else none
  | _ => none

/-- BARRIER_ARRIVAL (R251). -/
def execBarrierArrival (n : Nat) (s : State) : Out :=
  match s.barMsg n false with
  | some m =>
    if (s.part (s.ctx m.ctx).part).out then .next s
    else .next (State.barArrive { s with msgs := s.msgs.eraseIdx n } m)
  | none => .next s

/-- BARRIER_RELEASE (R251). -/
def execBarrierRelease (n : Nat) (s : State) : Out :=
  match s.barMsg n true with
  | some m =>
    if (s.part (s.ctx m.ctx).part).out then .next s
    else .next (State.barArrive { s with msgs := s.msgs.eraseIdx n } m)
  | none => .next s

end Sys2Proof.Machine
end

