-- ==== Sys2Proof/Machine/Copy.lean ====
section
/-! DEFINITION. The copy engine: CPY at dispatch with its checks, the start of a command, its writes one by one,
conversion, multicast, gather and scatter, and completion (R234–R248, R458, R459). -/

namespace Sys2Proof.Machine

/-! ## Operands (R236, R237, R244) -/

/-- A tile form breaks its layout; `mcast`: the destination of CMC. -/
def formBad (h : Nat) (w : Word) (mcast : Bool) : Bool :=
  let v := w.toNat
  if isService h then decide (2 ^ 21 ≤ v)
  else bit v 62 || ((bits v 58 4 == 0) == mcast) || bits v 26 32 != 0 || bits v 6 2 != 0

def formOff (h : Nat) (w : Word) : Nat := if isService h then w.toNat % 2 ^ 21 else bits w.toNat 8 18

def formEntry (w : Word) : Nat := bits w.toNat 0 6

def formSh (h : Nat) (w : Word) : Bool := !isService h && w.getLsbD 63

def formMask (w : Word) : Nat := bits w.toNat 58 4

/-- A tile form of the form (entry, offset) that a command keeps of its index tile. -/
def indexForm (h : Nat) (x : IndexSt) : Word := if isService h then w64 x.off else w64 (x.entry + x.off * 2 ^ 8)

/-- CSHAPE's checks (R237). -/
def shapeOf (a b : Nat) : Option Shape :=
  let r := bits a 32 12 + 1
  let rowb := bits a 0 21
  let sp := bits b 0 32
  if bits a 44 20 != 0 || bits a 21 11 != 0 || rowb == 0 || decide (2 ^ 20 < rowb) ||
     (decide (1 < r) && decide (sp < rowb)) then none
  else some { rows := r, rowb := rowb, dpitch := bits b 32 32, spitch := sp }

/-- CIDX's checks (R244). -/
def indexOf (h : Nat) (a b : Word) : Option IndexSt :=
  let v := b.toNat
  if formBad h a false || formSh h a || bits v 2 14 != 0 || bits v 28 36 != 0 then none
  else some { off := formOff h a, entry := formEntry a, esz := bits v 0 2, count := bits v 16 12 + 1 }

def CopyOp.tileSrc : CopyOp → Bool
  | .clh | .cbb | .cmc | .cscat => true
  | _ => false

def CopyOp.tileDst : CopyOp → Bool
  | .chl | .cbb | .cgath => true
  | _ => false

def CopyOp.indexed : CopyOp → Bool
  | .cgath | .cscat => true
  | _ => false

def CopyOp.converts : CopyOp → Bool
  | .cbb | .cmc => true
  | _ => false

/-! ## Tile sides (R236) -/

/-- FORMAT and SAT at a byte of a tile side; mailbox memory moves bytes as RAW does. -/
def State.sideFmt (s : State) (h : Nat) (u : UnitId) (w : Word) (o : Nat) : Nat × Bool :=
  if isService h then (0, false)
  else match s.unitTile h u (formEntry w) with
    | some t => s.unitFmt h u (t.vbank + o / 0x4000)
    | none => (0, false)

/-- `n` bytes at byte `o` lie in element bytes of the side. -/
def State.sideOk (s : State) (h : Nat) (u : UnitId) (w : Word) (o n : Nat) : Bool :=
  if isService h then decide (o + n ≤ 0x200000)
  else match s.unitTile h u (formEntry w) with
    | some t => s.inTile h u t o n
    | none => false

/-- Bytes of a source side; none: nothing is there any more. -/
def State.sideRead (s : State) (h : Nat) (u : UnitId) (w : Word) (o n : Nat) : Option (List Byte) :=
  if isService h then some (s.localBytes h o n)
  else (s.unitTile h u (formEntry w)).map (fun t => s.unitRead h u (t.vbank * 0x4000 + o) n)

/-- Writes bytes at a destination side; none: the write is discarded (R140, R157). -/
def State.sideWrite (s : State) (h : Nat) (u : UnitId) (w : Word) (o : Nat) (bs : List Byte) : Option State :=
  if isService h then some (s.storeLoc u.ctx (.mem (aliasBase h + o)) bs)
  else if formSh h w then s.shadowWrite h u (formEntry w) o bs
  else (s.unitTile h u (formEntry w)).map (fun t => s.unitWrite h u (t.vbank * 0x4000 + o) bs)

/-- The state of a side with SH = 0 (checks 2 and 3). -/
def State.sideGate (s : State) (h : Nat) (u : UnitId) (w : Word) : Gate :=
  if isService h || formSh h w then .ok else tileGate (s.unitTile h u (formEntry w))

/-- SH = 1 on a local entry that is undefined or has no shadow (check 1). -/
def State.shadowBad (s : State) (h : Nat) (u : UnitId) (w : Word) : Bool :=
  formSh h w && (match s.unitTile h u (formEntry w) with
    | some t => t.nosh
    | none => true)

/-! ## Conversion (R239) -/

/-- The bytes move unchanged. -/
def movesRaw (sc dc : Nat) : Bool := sc == 0 || dc == 0 || (sc == dc && isRec sc)

/-- A rule of R239 forbids the pair of formats. -/
def pairBad (sc dc : Nat) : Bool := isRec dc && !movesRaw sc dc

/-- A stretch of a converted row within one source bank and one destination bank: its source byte, the element of the
record there with which it begins, its destination byte, both formats, SAT, and its destination bytes. -/
structure Run where
  so : Nat
  ei : Nat
  d : Nat
  sc : Nat
  dc : Nat
  sat : Bool
  n : Nat
  deriving DecidableEq, Repr

/-- Elements of a source bank that begin within `left` bytes, of `rest` bytes of the row, from element `ei` of a record. -/
def elemsIn (sc ei left rest : Nat) : Nat :=
  if isRec sc then min left rest / recBytes sc * recElems sc - ei
  else min ((left + elemSize sc - 1) / elemSize sc) (rest / elemSize sc)

/-- The stretches of a row whose sides begin at bytes `os` and `od`, by the formats of the banks that hold each element,
and whether the row is whole elements and records of pairs of formats that R239 allows. -/
def runsGo (sf df : Nat → Nat × Bool) (os od rowb : Nat) : Nat → Nat → Nat → Nat → List Run × Bool
  | 0, _, _, _ => ([], false)
  | fuel + 1, so, ei, d =>
    if rowb ≤ so then ([], so == rowb)
    else
      let sc := (sf (os + so)).1
      let (dc, sat) := df (od + d)
      let ls := 0x4000 - (os + so) % 0x4000
      let ld := 0x4000 - (od + d) % 0x4000
      if movesRaw sc dc then
        if ei ≠ 0 then ([], false)
        else
          let n := min (min ls ld) (rowb - so)
          let (rs, ok) := runsGo sf df os od rowb fuel (so + n) 0 (d + n)
          ({ so := so, ei := 0, d := d, sc := sc, dc := dc, sat := sat, n := n } :: rs, ok)
      else
        let k := min (elemsIn sc ei ls (rowb - so)) ((ld + elemSize dc - 1) / elemSize dc)
        if pairBad sc dc || k == 0 then ([], false)
        else
          let e := ei + k
          let (rs, ok) := if isRec sc then
              runsGo sf df os od rowb fuel (so + e / recElems sc * recBytes sc) (e % recElems sc) (d + k * elemSize dc)
            else runsGo sf df os od rowb fuel (so + k * elemSize sc) 0 (d + k * elemSize dc)
          ({ so := so, ei := ei, d := d, sc := sc, dc := dc, sat := sat, n := k * elemSize dc } :: rs, ok)

/-- The stretches of one row: a row has at most 1 MiB of source bytes. -/
def rowRuns (sf df : Nat → Nat × Bool) (os od rowb : Nat) : List Run × Bool := runsGo sf df os od rowb 4096 0 0 0

/-- Destination bytes of a row (R237). -/
def runsBytes (rs : List Run) : Nat := rs.foldl (fun a x => a + x.n) 0

/-- Bytes [d, d + n) of a stretch, from the row's source bytes, with the flags of the elements that they hold. -/
def Run.bytes (x : Run) (rnd : Rnd) (src : Nat → Nat → List Byte) (d n : Nat) : List Byte × Flags :=
  if movesRaw x.sc x.dc then (src (x.so + d) n, 0)
  else
    let size := elemSize x.dc
    let k0 := d / size
    let rs := (List.range ((d + n - 1) / size - k0 + 1)).map (fun i =>
      let k := x.ei + k0 + i
      let v := match fmtOf x.sc with
        | some f => decodeFmt f (numOf (src (x.so + k * elemSize x.sc) (elemSize x.sc)))
        | none => recElem x.sc (src (x.so + k / recElems x.sc * recBytes x.sc) (recBytes x.sc)) (k % recElems x.sc)
      let (b, fl) := encodeFmt ((fmtOf x.dc).getD (.int 32)) v rnd x.sat
      (bytesOf size b, fl))
    (((rs.flatMap (·.1)).drop (d % size)).take n, rs.foldl (fun f r => f ||| r.2) 0)

/-- Bytes [d, d + n) of a destination row. -/
def convPiece (rs : List Run) (rnd : Rnd) (src : Nat → Nat → List Byte) (d n : Nat) : List Byte × Flags :=
  rs.foldl (fun (bs, fl) x =>
    let lo := max d x.d
    let hi := min (d + n) (x.d + x.n)
    if lo < hi then
      let (b, f) := x.bytes rnd src (lo - x.d) (hi - lo)
      (bs ++ b, fl ||| f)
    else (bs, fl)) ([], 0)

/-! ## Checks at acceptance (R243) -/

def CopyCmd.srcForm (q : CopyCmd) : Word := q.a

def CopyCmd.dstForm (q : CopyCmd) : Word := q.b

/-- The members that a CMC names, by core (R245). -/
def members (h : Nat) (w : Word) : List Nat :=
  let (x, y) := hilbertXY h
  (setBits 4 (formMask w)).map (fun i => hilbertH (x / 2 * 2 + i % 2) (y / 2 * 2 + i / 2))

/-- The stretches of row `r` of a CBB (R239). -/
def State.copyRuns (s : State) (h : Nat) (u : UnitId) (q : CopyCmd) (r : Nat) : List Run × Bool :=
  rowRuns (s.sideFmt h u q.srcForm) (s.sideFmt h u q.dstForm) (formOff h q.srcForm + r * q.shape.spitch)
    (formOff h q.dstForm + r * q.shape.dpitch) q.shape.rowb

/-- Destination bytes of row `r` (R237). -/
def State.copyDstRow (s : State) (h : Nat) (u : UnitId) (q : CopyCmd) (r : Nat) : Nat :=
  if q.op = .cbb then runsBytes (s.copyRuns h u q r).1 else q.shape.rowb

/-- `left` bytes from byte `o` of a side are a whole number of elements or records, each of the bank in which it begins;
those of RAW have 4 bytes (R37, R239). -/
def rowWhole (f : Nat → Nat × Bool) : Nat → Nat → Nat → Bool
  | 0, _, left => left == 0
  | fuel + 1, o, left =>
    if left = 0 then true
    else
      let code := (f o).1
      let room := 0x4000 - o % 0x4000
      let size := if isRec code then recBytes code else elemSize code
      let k := if isRec code then min room left / size else min ((room + size - 1) / size) (left / size)
      k != 0 && rowWhole f fuel (o + k * size) (left - k * size)

/-- Each row of the source of a CBB or a CMC is a whole number of elements or records (R239). -/
def State.sourceWhole (s : State) (h : Nat) (u : UnitId) (q : CopyCmd) : Bool :=
  (List.range q.shape.rows).all (fun r =>
    rowWhole (s.sideFmt h u q.srcForm) 128 (formOff h q.srcForm + r * q.shape.spitch) q.shape.rowb)

/-- S of a gather or scatter. -/
def CopyCmd.esize (q : CopyCmd) : Nat := 2 ^ ((q.index.map (·.esz)).getD 0)

def CopyCmd.ecount (q : CopyCmd) : Nat := (q.index.map (·.count)).getD 0

/-- Check 1; `th` is the thread's shape and index state at acceptance. -/
def State.copyOperandBad (s : State) (h : Nat) (u : UnitId) (th : UnitWords) (q : CopyCmd) : Bool :=
  let many := decide (1 < q.shape.rows)
  (q.op.tileSrc && (formBad h q.srcForm false || formSh h q.srcForm)) ||
  (q.op.tileDst && formBad h q.dstForm false) || (q.op == .cmc && formBad h q.dstForm true) ||
  (if q.op.indexed then th.index.isNone else th.shape.isNone) ||
  (q.op.converts && isService h) || (q.op == .cmc && (members h q.dstForm).any isService) ||
  (q.op.tileDst && s.shadowBad h u q.dstForm) ||
  (!q.op.indexed && many &&
    (decide (q.shape.spitch < q.shape.rowb) || (q.op != .cmc &&
      (List.range q.shape.rows).any (fun r => decide (q.shape.dpitch < s.copyDstRow h u q r))))) ||
  (q.op == .cgath && q.a.toNat % q.esize != 0) || (q.op == .cscat && q.b.toNat % q.esize != 0)

/-- The ranges of a tile side that a command touches: rows of `n r` bytes, or elements. -/
def CopyCmd.rowsAt (q : CopyCmd) (off pitch : Nat) (n : Nat → Nat) : List (Nat × Nat) :=
  if q.op.indexed then (List.range q.ecount).map (fun i => (off + i * q.esize, q.esize))
  else (List.range q.shape.rows).map (fun r => (off + r * pitch, n r))

/-- A tile side of a command: its form, and the ranges that the command touches. -/
structure Side where
  form : Word
  rows : List (Nat × Nat)

/-- The sides that a command has: source, destination, index tile. -/
def State.copySides (s : State) (h : Nat) (u : UnitId) (q : CopyCmd) : List Side :=
  (if q.op.tileSrc then
    [{ form := q.srcForm, rows := q.rowsAt (formOff h q.srcForm) q.shape.spitch (fun _ => q.shape.rowb) }] else []) ++
  (if q.op.tileDst then
    [{ form := q.dstForm, rows := q.rowsAt (formOff h q.dstForm) q.shape.dpitch (s.copyDstRow h u q) }] else [])

/-- The index tile of a gather or scatter, read in one piece. -/
def CopyCmd.indexSide (h : Nat) (q : CopyCmd) : List Side :=
  match q.index with
  | some x => if q.op.indexed then [{ form := indexForm h x, rows := [(x.off, 4 * x.count)] }] else []
  | none => []

/-- An index bank is neither INT32 nor RAW (R35). -/
def State.indexBad (s : State) (h : Nat) (u : UnitId) (x : Side) : Bool :=
  x.rows.any (fun (o, n) => (banksOf o n).any (fun b =>
    !isService h && !([0, 8].contains (s.sideFmt h u x.form (b * 0x4000)).1)))

/-- The checks of a copy command, in order (R243). -/
def State.copyGate (s : State) (h : Nat) (u : UnitId) (th : UnitWords) (q : CopyCmd) : Gate :=
  let sides := s.copySides h u q
  let idx := q.indexSide h
  let bad (ok : Side → Nat → Nat → Bool) (l : List Side) : Bool :=
    l.any (fun x => x.rows.any (fun (o, n) => !ok x o n))
  (Gate.bad (s.copyOperandBad h u th q) Late.copf).then <|
  (Gate.all ((sides ++ idx).map (fun x => s.sideGate h u x.form))).then <|
  (Gate.bad (bad (fun x o n => s.sideOk h u x.form o n) (sides ++ idx)) Late.frng).then <|
  Gate.bad (bad (fun x o n => wholeRecords (fun b => (s.sideFmt h u x.form b).1) o n) sides ||
    idx.any (s.indexBad h u) ||
    (q.op == .cbb && (List.range q.shape.rows).any (fun r => !(s.copyRuns h u q r).2)) ||
    (q.op.converts && !s.sourceWhole h u q)) Late.fflt

/-! ## Dispatch (R234, R238, R242) -/

/-- Room in the queue; commands that reach beyond the core wait for the confirmation of the unit (R242). -/
def State.copyRoom (s : State) (q : CopyCmd) : Bool :=
  let h := s.curCore
  let c := s.core h
  let out := q.op == .clh || q.op == .cscat || (q.op == .cmc && (members h q.dstForm).any (· != h))
  decide (c.cpy.length < 16) && !c.formatPending && (!out || s.confirmed)

def Shape.none : Shape := { rows := 0, rowb := 0, dpitch := 0, spitch := 0 }

/-- The command as it stands when it is accepted: with the thread's shape and index state. -/
def State.copyCmd (s : State) (op : CopyOp) (a b : Reg) (cnt : Fin 16) (ce : Bool) (rnd : Rnd) : CopyCmd :=
  let w := s.cur.u
  { id := 0, op := op, tid := s.curTid, unit := s.unitId s.curCore, ply := 0, addr := s.cur.r.pc, a := s.g a, b := s.g b
    shape := w.shape.getD Shape.none, index := if op.indexed then w.index else none
    counter := if ce then some cnt.val else none, rnd := rnd, started := false, cap := [], next := 0, cur := none, aside := [], apart := []
    resume := [], denied := [], page := .none, flags := 0, disc := false, xaflt := false, xpden := false, cref := false
    leave := Leave.reset }

def State.copyDispatch (s : State) (q : CopyCmd) : Out :=
  s.dispatchChecked Un.cpy (fun s => s.copyRoom q) (fun s => s.copyGate s.curCore q.unit s.cur.u q) fun ply s =>
    let (id, s) := s.fresh
    s.modCore s.curCore fun c => { c with cpy := c.cpy ++ [{ q with id := id, ply := ply }] }

def execCshape (a b : Reg) (look : Fin 16) (s : State) : Out :=
  let _ := look
  s.dispatch Un.cpy roomy fun _ s =>
    match shapeOf (s.g a).toNat (s.g b).toNat with
    | some x => s.words fun u => { u with shape := some x, cstat := 0 }
    | none => s.words fun u => { u with cstat := 2 }

def execCidx (a b : Reg) (look : Fin 16) (s : State) : Out :=
  let _ := look
  s.dispatch Un.cpy roomy fun _ s =>
    match indexOf s.curCore (s.g a) (s.g b) with
    | some x => s.words fun u => { u with index := some x, cstat := 0 }
    | none => s.words fun u => { u with cstat := 2 }

def execChl (a b : Reg) (look cnt : Fin 16) (ce : Bool) (s : State) : Out :=
  let _ := look
  s.copyDispatch (s.copyCmd .chl a b cnt ce .rne)
def execClh (a b : Reg) (look cnt : Fin 16) (ce : Bool) (s : State) : Out :=
  let _ := look
  s.copyDispatch (s.copyCmd .clh a b cnt ce .rne)
def execCbb (a b : Reg) (look cnt : Fin 16) (ce : Bool) (rnd : Rnd) (s : State) : Out :=
  let _ := look
  s.copyDispatch (s.copyCmd .cbb a b cnt ce rnd)
def execCmc (a b : Reg) (look cnt : Fin 16) (ce : Bool) (rnd : Rnd) (s : State) : Out :=
  let _ := look
  s.copyDispatch (s.copyCmd .cmc a b cnt ce rnd)
def execCgath (a b : Reg) (look cnt : Fin 16) (ce : Bool) (s : State) : Out :=
  let _ := look
  s.copyDispatch (s.copyCmd .cgath a b cnt ce .rne)
def execCscat (a b : Reg) (look cnt : Fin 16) (ce : Bool) (s : State) : Out :=
  let _ := look
  s.copyDispatch (s.copyCmd .cscat a b cnt ce .rne)

/-- CWAIT (R247). -/
def execCwait (look : Fin 16) (s : State) : Out :=
  let _ := look
  s.unitWait Un.cpy 0 (fun s => !(s.core s.curCore).cpy.any (fun q =>
    q.tid == s.curTid && q.unit == s.unitId s.curCore))

/-! ## Commands in flight -/

def State.copyOf (s : State) (h id : Nat) : Option CopyCmd := (s.core h).cpy.find? (fun q => q.id == id)

def State.modCopy (s : State) (h id : Nat) (f : CopyCmd → CopyCmd) : State :=
  s.modCore h fun c => { c with cpy := c.cpy.map (fun q => if q.id = id then f q else q) }

/-- Bytes that a command moves (R246). -/
def CopyCmd.moved (q : CopyCmd) : Nat := if q.op.indexed then q.ecount * q.esize else q.shape.rows * q.shape.rowb

/-- The engine starts the command next: it is the first that has not started, at most 4 are in flight, and its
thread is not halted (R241, R425). -/
def State.copyStarts (s : State) (h id : Nat) : Bool :=
  let c := s.core h
  match c.cpy.find? (fun q => !q.started) with
  | some q => q.id == id && decide ((c.cpy.filter (·.started)).length < 4) &&
      !(c.unit.map (·.id) == some q.unit && (c.thread q.tid).halted)
  | none => false

/-- What a command reads as it starts: the source rows of a CMC, the indices of a gather or scatter (R244,
R245). -/
def State.copyCapture (s : State) (h : Nat) (q : CopyCmd) : List Byte :=
  match q.op with
  | .cmc => (List.range q.shape.rows).flatMap (fun r =>
      (s.sideRead h q.unit q.a (formOff h q.a + r * q.shape.spitch) q.shape.rowb).getD [])
  | .cgath | .cscat =>
    match q.index with
    | some x => (s.sideRead h q.unit (indexForm h x) x.off (4 * x.count)).getD []
    | none => []
  | _ => []

/-- The copy engine's place in a core's table of leave held ahead of need (R347). -/
def copyEngine : Nat := 2

/-- A place holds leave: an engine its own, the copy engine that of ELEAVE or of a command (R246, R347, R348). -/
def Core.placeHeld (c : Core) (i : Nat) : Bool := (c.engineLeave i).held || (i == copyEngine && c.cpy.any (·.leave.held))

/-- COPY_COMMAND_START: a command of more than 1 MiB takes the leave that ELEAVE obtained, or asks for one (R241,
R246, R347). -/
def execCopyCommandStart (h n : Nat) (s : State) : Out :=
  if !s.copyStarts h n then .next s
  else
    match s.copyOf h n with
    | none => .next s
    | some q =>
      let cap := s.copyCapture h q
      let big := decide (2 ^ 20 < q.moved)
      let pre := big && ((s.core h).engineLeave copyEngine).held
      let s := if pre then s.modCore h (·.modLeave copyEngine fun _ => Leave.reset)
        else if big then s.askLeave h 2 n (s.resClass h) else s
      .next (s.modCopy h n fun q =>
        { q with started := true, cap := cap, leave := { q.leave with wanted := big, held := pre } })

/-! ## Accesses to memory (R239, R246, R282, R289) -/

/-- How one access to memory ends: done, an access fault, a refusal, or a page request. -/
inductive MemEnd (α : Type) where
  | ok (x : α)
  | access
  | refused
  | page (p : PageWait)

/-- Translates one piece of a command's memory side and finds its home; it waits while the port to another module carries
no traffic (R353; log 8). -/
def State.copyPlace (s : State) (h : Nat) (q : CopyCmd) (va : Nat) (k : AccessKind) : State × MemEnd Loc :=
  let (s, r) := s.engineTranslate h q.tid q.unit.ctx 1 va k
  match r with
  | .access => (s, .access)
  | .page p => (s, .page p)
  | .ok spa =>
    if !s.routeOpen spa then (s, .page .none)
    else
      match s.locOf q.unit.ctx spa with
      | some l => (s, .ok l)
      | none => (s, .refused)

/-- Reads bytes of memory; a read of poisoned bytes is charged to the tenant (R428). -/
def State.copyRead (s : State) (h : Nat) (q : CopyCmd) (va n : Nat) : State × MemEnd (List Byte) :=
  (piecesOf va n).foldl (fun (s, acc) (a, len) =>
    match acc with
    | .ok bs =>
      let (s, r) := s.copyPlace h q a .copyRead
      match r with
      | .ok l =>
        if s.poisoned l len then (s.strike q.unit.ctx, .refused) else (s, .ok (bs ++ s.readLoc l len))
      | .access => (s, .access)
      | .refused => (s, .refused)
      | .page p => (s, .page p)
    | r => (s, r)) (s, .ok [])

/-- A write after which a row has covered a whole granule of HBM clears its poison: `n` bytes of the row end with it
(R428; log 61). -/
def State.healRow (s : State) (l : Loc) (n len : Nat) : State :=
  match l with
  | .mem a => if (a + len) % 32 = 0 ∧ 32 ≤ n then s.healed (a + len - 32) 32 else s
  | .saved .. => s

/-- Writes bytes of memory, after `before` bytes of the same row. -/
def State.copyWrite (s : State) (h : Nat) (q : CopyCmd) (va : Nat) (bs : List Byte) (before : Nat) : State × MemEnd Unit :=
  let (s, r) := s.copyPlace h q va .copyWrite
  match r with
  | .ok l => ((s.storeLoc q.unit.ctx l bs).healRow l (before + bs.length) bs.length, .ok ())
  | .access => (s, .access)
  | .refused => (s, .refused)
  | .page p => (s, .page p)

/-- The bytes of a performed write count in the command's counter (R240). -/
def State.countBytes (s : State) (h : Nat) (u : UnitId) (k : Option Nat) (n : Nat) : State :=
  match k with
  | some c => s.addCounter h u c (-(n : Int))
  | none => s

/-! ## Rows: CHL, CLH, CBB (R238) -/

/-- The write that begins at byte `d` of a row whose destination address is `a`: up to the next 8-byte boundary
(R240). -/
def pieceLen (a d row : Nat) : Nat := min (8 - (a + d) % 8) (row - d)

/-- How far a row command is: the row, of a CMC at each member in turn, and the byte of it that come next. -/
def CopyCmd.row (q : CopyCmd) : Nat := q.next / 2 ^ 32

def CopyCmd.col (q : CopyCmd) : Nat := q.next % 2 ^ 32

/-- The progress of a row command after `n` further bytes of a row of `len`. -/
def CopyCmd.advance (q : CopyCmd) (n len : Nat) : Nat :=
  if q.col + n < len then q.next + n else (q.row + 1) * 2 ^ 32

/-- A write of a row command is over: `n` bytes further on. -/
def State.copyPast (s : State) (h id n len : Nat) (f : CopyCmd → CopyCmd) : State :=
  s.modCopy h id fun q => f { q with next := q.advance n len, page := .none }

/-- Ends an access of a command: what the completion reports, or the page wait. -/
def State.copyEnd {α : Type} (s : State) (h id n len : Nat) (r : MemEnd α) : State :=
  match r with
  | .ok _ => s.copyPast h id n len fun q => q
  | .access => s.copyPast h id n len fun q => { q with xaflt := true }
  | .refused => s.copyPast h id n len fun q => { q with cref := true }
  | .page p => s.modCopy h id fun q => { q with page := p }

/-- The next write of CHL, CLH or CBB. -/
def State.rowWrite (s : State) (h : Nat) (q : CopyCmd) : State :=
  let u := q.unit
  let r := q.row
  let d := q.col
  let dr := s.copyDstRow h u q r
  match q.op with
  | .chl =>
    let o := formOff h q.b + r * q.shape.dpitch
    let n := pieceLen o d dr
    let (s, x) := s.copyRead h q ((q.a.toNat + r * q.shape.spitch + d) % 2 ^ 64) n
    match x with
    | .ok bs =>
      match s.sideWrite h u q.b (o + d) bs with
      | some s => (s.countBytes h u q.counter n).copyPast h q.id n dr id
      | none => s.copyPast h q.id n dr id
    | x => s.copyEnd h q.id n dr x
  | .clh =>
    let a := (q.b.toNat + r * q.shape.dpitch) % 2 ^ 64
    let n := pieceLen a d dr
    match s.sideRead h u q.a (formOff h q.a + r * q.shape.spitch + d) n with
    | none => s.copyPast h q.id n dr fun q => { q with cref := true }
    | some bs =>
      let (s, x) := s.copyWrite h q ((a + d) % 2 ^ 64) bs d
      let s := match x with
        | .ok _ => s.countBytes h u q.counter n
        | _ => s
      s.copyEnd h q.id n dr x
  | _ =>
    let o := formOff h q.b + r * q.shape.dpitch
    let n := pieceLen o d dr
    let src (k m : Nat) : List Byte := (s.sideRead h u q.a (formOff h q.a + r * q.shape.spitch + k) m).getD []
    let (bs, fl) := convPiece (s.copyRuns h u q r).1 q.rnd src d n
    match s.sideWrite h u q.b (o + d) bs with
    | some s => (s.countBytes h u q.counter n).copyPast h q.id n dr fun q => { q with flags := q.flags ||| fl }
    | none => s.copyPast h q.id n dr id

/-! ## Multicast (R245, R459) -/

/-- The unit of the issuing unit's launch on a receiving core. -/
def State.receiver (s : State) (h : Nat) (u : UnitId) : Option UnitId :=
  let c := s.core h
  let mine (v : UnitId) : Bool := v.ctx == u.ctx && v.lnum == u.lnum
  if c.unit.map (·.id) = some u then some u
  else if (s.evictedOf h u).isSome then some u
  else
    match c.unit with
    | some r => if mine r.id then some r.id else ((c.evicted.find? (fun e => mine e.res.id)).map (·.res.id))
    | none => (c.evicted.find? (fun e => mine e.res.id)).map (·.res.id)

/-- The stretches of row `r` at member `m`, by the receiver's own banks, and whether they are the whole row (R239, R459). -/
def State.receiverRuns (s : State) (h m : Nat) (v : UnitId) (q : CopyCmd) (r : Nat) : List Run × Bool :=
  rowRuns (s.sideFmt h q.unit q.srcForm) (s.sideFmt m v q.b) (formOff h q.srcForm + r * q.shape.spitch)
    (formOff h q.b + r * q.shape.dpitch) q.shape.rowb

/-- A receiver's own checks as the write of bytes [d, d + n) of a row arrives: its entry, the shape, the range and the tail
bytes of the write, and whole records in the banks that it reaches (R459). -/
def State.receives (s : State) (h m : Nat) (v : UnitId) (q : CopyCmd) (rs : List Run) (o d n : Nat) : Bool :=
  match s.unitTile m v (formEntry q.b) with
  | none => false
  | some t =>
    (if formSh h q.b then !t.nosh && !t.freeing else t.st == .ready) &&
    !(decide (1 < q.shape.rows) && decide (q.shape.dpitch < runsBytes rs)) && s.inTile m v t (o + d) n &&
    (rs.filter (fun x => decide (x.d < d + n) && decide (d < x.d + x.n))).all (fun x =>
      wholeRecords (fun b => (s.sideFmt m v q.b b).1) (o + x.d) x.n)

/-- The next write of a CMC: of a row at a member. What its receiver's banks cannot take, and a write whose checks fail, is
discarded (R240, R245, R459). -/
def State.mcastWrite (s : State) (h : Nat) (q : CopyCmd) : State :=
  let r := q.row % q.shape.rows
  let m := (members h q.b).getD (q.row / q.shape.rows) h
  let o := formOff h q.b + r * q.shape.dpitch
  match s.receiver m q.unit with
  | none => s.copyPast h q.id q.shape.rowb q.shape.rowb fun q => { q with disc := true }
  | some v =>
    let (rs, whole) := s.receiverRuns h m v q r
    let len := runsBytes rs
    if len ≤ q.col then s.copyPast h q.id q.shape.rowb q.col fun q => { q with disc := q.disc || !whole }
    else
      let n := pieceLen o q.col len
      let past (s : State) (f : CopyCmd → CopyCmd) : State := s.copyPast h q.id n (if whole then len else len + 1) f
      if !s.receives h m v q rs o q.col n then past s fun q => { q with disc := true }
      else
        let row := (q.cap.drop (r * q.shape.rowb)).take q.shape.rowb
        let (bs, fl) := convPiece rs q.rnd (fun k n => (row.drop k).take n) q.col n
        match s.sideWrite m v q.b (o + q.col) bs with
        | some s => past (s.countBytes m v q.counter n) fun q => { q with flags := q.flags ||| fl }
        | none => past s fun q => { q with disc := true }

/-! ## Gather and scatter (R244, R458) -/

/-- The VA of element `i`. -/
def CopyCmd.elemVa (q : CopyCmd) (i : Nat) : Nat :=
  let base : Word := if q.op = .cgath then q.a else q.b
  (base + BitVec.ofInt 64 (sInt 32 (numOf ((q.cap.drop (4 * i)).take 4)) * (q.esize : Int))).toNat

/-- The element that the engine performs next, and whether it was set aside before: the element in progress, then those
whose page has come, then the first pass (R458). -/
def CopyCmd.nextElem (q : CopyCmd) : Option (Nat × Bool) :=
  match q.cur, q.resume with
  | some e, _ => some e
  | none, i :: _ => some (i, true)
  | none, [] =>
    (((List.range (q.ecount - q.next)).map (· + q.next)).find? (fun i => !q.apart.contains i)).map (fun i => (i, false))

/-- Element `i` is over. -/
def CopyCmd.elemPast (q : CopyCmd) (i : Nat) (again : Bool) : CopyCmd :=
  if again then { q with cur := none, resume := q.resume.filter (· != i), page := .none }
  else { q with cur := none, next := i + 1, page := .none }

/-- Element `i` is set aside with a tag, and with it every later element of its page: of those still to come, or, where it
faults again, of those set aside with it. -/
def CopyCmd.setAside (q : CopyCmd) (i tag : Nat) (again : Bool) : CopyCmd :=
  let here (j : Nat) : Bool := q.elemVa j / 0x10000 == q.elemVa i / 0x10000
  if again then
    { q with aside := q.aside ++ (q.resume.filter here).map (fun j => (j, tag)), page := .none, cur := none
             resume := q.resume.filter (fun j => !here j) }
  else
    let els := ((List.range (q.ecount - i)).map (· + i)).filter (fun j => here j && !q.apart.contains j)
    { q with aside := q.aside ++ els.map (fun j => (j, tag)), apart := q.apart ++ els, page := .none, cur := none }

/-- Moves one element, by one write of its S bytes: into the tile, or from it (R458). -/
def State.elemMove (s : State) (h : Nat) (q : CopyCmd) (i : Nat) : State × MemEnd Unit :=
  let u := q.unit
  let n := q.esize
  let va := q.elemVa i
  if q.op = .cgath then
    let (s, x) := s.copyRead h q va n
    match x with
    | .ok bs =>
      match s.sideWrite h u q.b (formOff h q.b + i * n) bs with
      | some s => (s.countBytes h u q.counter n, .ok ())
      | none => (s, .ok ())
    | .access => (s, .access)
    | .refused => (s, .refused)
    | .page p => (s, .page p)
  else
    match s.sideRead h u q.a (formOff h q.a + i * n) n with
    | none => (s, .refused)
    | some bs =>
      let (s, x) := s.copyWrite h q va bs 0
      match x with
      | .ok _ => (s.countBytes h u q.counter n, .ok ())
      | .access => (s, .access)
      | .refused => (s, .refused)
      | .page p => (s, .page p)

/-- The next element of a gather or scatter. -/
def State.elemStep (s : State) (h : Nat) (q : CopyCmd) : State :=
  match q.nextElem with
  | none => s
  | some (i, again) =>
    let (s, x) := s.elemMove h q i
    match x with
    | .ok _ => s.modCopy h q.id (·.elemPast i again)
    | .access => s.modCopy h q.id fun q => { q.elemPast i again with xaflt := true }
    | .refused => s.modCopy h q.id fun q => { q.elemPast i again with cref := true }
    | .page (.tag _ tag) => s.modCopy h q.id (·.setAside i tag again)
    | .page (.replied _) => s.modCopy h q.id fun q => { q.elemPast i again with denied := q.denied ++ [i] }
    | .page p => s.modCopy h q.id fun q => { q with page := p, cur := some (i, again) }

/-! ## Progress and completion (R241, R243, R245, R289) -/

/-- Where the progress of a command ends: after its rows, after its rows at the last member, or after its elements. -/
def CopyCmd.total (q : CopyCmd) (h : Nat) : Nat :=
  match q.op with
  | .cmc => q.shape.rows * (members h q.b).length * 2 ^ 32
  | .cgath | .cscat => q.ecount
  | _ => q.shape.rows * 2 ^ 32

def CopyCmd.isDenied (q : CopyCmd) : Bool := q.page == .replied true

/-- Everything that the command is to write has been written, or it was denied its page. -/
def CopyCmd.isDone (q : CopyCmd) (h : Nat) : Bool :=
  q.started && (q.isDenied ||
    ((if q.op.indexed then q.nextElem.isNone else decide (q.total h ≤ q.next)) && q.aside.isEmpty && q.resume.isEmpty))

/-- The command can make a write now. -/
def State.copyMoves (s : State) (h : Nat) (q : CopyCmd) : Bool :=
  q.started && !q.isDone h && s.pageClear q.page && (!q.leave.wanted || q.leave.held) &&
  (!q.op.indexed || q.nextElem.isSome)

/-- The next write of a started command (R163, R240). -/
def State.copyStep (s : State) (h id : Nat) : State :=
  match s.copyOf h id with
  | none => s
  | some q =>
    if !s.copyMoves h q then s
    else
      match q.op with
      | .cmc => s.mcastWrite h q
      | .cgath | .cscat => s.elemStep h q
      | _ => s.rowWrite h q

/-- COPY_COMMAND_COMPLETE: flags, DISC of a CMC, and at most one late fault (R239, R243, R245). -/
def execCopyCommandComplete (h n : Nat) (s : State) : Out :=
  match s.copyOf h n with
  | none => .next s
  | some q =>
    if !q.isDone h then .next s
    else
      let s := s.modCore h fun c => { c with cpy := c.cpy.filter (fun p => p.id != n) }
      let s := if q.leave.held then s.modDie (dieOf h) fun d => { d with held := d.held - 1 } else s
      let s := s.flagsOf h q.unit q.tid q.flags
      let s := if q.op = .cmc then s.wordsOf h q.unit q.tid fun u => { u with disc := q.disc } else s
      let s := s.accessOver q.unit
      let late (code : Nat) : State :=
        s.lateUnit h q.unit q.tid { code := code, ply := q.ply, addr := q.addr, unit := Un.cpy }
      if q.xaflt then .next (late Late.xaflt)
      else if q.xpden || q.isDenied || !q.denied.isEmpty then .next (late Late.xpden)
      else if q.cref then .next (late Late.cref)
      else .next s

end Sys2Proof.Machine
end

