-- ==== Sys2Proof/Machine/Threads.lean ====
section
/-! DEFINITION. Thread contexts: HSTART, HEXIT, HJOIN, WAITM, YIELD and YIELDU (R127–R133). -/

namespace Sys2Proof.Machine

/-- The operation goes on after accesses of the executing thread have been performed; a refusal among them is
taken instead. -/
def State.after (s : State) (p : Access → Bool) (k : State → State) : Out :=
  let s := s.drain s.curCore s.curTid p
  match s.takeRefused s.curCore s.curTid with
  | some s => .next s
  | none => .next (k s)

/-! ## HSTART (R129) -/

/-- The id that a starting helper takes; none: NORES. -/
def Resident.freeHelper (r : Resident) : Option Nat :=
  if r.helpers ≤ r.assigned.length then none
  else ((List.range 11).drop 1).find? (fun i => !r.assigned.contains i)

/-- A helper at its start. -/
def helperThread (pc arg tvec : Word) : Thread :=
  { Thread.reset with
    r := { Regs.reset with pc := pc }.writeG 3 arg
    t := { TrapRegs.reset with tvec := tvec } }

/-- Every access of the starter comes before every access of the helper. -/
def execHstart (d a b : Reg) (s : State) : Out :=
  let target := s.g a
  if target.toNat % 4 ≠ 0 then .next (s.trap 0x06 (target.toNat % 2 ^ 56))
  else
    match (s.res s.curCore).freeHelper with
    | none => .next (s.setG d 0).retire
    | some i =>
      s.after (fun _ => true) fun s =>
        let t := helperThread (s.g a) (s.g b) s.cur.t.tvec
        let s := s.modCore s.curCore fun c =>
          { c.claimReg i with
            unit := c.unit.map (fun r => { r with assigned := r.assigned ++ [i] })
            threads := tput c.threads i t }
        (s.setG d (w64 i)).retire

/-! ## HEXIT (R130, R186) -/

/-- The helper of an assigned id has exited. -/
def Core.helperDone (c : Core) (i : Nat) : Bool := (c.thread i).exited.isSome

/-- Helper ids are unassigned, and their threads are no more. -/
def Core.unassign (c : Core) (ids : List Nat) : Core :=
  { c with
    unit := c.unit.map (fun r => { r with assigned := r.assigned.filter (fun i => !ids.contains i) })
    threads := c.threads.filter (fun t => !ids.contains t.1) }

/-- What still holds a thread at HEXIT. -/
def State.exitHeld (s : State) (h tid : Nat) : Bool :=
  s.busy h tid (fun _ => true) || !(s.thread h tid).late.isEmpty ||
  (tid == 0 && !(s.res h).assigned.all (s.core h).helperDone)

/-- The thread is marked exited: its streams are disabled and its register bank is free. -/
def Core.exitThread (c : Core) (tid : Nat) (v : Word) : Core :=
  let c := c.modThread tid fun t => { t with exited := some v, wait := .none }
  let c := c.freeReg tid
  { c with
    vec := { c.vec with streams := tmap c.vec.streams (fun _ st => if st.owner = tid then { st with en := false } else st) } }

/-- HEXIT, once nothing but stores can hold it. -/
def State.exitNow (s : State) (h tid : Nat) (v : Word) : State :=
  if tid = 0 then
    let s := s.modCore h fun c => c.unassign ((c.unit.map (·.assigned)).getD [])
    if s.ucnt h = 1 then
      s.modCore h fun c => { c.exitThread 0 v with unit := c.unit.map (fun r => { r with exit0 := some v }) }
    else s.modThread h tid fun t => { t with wait := .hexit v }
  else s.modCore h (·.exitThread tid v)

def execHexit (a : Reg) (s : State) : Out :=
  let v := s.g a
  let h := s.curCore
  let tid := s.curTid
  if s.exitHeld h tid then .next (s.blockAt (.hexit v))
  else
    let s := s.drainPend h tid
    match s.takeRefused h tid with
    | some s => .next s
    | none => .next (s.exitNow h tid v)

/-! ## HJOIN (R131) -/

/-- The assigned ids of a mask, but the joining thread's own. -/
def Resident.joinIds (r : Resident) (m : Word) (tid : Nat) : List Nat :=
  r.assigned.filter (fun i => i != tid && m.getLsbD i)

/-- An earlier HJOIN waits for the id: by the step at which it began to wait, then by thread id. -/
def Core.contested (c : Core) (tid since i : Nat) : Bool :=
  c.threads.any (fun t => t.1 != tid && (match t.2.wait with
    | .hjoin _ ids at_ => ids.contains i && (decide (at_ < since) || (at_ == since && decide (t.1 < tid)))
    | _ => false))

/-- HJOIN's wake condition. -/
def Core.joinReady (c : Core) (ids : List Nat) : Bool :=
  ids.all (fun i => !((c.unit.map (·.assigned)).getD []).contains i || c.helperDone i)

/-- An HJOIN that goes on waiting treats ids that another has joined as not assigned. -/
def Thread.forgetIds (ids : List Nat) (t : Thread) : Thread :=
  match t.wait with
  | .hjoin d l since => { t with wait := .hjoin d (l.filter (fun i => !ids.contains i)) since }
  | _ => t

/-- HJOIN completes: the sum of the exit values of the ids that are its own to join. -/
def State.joinNow (s : State) (h tid : Nat) (d : Reg) (ids : List Nat) (since : Nat) : State :=
  let c := s.core h
  let mine := ids.filter (fun i => ((c.unit.map (·.assigned)).getD []).contains i && !c.contested tid since i)
  let sum : Word := mine.foldl (fun a i => a + ((c.thread i).exited.getD 0)) 0
  let s := mine.foldl (fun s i => s.drain h i (fun _ => true)) s
  let s := s.modCore h fun c =>
    let c := c.unassign mine
    { c with threads := tmap c.threads (fun _ t => t.forgetIds mine) }
  s.modThread h tid fun t => { t with r := t.r.writeG d sum }.advance

def execHjoin (d a : Reg) (s : State) : Out :=
  let h := s.curCore
  let tid := s.curTid
  let ids := (s.res h).joinIds (s.g a) tid
  if (s.core h).joinReady ids then
    let s := s.drainPend h tid
    match s.takeRefused h tid with
    | some s => .next s
    | none => .next (s.joinNow h tid d ids s.steps)
  else .next (s.blockAt (.hjoin d ids s.steps))

/-! ## WAITM (R132) -/

/-- The address is not one that WAITM may watch. -/
def waitmBad (h a : Nat) : Bool := a % 8 != 0 || decide ((if isService h then 0x200000 else 0x180000) ≤ a)

/-- The load is `ldo.acq.sys.d`: it follows the thread's accesses to the core's own memory. -/
def execWaitm (d a b : Reg) (s : State) : Out :=
  let h := s.curCore
  let va := s.g a
  if waitmBad h va.toNat then .next (s.trap 0x09 (addrInfo va 0 0))
  else
    match s.localCheck h va.toNat with
    | some sub => .next (s.trap 0x0A (addrInfo va 0 sub))
    | none =>
      s.after (fun x => !(match x.kind with
          | .store _ => true
          | _ => false) || x.home == .core h) fun s =>
        let v := w64 (numOf (s.localBytes h va.toNat 8))
        if v = s.g b then s.block (.waitm va (s.g b)) else (s.setG d v).retire

/-! ## YIELD and YIELDU (R133) -/

/-- A thread that has just issued comes last in the order of R104, which is all that YIELD asks for. -/
def execYield (s : State) : Out := .next s.retire

def execYieldu (s : State) : Out := .next (s.blockAt .yieldu)

end Sys2Proof.Machine
end

