-- ==== Sys2Proof/Machine/Tables.lean ====
section
/-! DEFINITION. Stage-2 tables: table pages of a partition's pool, composition of a grant, and the removal of
entries in a whole subtree (R274, R275, R295, R304–R306, R309, R310). -/

namespace Sys2Proof.Machine

/-! ## Table pages and entries -/

/-- Pages of a 512 MiB leaf (R274). -/
def bigPages : Nat := 0x2000

/-- Entry `i` of a stage-2 table, as the hardware that writes it reads it. -/
def State.entry (s : State) (t i : Nat) : Nat := numOf (s.readLoc (.mem (t + 8 * i)) 8)

/-- One entry write is one 8-byte event (R305). -/
def State.setEntry (s : State) (t i v : Nat) : State := { s with mem := memWrite s.mem (t + 8 * i) 8 v }

/-- The bytes of a 64 KiB page become zero. -/
def State.zeroPage (s : State) (a : Nat) : State :=
  { s with mem := s.mem.filter (fun e => !(decide (a ≤ e.1) && decide (e.1 < a + 0x10000))) }

/-- The table pages of a partition's pool. -/
def Part.poolPages (p : Part) : List Nat := (List.range (p.tpool.size / 0x10000)).map (fun i => p.tpool.base + 0x10000 * i)

/-- Takes the lowest free table page, zeroed; none: the pool is exhausted (R295). -/
def State.allocTable (s : State) (p : Nat) : Option (Nat × State) :=
  ((s.part p).poolPages.find? (fun a => !(s.part p).tables.contains a)).map fun a =>
    (a, (s.modPart p fun q => { q with tables := a :: q.tables }).zeroPage a)

/-- Table pages return to the pool. -/
def State.freeTables (s : State) (p : Nat) (gone : List Nat) : State :=
  s.modPart p fun q => { q with tables := q.tables.filter (fun a => !gone.contains a) }

/-- A pointer to a table (R275). -/
def tablePtr (a : Nat) : Nat := a + 1

/-- The table under entry `i` of table `t`: it is made where there is none, and a 512 MiB leaf is replaced by a
table of 64 KiB leaves (R309). -/
def State.childTable (s : State) (p t i : Nat) : Option (Nat × State) :=
  let e := s.entry t i
  if bit e 0 && !entryLeaf e then some (entryAddr e, s)
  else
    (s.allocTable p).map fun (a, s) =>
      let s := if bit e 0 then
          (List.range bigPages).foldl (fun s k => s.setEntry a k (bits e 29 23 * 2 ^ 29 + k * 0x10000 + e % 32)) s
        else s
      (a, s.setEntry t i (tablePtr a))

/-- The leaf of a context's stage 2 that maps a GPA, and whether it is one of 512 MiB. -/
def State.leafGo (s : State) (g : Nat) : Nat → Nat → Nat → Option (Nat × Bool)
  | 0, _, _ => none
  | n + 1, lvl, t =>
    let e := s.entry t (s2Index g lvl)
    if !bit e 0 then none
    else if entryLeaf e then some (e, lvl == 1)
    else s.leafGo g n (lvl + 1) (entryAddr e)

/-- s2_lookup (R305). -/
def State.leafOf (s : State) (c g : Nat) : Option (Nat × Bool) := s.leafGo g 3 0 (s.ctx c).ttb2

/-- A leaf: the address and the permissions (R275). -/
def leafEntry (spa perm : Nat) : Nat := spa + perm * 4 + 3

/-- R, W, X of an entry as a mask. -/
def entryPerm (e : Nat) : Nat := bits e 2 3

/-- R, W, X of an extent as a mask. -/
def Extent.perm (x : Extent) : Nat := b2n x.r + 2 * b2n x.w + 4 * b2n x.x

def Extent.holds (x : Extent) (q n : Nat) : Bool := decide (x.cpage ≤ q) && decide (q + n ≤ x.cpage + x.npages)

def Extent.meets (x : Extent) (q n : Nat) : Bool := decide (x.cpage < q + n) && decide (q < x.cpage + x.npages)

/-- The pieces of a range of pages that lie in one 512 MiB block each. -/
def blocksOf (lo hi : Nat) : List (Nat × Nat) :=
  (List.range ((hi + bigPages - 1) / bigPages - lo / bigPages)).map fun i =>
    let b := (lo / bigPages + i) * bigPages
    (max lo b, min hi (b + bigPages))

/-! ## Composition (R304–R306) -/

/-- A composition under way: the state, table pages that a leaf of 512 MiB replaced, and the pages left
invalid. -/
structure Comp where
  s : State
  gone : List Nat
  missing : Nat

/-- Removes the entries of the pages of one block. -/
def State.clearBlock (s : State) (c lo hi : Nat) : Option State :=
  let e0 := s.entry (s.ctx c).ttb2 (lo / 2 ^ 26)
  if !bit e0 0 then some s
  else
    let l1 := entryAddr e0
    let i := lo / bigPages % bigPages
    let e := s.entry l1 i
    if !bit e 0 then some s
    else if entryLeaf e ∧ lo % bigPages = 0 ∧ hi = lo + bigPages then some (s.setEntry l1 i 0)
    else
      (s.childTable (s.ctx c).part l1 i).map fun (l2, s) =>
        (List.range (hi - lo)).foldl (fun s k => s.setEntry l2 ((lo + k) % bigPages) 0) s

/-- compose, for the pages of one block (R305). -/
def Comp.block (k : Comp) (issuer c : Nat) (x : Extent) (perm lo hi : Nat) : Option Comp :=
  let s := k.s
  let p := (s.ctx c).part
  let ttb := (s.ctx c).ttb2
  let i := lo / bigPages % bigPages
  let parent (q : Nat) : Nat := (q - x.cpage + x.ppage) * 0x10000
  let whole := (s.leafOf issuer (parent lo)).filter fun e =>
    lo % bigPages == 0 && hi == lo + bigPages && parent lo % 2 ^ 29 == 0 && e.2
  match whole with
  | some (e, _) =>
    (s.childTable p ttb (lo / 2 ^ 26)).map fun (l1, s) =>
      let old := s.entry l1 i
      { k with
        s := s.setEntry l1 i (leafEntry (bits e 29 23 * 2 ^ 29) (entryPerm e &&& perm))
        gone := if bit old 0 && !entryLeaf old then entryAddr old :: k.gone else k.gone }
  | none =>
    let vs := (List.range (hi - lo)).map fun j =>
      match s.leafOf issuer (parent (lo + j)) with
      | some (e, big) => leafEntry (leafOut e (if big then 1 else 2) (parent (lo + j))) (entryPerm e &&& perm)
      | none => 0
    let missing := k.missing + (vs.filter (· == 0)).length
    if vs.all (· == 0) then (s.clearBlock c lo hi).map fun s => { k with s := s, missing := missing }
    else
      (s.childTable p ttb (lo / 2 ^ 26)).bind fun (l1, s) =>
        (s.childTable p l1 i).map fun (l2, s) =>
          { k with
            s := vs.zipIdx.foldl (fun s v => s.setEntry l2 ((lo + v.2) % bigPages) v.1) s
            missing := missing }

/-- Composes a range of pages of an extent; the pages left invalid, or none where the pool lacks pages. -/
def State.compose (s : State) (issuer c : Nat) (x : Extent) (perm lo hi : Nat) : Option (State × Nat) :=
  ((blocksOf lo hi).foldl (fun (k : Option Comp) b => k.bind (fun k => k.block issuer c x perm b.1 b.2))
    (some { s := s, gone := [], missing := 0 })).map fun k =>
      (k.s.freeTables (s.ctx c).part k.gone, k.missing)

/-! ## Withdrawal (R309, R310) -/

/-- The children of a context. -/
def State.childrenOf (s : State) (c : Nat) : List Nat :=
  (s.ctxs.filter (fun x => x.1 != c && x.2.level != 0 && x.2.parent == c)).map (·.1)

/-- A context and its descendants. -/
def State.subtree (s : State) (c : Nat) : List Nat := (s.ctxs.filter (fun x => s.reaches c x.1)).map (·.1)

/-- A range of pages of a context, and every range of a descendant that was composed from it (R310); a tree has at
most eight levels. -/
def State.derived (s : State) : Nat → Nat → Nat → Nat → List (Nat × Nat × Nat)
  | 0, _, _, _ => []
  | n + 1, c, lo, hi =>
    (c, lo, hi) :: (s.childrenOf c).flatMap fun d =>
      (s.ctx d).extents.flatMap fun x =>
        let a := max lo x.ppage
        let b := min hi (x.ppage + x.npages)
        if a < b then s.derived n d (a - x.ppage + x.cpage) (b - x.ppage + x.cpage) else []

/-- A table page lists no entry. -/
def State.tableEmpty (s : State) (t : Nat) : Bool := !s.mem.any (fun e => decide (t ≤ e.1) && decide (e.1 < t + 0x10000))

/-- A table under entry `i` that has become empty returns to the pool. -/
def State.pruneAt (s : State) (p t i : Nat) : State :=
  let e := s.entry t i
  if bit e 0 && !entryLeaf e && s.tableEmpty (entryAddr e) then (s.setEntry t i 0).freeTables p [entryAddr e] else s

def State.pruneBlock (s : State) (c lo : Nat) : State :=
  let p := (s.ctx c).part
  let ttb := (s.ctx c).ttb2
  let e := s.entry ttb (lo / 2 ^ 26)
  let s := if bit e 0 then s.pruneAt p (entryAddr e) (lo / bigPages % bigPages) else s
  s.pruneAt p ttb (lo / 2 ^ 26)

/-- Removes the entries of a range of pages in a context and everything composed from them; none where a split
lacks table pages. The buffers drop the translations that went through those pages (R309, R310). -/
def State.withdraw (s : State) (c lo hi : Nat) : Option State :=
  let rs := s.derived 8 c lo hi
  let cut := rs.foldl (fun (s : Option State) r =>
    (blocksOf r.2.1 r.2.2).foldl (fun s b => s.bind (fun s => s.clearBlock r.1 b.1 b.2)) s) (some s)
  cut.map fun s =>
    let s := rs.foldl (fun s r => (blocksOf r.2.1 r.2.2).foldl (fun s b => s.pruneBlock r.1 b.1) s) s
    rs.foldl (fun s r => s.dropGpa r.1 r.2.1 r.2.2) s

/-- The table pages below the root of a context's stage 2. -/
def State.tablesOf (s : State) (c : Nat) : List Nat :=
  (List.range 64).flatMap fun i =>
    let e := s.entry (s.ctx c).ttb2 i
    if bit e 0 then
      entryAddr e :: (List.range bigPages).filterMap fun j =>
        let e := s.entry (entryAddr e) j
        if bit e 0 && !entryLeaf e then some (entryAddr e) else none
    else []

/-- Every entry of a context's stage 2 goes; its root page stays. -/
def State.clearTables (s : State) (c : Nat) : State :=
  let gone := s.tablesOf c
  ((s.freeTables (s.ctx c).part gone).zeroPage (s.ctx c).ttb2).dropCtx c

end Sys2Proof.Machine
end

