-- ==== Sys2Proof/Machine/Vir.lean ====
section
/-! DEFINITION. Contexts within contexts: the VIR commands with their checks in order, and the ends of their drains
(chapter 13: R293–R317). -/

namespace Sys2Proof.Machine

/-! ## Answers of the context manager (R301, R317) -/

/-- What a VIR command does: a status and no change, or a new state with GRES where it gives one. -/
inductive VirEnd where
  | fail (status : Nat)
  | ok (s : State) (res : Option Word)

/-- The first failing check of a list. -/
def firstFail : List (Bool × Nat) → Option Nat
  | [] => none
  | (bad, st) :: l => if bad then some st else firstFail l

/-- Runs the checks in their order, then the effect. -/
def virChecked (checks : List (Bool × Nat)) (k : VirEnd) : VirEnd :=
  match firstFail checks with
  | some st => .fail st
  | none => k

/-- Sets GSTAT.STATUS and GRES. -/
def State.virReport (s : State) : VirEnd → State
  | .fail st => s.words (fun u => { u with gstat := st })
  | .ok s res => s.words (fun u => { u with gstat := 0, gres := res.getD u.gres })

/-- A VIR command: a provisional unit's waits at dispatch (R301). -/
def State.vir (s : State) (f : State → VirEnd) : Out :=
  s.dispatch Un.vir State.confirmed (fun _ s => s.virReport (f s))

/-- A drain starts; it belongs to the executing thread's command, which has just taken its ply number. -/
def State.addDrain (s : State) (kind : DrainKind) (covers : List Nat) : State :=
  let (id, s) := s.fresh
  let s : State := { s with drains := s.drains ++ [{ id := id, kind := kind, covers := covers }] }
  s.modCur fun t => { t with virPend := t.virPend ++ [(id, t.plyCtr - 1)] }

/-! ## Operands and ranges (R300, R301) -/

/-- A live child of the issuing context, not being deleted. -/
def State.childOk (s : State) (self c : Nat) : Bool :=
  match tget s.ctxs c with
  | some x => x.level != 0 && x.parent == self && c != self && x.st != .draining
  | none => false

/-- Every page of a range lies inside some extent that the issuer holds (R304); a root's extents are its memory. -/
def coveredBy (xs : List Extent) : Nat → Nat → Nat → Bool
  | 0, lo, hi => decide (hi ≤ lo)
  | n + 1, lo, hi =>
    decide (hi ≤ lo) ||
    (match xs.find? (fun x => decide (x.cpage ≤ lo) && decide (lo < x.cpage + x.npages)) with
      | some x => coveredBy xs n (x.cpage + x.npages) hi
      | none => false)

def Ctx.covers (x : Ctx) (lo n : Nat) : Bool := coveredBy x.extents (x.extents.length + 1) lo (lo + n)

/-- Two intervals meet. -/
def meets (a n b m : Nat) : Bool := decide (a < b + m) && decide (b < a + n)

/-- A range of pages of a context is still draining. -/
def State.memDraining (s : State) (c lo n : Nat) : Bool :=
  s.drains.any (fun d => match d.kind with
    | .revokeMem k a m rs => (k == c && meets a m lo n) || rs.any (fun r => r.1 == c && meets r.2.1 (r.2.2 - r.2.1) lo n)
    | _ => false)

/-- An interval of cores of a partition is still draining after a revocation there, or leaves the partition. -/
def State.coresDraining (s : State) (p lo n : Nat) : Bool :=
  s.drains.any (fun d => match d.kind with
    | .revokeCores i _ a m => (s.ctx i).part == p && meets a m lo n
    | _ => false) ||
  ((List.range n).any (fun i => (s.part p).leaving (lo + i)))

/-- The fields of g[a] for MEM and PAGES. -/
def virChild (a : Nat) : Nat := bits a 0 12
def virCpage (a : Nat) : Nat := bits a 12 32

/-! ## CTXNEW (R302) -/

/-- A context at its creation. -/
def Ctx.fresh (part level parent : Nat) (ttb1 : Word) (ttb2 off : Nat) : Ctx :=
  { Ctx.blank with part := part, level := level, parent := parent, st := .new, ttb1 := ttb1, ttb2 := ttb2, psaOff := off }

def State.ctxnew (s : State) (a b : Word) : VirEnd :=
  let self := s.curCtx
  let x := s.ctx self
  let c := tfree s.ctxs 0 4096
  let t := s.allocTable x.part
  virChecked
    [(a.toNat % 0x10000 != 0 || a.toNat / 2 ^ 48 != 0 || b.toNat % 2 ^ 14 != 0 || b.toNat / 2 ^ 21 != 0, St.badarg),
     (c.isNone || t.isNone, St.nores), (x.level == 7, St.depth)]
    (match c, t with
      | some c, some (t, s) =>
        .ok { s with ctxs := tput s.ctxs c (Ctx.fresh x.part (x.level + 1) self a t (bits b.toNat 14 7)) } (some (w64 c))
      | _, _ => .fail St.nores)

def execCtxnew (a b : Reg) (look : Fin 16) (s : State) : Out :=
  let _ := look
  s.vir fun s => s.ctxnew (s.g a) (s.g b)

/-! ## GRANT (R303–R307) -/

/-- Logical cores of determinism mode move off cores that leave, to the next remaining compute core (R333). -/
def Ctx.remapOut (x : Ctx) (gone : Nat → Bool) (left : List Nat) : Ctx :=
  { x with
    remap := x.remap.map fun h =>
      if gone h then ((left.find? (fun k => decide (h < k))).orElse (fun _ => left.head?)).getD h else h }

/-- The logical cores of a context move off cores that are no more its own; while it has none they stay (R333). -/
def State.remapOut (s : State) (c : Nat) : State :=
  let left := (s.ownCores c).filter (fun h => !isService h)
  s.modCtx c fun x => x.remapOut (fun h => !left.contains h) left

def State.grantCores (s : State) (a b : Word) : VirEnd :=
  let self := s.curCtx
  let x := s.ctx self
  let c := bits a.toNat 0 12
  let base := bits b.toNat 0 12
  let n := bits b.toNat 12 13
  virChecked
    [(a.toNat / 2 ^ 12 != 0 || b.toNat / 2 ^ 25 != 0 || n == 0 || decide (4096 < n), St.badarg),
     (!s.childOk self c, St.noctx),
     ((decide (0 < (s.ctx c).coreLen) && meets (s.ctx c).coreBase (s.ctx c).coreLen base n) ||
       !((List.range n).all (fun i => s.ownCore self (base + i))), St.overlap),
     (decide (0 < (s.ctx c).coreLen) || s.coresDraining x.part base n, St.busy),
     (x.st == .live && decide (base ≤ x.svch) && decide (x.svch < base + n), St.inuse)]
    (let s := ((s.modCtx c fun y => { y with coreBase := base, coreLen := n }).remapOut self).remapOut c
     .ok (s.addDrain (.coreGrant c base n) []) none)

def execGrantCores (a b : Reg) (look : Fin 16) (s : State) : Out :=
  let _ := look
  s.vir fun s => s.grantCores (s.g a) (s.g b)

def State.grantMem (s : State) (a b : Word) : VirEnd :=
  let self := s.curCtx
  let c := virChild a.toNat
  let x : Extent :=
    { cpage := virCpage a.toNat, npages := bits b.toNat 32 24 + 1, ppage := bits b.toNat 0 32
      r := a.getLsbD 44, w := a.getLsbD 45, x := a.getLsbD 46 }
  let nomap := a.getLsbD 47
  let s' := s.modCtx c fun y => { y with extents := y.extents ++ [x] }
  let made := if nomap then some (s', x.npages) else s'.compose self c x x.perm x.cpage (x.cpage + x.npages)
  virChecked
    [(a.toNat / 2 ^ 48 != 0 || b.toNat / 2 ^ 56 != 0 || decide (2 ^ 32 < x.cpage + x.npages) ||
       decide (2 ^ 32 < x.ppage + x.npages), St.badarg),
     (!s.childOk self c, St.noctx),
     ((s.ctx c).extents.any (fun y => y.meets x.cpage x.npages) || !(s.ctx self).covers x.ppage x.npages, St.overlap),
     (s.memDraining c x.cpage x.npages || s.memDraining self x.ppage x.npages, St.busy),
     (decide (64 ≤ (s.ctx c).extents.length) || made.isNone, St.nores)]
    (match made with
      | some (s, n) => .ok s (some (w64 n))
      | none => .fail St.nores)

def execGrantMem (a b : Reg) (look : Fin 16) (s : State) : Out :=
  let _ := look
  s.vir fun s => s.grantMem (s.g a) (s.g b)

/-- The extent of a context that holds a whole range of pages (R306). -/
def Ctx.extentOf (x : Ctx) (q n : Nat) : Option Extent := x.extents.find? (fun y => y.holds q n)

def State.grantPages (s : State) (a b : Word) : VirEnd :=
  let self := s.curCtx
  let c := virChild a.toNat
  let q := virCpage a.toNat
  let n := bits b.toNat 0 24 + 1
  let x := (s.ctx c).extentOf q n
  let made := x.bind fun x => s.compose self c x (x.perm &&& bits a.toNat 44 3) q (q + n)
  virChecked
    [(a.toNat / 2 ^ 47 != 0 || b.toNat / 2 ^ 24 != 0 || decide (2 ^ 32 < q + n), St.badarg),
     (!s.childOk self c, St.noctx), (x.isNone, St.overlap), (s.memDraining c q n, St.busy), (made.isNone, St.nores)]
    (match made with
      | some (s, n) => .ok s (some (w64 n))
      | none => .fail St.nores)

def execGrantPages (a b : Reg) (look : Fin 16) (s : State) : Out :=
  let _ := look
  s.vir fun s => s.grantPages (s.g a) (s.g b)

def State.grantQueues (s : State) (a b : Word) : VirEnd :=
  let self := s.curCtx
  let c := bits a.toNat 0 12
  let n := b.toNat
  virChecked
    [(a.toNat / 2 ^ 12 != 0 || decide (2 ^ 8 ≤ n), St.badarg), (!s.childOk self c, St.noctx),
     (decide ((s.ctx self).queues < n), St.nores)]
    (let s := s.modCtx self fun x => { x with queues := x.queues - n }
     .ok (s.modCtx c fun x => { x with queues := x.queues + n, queuesGot := x.queuesGot + n }) none)

def execGrantQueues (a b : Reg) (look : Fin 16) (s : State) : Out :=
  let _ := look
  s.vir fun s => s.grantQueues (s.g a) (s.g b)

def State.grantCells (s : State) (a b : Word) : VirEnd :=
  let self := s.curCtx
  let c := bits a.toNat 0 12
  let n := b.toNat
  virChecked
    [(a.toNat / 2 ^ 12 != 0 || decide (2 ^ 16 ≤ n), St.badarg), (!s.childOk self c, St.noctx),
     (decide ((s.ctx self).cells < n), St.nores)]
    (let s := s.modCtx self fun x => { x with cells := x.cells - n }
     .ok (s.modCtx c fun x => { x with cells := x.cells + n, cellsGot := x.cellsGot + n }) none)

def execGrantCells (a b : Reg) (look : Fin 16) (s : State) : Out :=
  let _ := look
  s.vir fun s => s.grantCells (s.g a) (s.g b)

/-- A context of the issuer's partition that is not being deleted. -/
def State.inPartition (s : State) (self c : Nat) : Bool :=
  match tget s.ctxs c with
  | some x => x.part == (s.ctx self).part && x.st != .draining
  | none => false

def State.grantVf (s : State) (a b : Word) : VirEnd :=
  let self := s.curCtx
  let c := bits a.toNat 0 12
  let v := b.toNat
  virChecked
    [(a.toNat / 2 ^ 12 != 0 || decide (2 ^ 9 ≤ v), St.badarg), (!s.inPartition self c, St.noctx),
     ((s.ctx self).level != 0 || (s.vfOf v).part != some (s.ctx self).part, St.denied),
     ((s.ctx c).vf.isSome || (s.vfOf v).bound.isSome || (s.vfOf v).resetting.isSome, St.busy)]
    (.ok ((s.modVf v fun y => { y with bound := some c }).modCtx c fun x => { x with vf := some v }) none)

def execGrantVf (a b : Reg) (look : Fin 16) (s : State) : Out :=
  let _ := look
  s.vir fun s => s.grantVf (s.g a) (s.g b)

/-! ## REVOKE (R309–R312) -/

/-- The cores on which a unit of a launch has started. -/
def UnitSt.startedOn : UnitSt → Option Nat
  | .resident h => some h
  | .evicted h .. => some h
  | _ => none

/-- Stops the units of a subtree that have started on cores of an interval (R311). -/
def State.stopOn (s : State) (cs : List Nat) (base n : Nat) : State :=
  (s.launches.foldl (fun s l =>
    if cs.contains l.2.ctx then
      l.2.units.foldl (fun s u => match u.2.startedOn with
        | some h => if base ≤ h ∧ h < base + n then s.cancelUnit l.1 u.1 else s
        | none => s) s
    else s) s).settle

/-- Grants of cores to a subtree that had not completed are no more. -/
def State.dropGrants (s : State) (cs : List Nat) : State :=
  { s with
    drains := s.drains.filter (fun d => match d.kind with
      | .coreGrant k _ _ => !cs.contains k
      | _ => true) }

/-- REVOKE CORES leaves the subtree without cores; the interval returns to the issuer when its units have gone. -/
def State.revokeCores (s : State) (a b : Word) : VirEnd :=
  let self := s.curCtx
  let c := bits a.toNat 0 12
  let x := s.ctx c
  virChecked
    [(a.toNat / 2 ^ 12 != 0 || b != 0, St.badarg), (!s.childOk self c, St.noctx), (x.coreLen == 0, St.overlap),
     (s.coresDraining x.part x.coreBase x.coreLen, St.busy),
     (x.st == .live && decide (x.coreBase ≤ x.svch) && decide (x.svch < x.coreBase + x.coreLen), St.inuse)]
    (let cs := s.subtree c
     let s := cs.foldl (fun s d => s.modCtx d fun y => { y with coreBase := 0, coreLen := 0 }) (s.dropGrants cs)
     .ok ((s.stopOn cs x.coreBase x.coreLen).addDrain (.revokeCores self c x.coreBase x.coreLen) []) none)

def execRevokeCores (a b : Reg) (look : Fin 16) (s : State) : Out :=
  let _ := look
  s.vir fun s => s.revokeCores (s.g a) (s.g b)

/-- Accesses of a subtree that have left their translation (R312). -/
def State.translated (s : State) (cs : List Nat) : List Nat :=
  (s.inflight.filter (fun a => cs.contains a.unit.ctx && decide (0x200000 ≤ a.va.toNat))).map (·.id)

/-- A withdrawal of pages, with its drain. -/
def State.revokeRange (s : State) (c q n : Nat) : Option State :=
  let covers := s.translated (s.subtree c)
  let rs := (s.derived 8 c q (q + n)).drop 1
  (s.withdraw c q (q + n)).map fun s => s.addDrain (.revokeMem c q n rs) covers

def State.revokeMem (s : State) (a b : Word) : VirEnd :=
  let self := s.curCtx
  let c := virChild a.toNat
  let q := virCpage a.toNat
  let x := (s.ctx c).extents.find? (fun x => x.cpage == q)
  let n := (x.map (·.npages)).getD 0
  let done := s.revokeRange c q n
  virChecked
    [(a.toNat / 2 ^ 44 != 0 || b != 0, St.badarg), (!s.childOk self c, St.noctx), (x.isNone, St.overlap),
     (s.memDraining c q n, St.busy), (done.isNone, St.nores)]
    (match done with
      | some s => .ok (s.modCtx c fun y => { y with extents := y.extents.filter (fun x => x.cpage != q) }) none
      | none => .fail St.nores)

def execRevokeMem (a b : Reg) (look : Fin 16) (s : State) : Out :=
  let _ := look
  s.vir fun s => s.revokeMem (s.g a) (s.g b)

def State.revokePages (s : State) (a b : Word) : VirEnd :=
  let self := s.curCtx
  let c := virChild a.toNat
  let q := virCpage a.toNat
  let n := bits b.toNat 0 24 + 1
  let done := s.revokeRange c q n
  virChecked
    [(a.toNat / 2 ^ 44 != 0 || b.toNat / 2 ^ 24 != 0 || decide (2 ^ 32 < q + n), St.badarg),
     (!s.childOk self c, St.noctx), (((s.ctx c).extentOf q n).isNone, St.overlap), (s.memDraining c q n, St.busy),
     (done.isNone, St.nores)]
    (match done with
      | some s => .ok s none
      | none => .fail St.nores)

def execRevokePages (a b : Reg) (look : Fin 16) (s : State) : Out :=
  let _ := look
  s.vir fun s => s.revokePages (s.g a) (s.g b)

/-- The most queues that a context holds open on one die (R384). -/
def State.queuesOpen (s : State) (c : Nat) : Nat :=
  s.dies.foldl (fun m d => max m (d.2.col.queues.filter (fun q => q.2.ctx == c)).length) 0

def State.revokeQueues (s : State) (a b : Word) : VirEnd :=
  let self := s.curCtx
  let c := bits a.toNat 0 12
  let n := b.toNat
  let x := s.ctx c
  virChecked
    [(a.toNat / 2 ^ 12 != 0 || decide (2 ^ 8 ≤ n), St.badarg), (!s.childOk self c, St.noctx),
     (decide (x.queuesGot < n), St.overlap), (decide (x.queues < n + s.queuesOpen c), St.inuse)]
    (let s := s.modCtx c fun x => { x with queues := x.queues - n, queuesGot := x.queuesGot - n }
     .ok (s.addDrain (.revokeQty self n 0) []) none)

def execRevokeQueues (a b : Reg) (look : Fin 16) (s : State) : Out :=
  let _ := look
  s.vir fun s => s.revokeQueues (s.g a) (s.g b)

/-- An operation of the context leases cells; its weight is then in use. -/
def State.leasing (s : State) (c : Nat) : Bool :=
  let leases (b : Nat × Handle) : Bool := b.2.ops.any (fun o => o.unit.ctx == c && decide (0 < o.cells))
  s.cores.any (fun k => k.2.bus.any leases || k.2.evicted.any (fun e => e.bus.any leases))

def State.revokeCells (s : State) (a b : Word) : VirEnd :=
  let self := s.curCtx
  let c := bits a.toNat 0 12
  let n := b.toNat
  let x := s.ctx c
  virChecked
    [(a.toNat / 2 ^ 12 != 0 || decide (2 ^ 16 ≤ n), St.badarg), (!s.childOk self c, St.noctx),
     (decide (x.cellsGot < n), St.overlap),
     (decide (x.cells < n) || (s.leasing c && n != 0), St.inuse)]
    (let s := s.modCtx c fun x => { x with cells := x.cells - n, cellsGot := x.cellsGot - n }
     .ok (s.addDrain (.revokeQty self 0 n) []) none)

def execRevokeCells (a b : Reg) (look : Fin 16) (s : State) : Out :=
  let _ := look
  s.vir fun s => s.revokeCells (s.g a) (s.g b)

/-- The binding of a context's VF is dissolved. -/
def State.unbindVf (s : State) (c : Nat) : State :=
  match (s.ctx c).vf with
  | some v => (s.modVf v fun y => { y with bound := none }).modCtx c fun x => { x with vf := none }
  | none => s

def State.revokeVf (s : State) (a b : Word) : VirEnd :=
  let self := s.curCtx
  let c := bits a.toNat 0 12
  virChecked
    [(a.toNat / 2 ^ 12 != 0 || b != 0, St.badarg), (!s.inPartition self c, St.noctx),
     ((s.ctx self).level != 0, St.denied), ((s.ctx c).vf.isNone, St.overlap),
     (((s.ctx c).vf.map (fun v => (s.vfOf v).resetting.isSome)).getD false, St.busy)]
    (.ok (s.unbindVf c) none)

def execRevokeVf (a b : Reg) (look : Fin 16) (s : State) : Out :=
  let _ := look
  s.vir fun s => s.revokeVf (s.g a) (s.g b)

/-! ## CTXDEL (R313) -/

/-- A copy of a record of target `t` lies in an area of one of the contexts: of the target's own partition, since the
mailboxes of castling partners bear the same numbers. -/
def State.copyIn (s : State) (cs : List Nat) (t : Nat) (r : Nat × Nat) : Bool :=
  cs.any (fun c => (s.ctx c).part == (s.ctx t).part && (s.ctx c).svch == r.1 && decide ((s.ctx c).psaOff * 0x4000 ≤ r.2) &&
    decide (r.2 < ((s.ctx c).psaOff + 2) * 0x4000))

/-- Records of deleted contexts' areas: one that is there, or was to be posted there, is consumed as DENY or KILL; one that
REFLECT took further up stays there without the copy that goes, its waiter answered with DENY (R290, R313). -/
def State.denyPosts (s : State) (cs : List Nat) : State :=
  let s := (s.posts.filter (fun p => !p.mp && cs.contains p.target)).foldl (fun s p => s.consume p 2 0) s
  (s.posts.filter (fun p => p.copies.any (s.copyIn cs p.target))).foldl (fun s p =>
    let s : State := { s with
      posts := s.posts.map (fun q =>
        if q.id = p.id then { q with copies := q.copies.filter (fun r => !s.copyIn cs q.target r), waiter := .nobody } else q) }
    (s.applyReply p 2 0).settle) s

/-- A context of a subtree under deletion: it takes nothing and starts nothing, and its translations are gone. -/
def State.drainCtx (s : State) (c : Nat) : State :=
  let s := (s.unbindVf c).clearTables c
  let s : State := { s with
    cmds := s.cmds.filter (fun k => k.u.ctx != c), recs := s.recs.filter (fun r => r.ctx != c) }
  (s.modCtx c fun x => { x with st := .draining, extents := [], psaValid := false }).cancelJob c

/-- The deletion of a subtree begins; `issuer` takes its balances back when it ends. -/
def State.deleteCtx (s : State) (c : Nat) : State :=
  let cs := s.subtree c
  let s := cs.foldl State.drainCtx (s.dropGrants cs)
  ((s.dropColQueues cs).denyPosts cs).settle

def State.ctxdel (s : State) (a : Word) : VirEnd :=
  let self := s.curCtx
  let c := a.toNat
  virChecked [(decide (2 ^ 12 ≤ c), St.badarg), (!s.childOk self c, St.noctx)]
    (let covers := s.translated (s.subtree c)
     .ok ((s.deleteCtx c).addDrain (.delete self c) covers) none)

def execCtxdel (a : Reg) (look : Fin 16) (s : State) : Out :=
  let _ := look
  s.vir fun s => s.ctxdel (s.g a)

/-! ## CTXBUD, CTXSTAT (R307, R314) -/

def State.ctxbud (s : State) (a b : Word) : VirEnd :=
  let self := s.curCtx
  let c := a.toNat
  let n : Int := b.toInt
  virChecked
    [(decide (2 ^ 12 ≤ c), St.badarg), (!s.childOk self c, St.noctx),
     (decide ((s.ctx self).energy < n) || decide ((s.ctx c).energy < -n), St.nores)]
    (let s := s.modCtx self fun x => { x with energy := x.energy - n }
     let s := s.modCtx c fun x => { x with energy := x.energy + n }
     .ok s (some (BitVec.ofInt 64 (s.ctx c).energy)))

def execCtxbud (a b : Reg) (look : Fin 16) (s : State) : Out :=
  let _ := look
  s.vir fun s => s.ctxbud (s.g a) (s.g b)

def CtxSt.code : CtxSt → Nat
  | .new => 0
  | .live => 1
  | .draining => 2

/-- The snapshot of CTXSTAT. -/
def State.ctxSnapshot (s : State) (c : Nat) : Word :=
  let x := s.ctx c
  w64 ((if x.level = 0 then c else x.parent) + x.level * 2 ^ 12 + b2n x.vf.isSome * 2 ^ 15 + x.st.code * 2 ^ 16 +
    (s.childrenOf c).length * 2 ^ 20 + x.coreBase * 2 ^ 32 + x.coreLen * 2 ^ 44 + x.extents.length * 2 ^ 57)

def State.ctxstat (s : State) (a : Word) : VirEnd :=
  let self := s.curCtx
  let c := a.toNat
  virChecked
    [(decide (2 ^ 12 ≤ c), St.badarg),
     ((tget s.ctxs c).isNone || !s.reaches self c || (s.ctx c).st == .draining, St.noctx)]
    (.ok s (some (s.ctxSnapshot c)))

def execCtxstat (a : Reg) (look : Fin 16) (s : State) : Out :=
  let _ := look
  s.vir fun s => s.ctxstat (s.g a)

/-! ## CTXENTER (R296, R308, R333) -/

/-- The designated service core that CTXENTER fixes. -/
def State.serviceOf (s : State) (c : Nat) : Nat :=
  ((s.ownCores c).find? isService).getD (s.ctx (s.ctx c).parent).svch

/-- The two areas of a context on a core overlap those of another context whose mailbox it is, or lie beyond it (R308,
R410, R420). -/
def State.areasClash (s : State) (c h off : Nat) : Bool :=
  decide (0x80 < off + 2) ||
  s.ctxs.any (fun x => x.1 != c && x.2.psaValid && s.inForce x.1 && x.2.svch == h && meets off 2 x.2.psaOff 2)

/-- The context becomes LIVE on its service core. -/
def State.enterCtx (s : State) (c : Nat) : State :=
  let h := s.serviceOf c
  let a := aliasBase h + (s.ctx c).psaOff * 0x4000
  let s : State := { s with mem := s.mem.filter (fun e => !(decide (a ≤ e.1) && decide (e.1 < a + 0x8000))) }
  let det := (s.part (s.ctx c).part).det
  s.modCtx c fun x =>
    { x with
      svch := h, psaValid := true, st := .live
      remap := if det then ((List.range x.coreLen).map (· + x.coreBase)).filter (fun h => !isService h) else x.remap }

/-- A job begins with one unit of an image (R308, R429, R440). An image header at an address that is no multiple of 256
gives BADARG, as of a launch descriptor, or where the host starts the job IMGBAD (R320, R439; log 54). -/
def State.beginJob (s : State) (c h tid : Nat) (image arg : Word) (vf : Option Nat) : State × ImgRes :=
  if image.toNat % 256 ≠ 0 then (s, .fail (if vf.isSome then St.imgbad else St.badarg))
  else
  let (s, r, l) := s.launchJob c h tid image arg
  match r with
  | .ok img =>
    let s := s.startJob c image arg img.prio vf (((s.launch? l).map (·.porder)).getD 0)
    (s.settle, .ok img)
  | r => (s, r)

/-- The end of CTXENTER: GRES is the status of the launch. -/
def State.enterReport (s : State) (k : PendCmd) (st : Nat) : State :=
  s.wordsOf k.h k.u k.tid (fun u => { u with gstat := 0, gres := w64 st })

/-- The launch of CTXENTER's job, which may wait for a page; a context that is being deleted meanwhile starts none. -/
def State.enterJob (k : PendCmd) (s : State) : CmdEnd :=
  match k.op with
  | .ctxenter a image =>
    let c := a.toNat
    if k.page = .replied true ∨ (s.ctx c).st ≠ .live then .done (s.enterReport k St.imgmap)
    else
      let (s, r) := s.beginJob c k.h k.tid image 0 none
      match r with
      | .ok _ => .done (s.enterReport k St.ok)
      | .fail st => .done (s.enterReport k st)
      | .page p => .page s p
  | _ => .done s

/-- CTXENTER: the checks, the context's entry, and the launch of its job (R308). -/
def State.ctxenter (s : State) (ply : Word32) (a image : Word) : State :=
  let c := a.toNat
  match firstFail
    [(decide (2 ^ 12 ≤ c), St.badarg), (!s.childOk s.curCtx c, St.noctx),
     ((s.ctx c).st != .new || (s.ctx c).coreLen == 0, St.badarg),
     (s.areasClash c (s.serviceOf c) (s.ctx c).psaOff, St.overlap)] with
  | some st => s.virReport (.fail st)
  | none => (s.enterCtx c).enqueue Un.vir ply (.ctxenter a image) State.enterJob

def execCtxenter (a b : Reg) (look : Fin 16) (s : State) : Out :=
  let _ := look
  s.dispatch Un.vir State.confirmed fun ply s => s.ctxenter ply (s.g a) (s.g b)

/-! ## REFLECT and VIRWAIT (R315, R316) -/

/-- The area of the issuing context in which a record lies: its page-service area or its trap-message area. -/
def State.recordArea (s : State) (a : Nat) : Option Bool :=
  let x := s.ctx s.curCtx
  let inArea (off : Nat) : Bool := decide (off * 0x4000 + 0x40 ≤ a) && decide (a < (off + 1) * 0x4000)
  if s.curCore != x.svch || !x.psaValid || a % 64 != 0 then none
  else if inArea x.psaOff then some true
  else if inArea (x.psaOff + 1) then some false
  else none

/-- The words of a record as they stand, in the order in which a record is filled. -/
def State.recordWords (s : State) (h r : Nat) : List Word :=
  [0, 8, 0x10, 0x18, 0x30, 0x38].map (fun o => w64 (s.local8 h (r + o)))

/-- The record goes one level up; its copies are one record to a reply. -/
def State.reflect (s : State) (r : Nat) (page : Bool) : State :=
  let h := s.curCore
  let x := s.ctx s.curCtx
  let body := s.recordWords h r
  let up (p : Post) : Post :=
    { p with target := if x.level = 0 then s.curCtx else x.parent, mp := x.level == 0, body := body, due := true }
  let s := s.setLocal8 h (r + 0x20) (s.local8 h (r + 0x20) % 2 ^ 63 + 2 ^ 63)
  let here (p : Post) : Bool := p.copies.contains (h, r) && s.inForce p.target
  if s.posts.any here then
    { s with posts := s.posts.map (fun p => if here p && !p.due then up p else p) }
  else
    let (id, s) := s.addPost page x.parent false body .nobody none
    { s with posts := s.posts.map (fun p => if p.id = id then up { p with copies := [(h, r)] } else p) }

def execReflect (a : Reg) (look : Fin 16) (s : State) : Out :=
  let _ := look
  s.vir fun s =>
    let r := (s.g a).toNat
    match s.recordArea r with
    | none => .fail St.badarg
    | some page => if s.local8 s.curCore (r + 0x20) % 2 ^ 63 = 0 then .fail St.badarg else .ok (s.reflect r page) none

/-- Every VIR command of the thread has completed: none waits, and every drain that one started has ended. -/
def State.virDone (s : State) : Bool :=
  !s.cmdPend (s.unitId s.curCore) s.curTid (fun k => k.unit == Un.vir) && !s.cur.virPend.any (fun p => s.drains.any (fun d => d.id == p.1))

def execVirwait (look : Fin 16) (s : State) : Out :=
  let _ := look
  if !s.confirmed then s.waitDispatch Un.vir else s.unitWait Un.vir 0 State.virDone

/-! ## The ends of drains (R293, R303, R312, R313) -/

/-- A unit that `p` names, resident or evicted, has started on cores of an interval, or stands castled out from
there. -/
def State.unitsOn (s : State) (base n : Nat) (p : Nat → Bool) : Bool :=
  (s.cores ++ s.castled.flatMap (·.cores)).any (fun c => decide (base ≤ c.1) && decide (c.1 < base + n) &&
    ((c.2.unit.map (fun r => p r.id.ctx)).getD false || c.2.evicted.any (fun e => p e.res.id.ctx)))

/-- Every access that a drain covers has been performed. -/
def State.coveredDone (s : State) (d : Drain) : Bool := !s.inflight.any (fun a => d.covers.contains a.id)

/-- What still runs for a subtree under deletion. -/
def State.subtreeBusy (s : State) (cs : List Nat) : Bool :=
  s.unitsOn 0 4096 cs.contains || s.launches.any (fun l => cs.contains l.2.ctx && !l.2.isDone) ||
  s.inflight.any (fun a => cs.contains a.unit.ctx) ||
  (s.cores ++ s.castled.flatMap (·.cores)).any (fun c => c.2.cpy.any (fun q => cs.contains q.unit.ctx)) ||
  s.drains.any (fun d => match d.kind with
    | .revokeCores _ k _ _ => cs.contains k
    | .revokeMem k .. => cs.contains k
    | .revokeQty k _ _ => cs.contains k
    | .delete i k => cs.contains i && cs.contains k
    | _ => false)

/-- A drain has nothing left to wait for. -/
def State.drainOver (s : State) (d : Drain) : Bool :=
  s.coveredDone d &&
  match d.kind with
  | .coreGrant c b n => !s.unitsOn b n (fun k => (s.ctx k).part == (s.ctx c).part && !s.reaches c k)
  | .revokeCores _ c b n => !s.unitsOn b n (s.reaches c)
  | .delete _ c => !s.subtreeBusy (s.subtree c)
  | _ => true

def State.dropDrain (s : State) (id : Nat) : State := { s with drains := s.drains.filter (fun d => d.id != id) }

/-- CORE_GRANT_COMPLETE: the child's units may be placed. -/
def execCoreGrantComplete (ctx : Nat) (s : State) : Out :=
  match s.drains.find? (fun d => (match d.kind with
      | .coreGrant c _ _ => c == ctx
      | _ => false) && s.drainOver d) with
  | some d => .next (s.dropDrain d.id)
  | none => .next s

/-- REVOCATION_COMPLETE: the drain of a revocation ends, and a quantity returns to the issuer's balance. -/
def execRevocationComplete (n : Nat) (s : State) : Out :=
  match s.drains.find? (fun d => d.id == n) with
  | none => .next s
  | some d =>
    if !s.drainOver d then .next s
    else
      match d.kind with
      | .revokeQty self q w =>
        .next ((s.dropDrain n).modCtx self fun x => { x with queues := x.queues + q, cells := x.cells + w })
      | .revokeCores .. => .next (s.dropDrain n)
      | .revokeMem .. => .next (s.dropDrain n)
      | _ => .next s

/-- A reply that comes for a deleted context finds no one (R290, R313). -/
def Waiter.forget (w : Waiter) (cs : List Nat) : Waiter :=
  match w with
  | .page c _ => if cs.contains c then .nobody else w
  | .trap _ _ u => if cs.contains u.ctx then .nobody else w
  | .wdt _ u => if cs.contains u.ctx then .nobody else w
  | .nobody => .nobody

/-- The numbers of a subtree become free, with its tables, launches, predictor entries and requests. -/
def State.forgetCtxs (s : State) (cs : List Nat) : State :=
  let s := cs.foldl (fun s d => s.freeTables (s.ctx d).part ((s.ctx d).ttb2 :: s.tablesOf d)) s
  { s with
    ctxs := s.ctxs.filter (fun x => !cs.contains x.1)
    launches := s.launches.filter (fun l => !cs.contains l.2.ctx)
    preds := s.preds.filter (fun p => !cs.contains p.2.ctx)
    invals := s.invals.filter (fun i => !cs.contains i.ctx)
    drains := s.drains.filter (fun d => match d.kind with
      | .delete _ k => !cs.contains k
      | _ => true)
    posts := (s.posts.filter (fun p => !cs.contains p.target)).map (fun p => { p with waiter := p.waiter.forget cs }) }

/-- CONTEXT_DELETE_COMPLETE: the balances return to the issuer, and the numbers are free. -/
def execContextDeleteComplete (ctx : Nat) (s : State) : Out :=
  match s.drains.find? (fun d => match d.kind with
      | .delete _ c => c == ctx
      | _ => false) with
  | some d =>
    if !s.drainOver d then .next s
    else
      match d.kind with
      | .delete self c =>
        let cs := s.subtree c
        let x := s.ctx c
        let e : Int := cs.foldl (fun n d => n + (s.ctx d).energy) 0
        let s := s.modCtx self fun y =>
          { y with energy := y.energy + e, queues := y.queues + x.queuesGot, cells := y.cells + x.cellsGot }
        let s := s.forgetCtxs cs
        .next (if x.level = 0 then (s.endPartition x.part).mpDone 0 else s)
      | _ => .next s
  | none => .next s

end Sys2Proof.Machine
end

