-- ==== Sys2Proof/Machine/Graph.lean ====
section
/-! DEFINITION. Launches, graphs, shapes, cancellation and energy as programs see them: the GRF and PWR commands
(R326–R348). -/

namespace Sys2Proof.Machine

/-! ## Answers (R343, R348) -/

/-- What a GRF command does: a status and no change, a new state with GFRES where it gives one, or a wait for a
page. -/
inductive GrfEnd where
  | fail (status : Nat)
  | ok (s : State) (res : Option Word)
  | page (s : State) (p : PageWait)

def grfChecked (checks : List (Bool × Nat)) (k : GrfEnd) : GrfEnd :=
  match firstFail checks with
  | some st => .fail st
  | none => k

/-- GFSTAT.STATUS and GFRES of the thread that issued a command, wherever it is held. -/
def State.grfReport (s : State) (k : PendCmd) : GrfEnd → CmdEnd
  | .fail st => .done (s.wordsOf k.h k.u k.tid (fun u => { u with gfstat := st }))
  | .ok s res => .done (s.wordsOf k.h k.u k.tid (fun u => { u with gfstat := 0, gfres := res.getD u.gfres }))
  | .page s p => .page s p

/-! ## Graphs (R326–R328, R341, R344) -/

/-- A graph that no command has touched: BUILD, with no nodes. -/
def Graph.empty : Graph :=
  { st := .build, arg := 0, phase := false, waiting := false, nodes := [], edges := [], held := none, issuer := (0, 0)
    order := 0 }

def Ctx.graph (x : Ctx) (k : Nat) : Graph := (tget x.graphs k).getD Graph.empty

def State.setGraph (s : State) (c k : Nat) (g : Graph) : State := s.modCtx c fun x => { x with graphs := tput x.graphs k g }

/-- The graph takes no command that builds or runs it: it runs, or a held GRUN is to run it. -/
def Graph.busy (g : Graph) : Bool := g.st == .running || g.held.isSome

/-- How the reading of a descriptor ends. -/
inductive DescEnd where
  | ok (d : List Word)
  | fail (status : Nat)
  | page (p : PageWait)

/-- Reads a launch descriptor for a command: it is 128-byte aligned and lies outside the local window (R320, R343). -/
def State.readDesc (s : State) (k : PendCmd) (va : Word) : State × DescEnd :=
  if va.toNat % 128 ≠ 0 ∨ va.toNat < 0x200000 then (s, .fail St.badarg)
  else
    let (s, r) := s.readVa k.h k.tid k.u.ctx 1 .copyRead va.toNat 128
    match r with
    | .ok bs => (s, .ok (descWords bs))
    | .access => (s, .fail St.imgmap)
    | .page p => (s, .page p)

def State.gnode (s : State) (q : PendCmd) (a b : Word) : GrfEnd :=
  let c := q.u.ctx
  let k := b.toNat % 16
  let g := (s.ctx c).graph k
  if 16 ≤ b.toNat then .fail St.badarg
  else if a = 0 then
    grfChecked [(g.busy, St.busy)] (.ok (s.setGraph c k Graph.empty) none)
  else
    let (s, r) := s.readDesc q a
    match r with
    | .page p => .page s p
    | .fail st => .fail st
    | .ok d =>
      grfChecked [(!descOk d, St.badarg), (g.busy, St.busy), (decide (256 ≤ g.nodes.length), St.nores)]
        (let y : Node := { desc := d, site := a.toNat, launch := none, finished := false, status := 0, page := .none }
         .ok (s.setGraph c k { g with nodes := g.nodes ++ [y] }) (some (w64 g.nodes.length)))

def State.gedge (s : State) (q : PendCmd) (a b : Word) (gmb : Bool) : GrfEnd :=
  let c := q.u.ctx
  let k := a.toNat % 16
  let g := (s.ctx c).graph k
  let p := bits b.toNat 0 8
  let n := bits b.toNat 8 8
  grfChecked
    [(decide (16 ≤ a.toNat) || decide (2 ^ 16 ≤ b.toNat) || decide (g.nodes.length ≤ p) || decide (g.nodes.length ≤ n) ||
       decide (8 ≤ (g.edges.filter (fun e => e.2.1 == n)).length) ||
       (gmb && !((g.nodes[n]?).map (fun y => Desc.gmb y.desc)).getD false), St.badarg),
     (g.busy, St.busy)]
    (.ok (s.setGraph c k { g with edges := g.edges ++ [(p, n, gmb)] }) none)

/-- Removes, again and again, nodes without a predecessor among those that are left. -/
def peelNodes (edges : List (Nat × Nat × Bool)) : Nat → List Nat → List Nat
  | 0, l => l
  | n + 1, l => peelNodes edges n (l.filter (fun q => edges.any (fun e => e.2.1 == q && l.contains e.1)))

/-- The edges form a cycle. -/
def Graph.cyclic (g : Graph) : Bool := !(peelNodes g.edges g.nodes.length (List.range g.nodes.length)).isEmpty

/-- The unit of a command, where what it launches is held: a provisional one (R341). -/
def State.holder (s : State) (q : PendCmd) : Option UnitId := if s.provUnit q.h q.u then some q.u else none

/-- GRUN of a provisional unit is held, and its graph stays as it was (R341); with PHASE, the graph waits for its boundary
(R328). -/
def State.grun (s : State) (q : PendCmd) (a arg : Word) (phase : Bool) : GrfEnd :=
  let c := q.u.ctx
  let k := a.toNat % 16
  let g := (s.ctx c).graph k
  grfChecked [(decide (16 ≤ a.toNat), St.badarg), (g.busy, St.busy), (g.cyclic, St.badarg)]
    (let (o, s) := s.freshOrder
     let r : GraphRun := { holder := q.u, arg := arg, phase := phase, issuer := (q.h, q.tid), order := o }
     .ok (s.setGraph c k (if (s.holder q).isNone then g.run r else { g with held := some r })).settle none)

/-! ## LAUNCH (R320, R341, R343, R344) -/

def State.launchCmd (s : State) (q : PendCmd) (a : Word) : GrfEnd :=
  let c := q.u.ctx
  let (s, r) := s.readDesc q a
  match r with
  | .page p => .page s p
  | .fail st => .fail st
  | .ok d =>
    match firstFail
      [(!descOk d || (Desc.mapen d && ((s.ctx c).jobmap.map (fun m => m != Desc.mapw d)).getD false), St.badarg),
       (s.slotBound c (Desc.slotOut d), St.busy), (!s.launchRoom c, St.nores)] with
    | some st => .fail st
    | none =>
      let (s, r) := s.readImage q.h q.tid c (d.getD 0 0)
      match r with
      | .page p => .page s p
      | .fail st => .fail st
      | .ok img =>
        let k : LaunchArgs :=
          { ctx := c, site := q.addr.toNat, h := q.h, tid := q.tid, add := 0, graph := none, heldBy := s.holder q
            isJob := false }
        let (s, l) := s.accept d img k
        .ok s.settle (some (w64 l))

/-! ## SHAPE and CONFIRM (R337, R339, R344) -/

def Slot.empty : Slot := { value := 0, final := false, bound := none }

def Ctx.slot (x : Ctx) (k : Nat) : Slot := (tget x.slots k).getD Slot.empty

/-- The modes of SHAPE that write. -/
def State.shape (s : State) (c : Nat) (a : Word) (fin : Bool) (f : Word → Word) : GrfEnd :=
  let k := a.toNat
  let y := (s.ctx c).slot (k % 64)
  grfChecked [(decide (64 ≤ k), St.badarg), (y.final, St.busy)]
    (.ok (s.modCtx c fun x =>
      { x with slots := tput x.slots k { y with value := f y.value, final := fin } }).settle none)

def State.shapeValue (s : State) (c : Nat) (a : Word) : GrfEnd :=
  grfChecked [(decide (64 ≤ a.toNat), St.badarg)] (.ok s (some ((s.ctx c).slot a.toNat).value))

/-- A launch of the issuer or of a descendant. -/
def State.ownLaunch (s : State) (c l : Nat) : Option Launch := (s.launch? l).filter (fun x => s.reaches c x.ctx)

def State.confirmCmd (s : State) (c : Nat) (a v : Word) : GrfEnd :=
  let l := a.toNat
  let x := s.ownLaunch c l
  grfChecked
    [(decide (2 ^ 16 ≤ l), St.badarg), (!(x.map (fun x => x.gmb && !x.inen)).getD false, St.noctx),
     ((x.map (fun x => x.tsize.isSome || x.isDone)).getD false, St.busy)]
    (.ok (if (x.map (·.covered)).getD false then s else (s.applyShape l v.toNat).settle) none)

/-! ## CANCEL and COMPL (R318, R342, R344, R345) -/

/-- The target of a CANCEL or a COMPL. -/
inductive Target where
  | unit (l i : Nat)
  | launch (l : Nat)
  | graph (k : Nat)
  | phase
  | job (c : Nat)

/-- Decodes and checks g[a] for a level: a target, or the status. -/
def State.targetOf (s : State) (c : Nat) (level : CLevel) (a : Nat) : Except Nat Target :=
  let known (l : Nat) (p : Launch → Bool) : Bool := ((s.ownLaunch c l).map p).getD false
  match level with
  | .unit =>
    let i := bits a 0 20
    let l := bits a 32 16
    if bits a 20 12 ≠ 0 ∨ 2 ^ 48 ≤ a then .error St.badarg
    else if known l (fun x => decide (i < x.nu)) then .ok (.unit l i) else .error St.noctx
  | .launch =>
    if 2 ^ 16 ≤ a then .error St.badarg
    else if known a (fun _ => true) then .ok (.launch a) else .error St.noctx
  | .graph => if 16 ≤ a then .error St.badarg else .ok (.graph a)
  | .phase => if a ≠ 0 then .error St.badarg else .ok .phase
  | .job =>
    if 2 ^ 12 ≤ a then .error St.badarg
    else if (tget s.ctxs a).isSome && s.reaches c a then .ok (.job a) else .error St.noctx

/-- The stand-alone launches of the current phase of a context (R328). -/
def State.phaseLaunches (s : State) (c : Nat) : List (Nat × Launch) :=
  s.launches.filter (fun l => l.2.ctx == c && l.2.graph.isNone && (s.ctx c).inPhase l.2.porder)

/-- The graphs of the current phase of a context that have run or run (R328). -/
def State.phaseGraphs (s : State) (c : Nat) : List (Nat × Graph) :=
  (s.ctx c).graphs.filter (fun g => (s.ctx c).inPhase g.2.order && g.2.st != .build)

def State.cancelTarget (s : State) (c : Nat) : Target → State
  | .unit l i => s.cancelUnit l i
  | .launch l => s.cancelLaunch l
  | .graph k => if ((s.ctx c).graph k).st = .running then s.cancelGraph c k else s
  | .phase =>
    let s := (s.phaseGraphs c).foldl (fun s g => if g.2.st = .running then s.cancelGraph c g.1 else s) s
    (s.phaseLaunches c).foldl (fun s l => s.cancelLaunch l.1) s
  | .job d => s.cancelJob d

def State.cancelCmd (s : State) (c : Nat) (level : CLevel) (a : Word) : GrfEnd :=
  match s.targetOf c level a.toNat with
  | .error st => .fail st
  | .ok t => .ok (s.cancelTarget c t).settle none

/-- The threads of a unit that have not exited, wherever they are. -/
def State.unitThreads (s : State) (h : Nat) (u : UnitId) : Nat :=
  let c := s.core h
  if c.unit.map (·.id) = some u then c.liveThreads.length
  else
    (c.regBanks.filter (fun b => match b.2 with
      | .parked v _ _ t => v == u && t.exited.isNone
      | .live _ => false)).length +
    (match s.evictedOf h u with
      | some e => (e.threads.filter (fun t => t.2.exited.isNone &&
          !(c.regBanks.any (fun b => match b.2 with
            | .parked v tid _ _ => v == u && tid == t.1
            | .live _ => false)))).length
      | none => 0)

/-- The counter of a unit (R318, R344). -/
def State.unitCounter (s : State) (l i : Nat) : Nat :=
  match s.launch? l with
  | none => 0
  | some x =>
    let u : UnitId := { ctx := x.ctx, lnum := l, index := i }
    match tget x.units i with
    | some (.resident h) => s.ucntOf u (s.unitThreads h u)
    | some (.evicted h ..) => s.ucntOf u (s.unitThreads h u)
    | some (.waiting ..) => 1
    | some (.held _) => 1
    | some .cancelled => s.ucntOf u 0
    | some _ => 0
    | none => b2n x.tsize.isNone

/-- The counter of a launch: its units that have not completed; a cancelled one has once its stores are performed. -/
def State.launchCounter (s : State) (n : Nat) (l : Launch) : Nat :=
  if l.isDone then 0
  else (l.units.filter (fun u => !u.2.ended ||
    (u.2 == .cancelled && s.unitBusy { ctx := l.ctx, lnum := n, index := u.1 }))).length

def Graph.counter (g : Graph) : Nat := (g.nodes.filter (fun y => !y.finished)).length

def Graph.open_ (g : Graph) : Bool := g.st == .running

def State.counterOf (s : State) (c : Nat) : Target → Nat
  | .unit l i => s.unitCounter l i
  | .launch l => ((s.launch? l).map (s.launchCounter l)).getD 0
  | .graph k => ((s.ctx c).graph k).counter
  | .phase =>
    ((s.phaseGraphs c).filter (fun g => g.2.open_)).length + ((s.phaseLaunches c).filter (fun l => !l.2.isDone)).length
  | .job d => (s.launches.filter (fun l => l.2.ctx == d && !l.2.isDone)).length

/-- RESULT so far of launches of a context that `p` picks, completed launches included (R344). -/
def State.sumOf (s : State) (c : Nat) (p : Launch → Bool) : Word :=
  s.launches.foldl (fun a l => if l.2.ctx = c ∧ p l.2 then a + l.2.sum else a) 0

/-- RESULT so far of the present run of a graph. -/
def State.graphSum (s : State) (c k : Nat) : Word :=
  s.sumOf c (fun l => (l.graph.map (·.1)) == some k && l.porder == ((s.ctx c).graph k).order)

def State.resultOf (s : State) (c : Nat) : Target → Word
  | .unit l i =>
    match (s.launch? l).bind (fun x => tget x.units i) with
    | some (.completed v) => v
    | _ => 0
  | .launch l => ((s.launch? l).map Launch.sum).getD 0
  | .graph k => s.graphSum c k
  | .phase => s.sumOf c (fun l => (s.ctx c).inPhase l.porder)
  | .job d => s.sumOf d (fun l => decide ((s.ctx d).jstart ≤ l.porder))

def State.complCmd (s : State) (c : Nat) (level : CLevel) (res : Bool) (a : Word) : GrfEnd :=
  match s.targetOf c level a.toNat with
  | .error st => .fail st
  | .ok t => .ok s (some (if res then s.resultOf c t else w64 (s.counterOf c t)))

/-! ## The commands (R342–R344) -/

/-- What the graph engine does with a command; DENY of a page that it waits for gives IMGMAP (R343). -/
def State.grfPerform (k : PendCmd) (s : State) : CmdEnd :=
  let c := k.u.ctx
  s.grfReport k
    (if k.page = .replied true then .fail St.imgmap
     else
      match k.op with
      | .gnode a b => s.gnode k a b
      | .gedge a b gmb => s.gedge k a b gmb
      | .grun a b phase => s.grun k a b phase
      | .launch a => s.launchCmd k a
      | .shapeAdd a b fin => s.shape c a fin (fun v => v + b)
      | .shapeSet a b fin => s.shape c a fin (fun _ => b)
      | .shapeRead a => s.shapeValue c a
      | .confirm a b => s.confirmCmd c a b
      | .cancel level a => s.cancelCmd c level a
      | .compl level res a => s.complCmd c level res a
      | _ => .ok s none)

/-- A GRF command goes to the graph engine. -/
def State.grf (s : State) (room : State → Bool) (op : State → CmdOp) : Out :=
  s.dispatchCmd Un.grf room op State.grfPerform

def execGnode (a b : Reg) (look : Fin 16) (s : State) : Out :=
  let _ := look
  s.grf roomy fun s => .gnode (s.g a) (s.g b)

def execGedge (a b : Reg) (look : Fin 16) (gmb : Bool) (s : State) : Out :=
  let _ := look
  s.grf roomy fun s => .gedge (s.g a) (s.g b) gmb

def execGrun (a b : Reg) (look : Fin 16) (phase : Bool) (s : State) : Out :=
  let _ := look
  s.grf roomy fun s => .grun (s.g a) (s.g b) phase

def execLaunch (a : Reg) (look : Fin 16) (s : State) : Out :=
  let _ := look
  s.grf roomy fun s => .launch (s.g a)

def execShapeAdd (a b : Reg) (look : Fin 16) (fin : Bool) (s : State) : Out :=
  let _ := look
  s.grf State.confirmed fun s => .shapeAdd (s.g a) (s.g b) fin

def execShapeSet (a b : Reg) (look : Fin 16) (fin : Bool) (s : State) : Out :=
  let _ := look
  s.grf State.confirmed fun s => .shapeSet (s.g a) (s.g b) fin

def execShapeRead (a b : Reg) (look : Fin 16) (s : State) : Out :=
  let _ := look
  let _ := b
  s.grf State.confirmed fun s => .shapeRead (s.g a)

def execConfirm (a b : Reg) (look : Fin 16) (s : State) : Out :=
  let _ := look
  s.grf State.confirmed fun s => .confirm (s.g a) (s.g b)

def execCancel (a : Reg) (look : Fin 16) (level : CLevel) (s : State) : Out :=
  let _ := look
  s.grf State.confirmed fun s => .cancel level (s.g a)

def execCompl (a : Reg) (look : Fin 16) (res : Bool) (level : CLevel) (s : State) : Out :=
  let _ := look
  s.grf roomy fun s => .compl level res (s.g a)

/-- GRFWAIT: every GRF command of the thread has been performed (R346). -/
def execGrfwait (look : Fin 16) (s : State) : Out :=
  let _ := look
  s.unitWait Un.grf 0 fun s => !s.cmdPend (s.unitId s.curCore) s.curTid (fun k => k.unit == Un.grf)

/-! ## PWR (R335, R347, R348) -/

/-- The places of a core's leave table that a mask names: engine 0, engine 1, copy engine. -/
def leavePlaces (m : Nat) : List Nat := (List.range 3).filter (fun i => bit m i)

/-- The agent of a leave request for a place; the copy engine's own request is told from a command's. -/
def leaveAgent (i : Nat) : Nat := if i = copyEngine then 4 else i

/-- Asks for leave for one place that holds none. -/
def State.placeAsks (s : State) (h i : Nat) : State :=
  if (s.core h).placeHeld i || ((s.core h).engineLeave i).wanted then s
  else (s.askLeave h (leaveAgent i) 0 (s.resClass h)).modCore h (·.modLeave i fun l => { l with wanted := true })

def State.eleave (s : State) (a : Word) : State :=
  let m := a.toNat
  let h := s.curCore
  if 8 ≤ m ∨ m = 0 then s.words (fun u => { u with pstat := St.badarg })
  else
    let s := (leavePlaces m).foldl (fun s i => s.placeAsks h i) s
    let w := ((leavePlaces m).filter (fun i => !(s.core h).placeHeld i)).foldl (fun n i => n + 2 ^ i) 0
    s.words (fun u => { u with pstat := 0, pwait := u.pwait ||| w })

def execEleave (a : Reg) (look : Fin 16) (s : State) : Out :=
  let _ := look
  s.dispatch Un.pwr roomy fun _ s => s.eleave (s.g a)

def State.ebud (s : State) (a b : Word) : State :=
  let l := a.toNat
  let c := s.curCtx
  let n : Int := b.toInt
  let x := (s.launch? l).filter (fun x => x.ctx == c && !x.isDone)
  match x with
  | none => s.words (fun u => { u with pstat := if 2 ^ 16 ≤ l then St.badarg else St.noctx })
  | some x =>
    if 2 ^ 16 ≤ l then s.words (fun u => { u with pstat := St.badarg })
    else if (s.ctx c).energy < n ∨ x.lebal + n * 1000 < 0 then s.words (fun u => { u with pstat := St.nores })
    else
      let s := s.modCtx c fun y => { y with energy := y.energy - n }
      let s := s.addEnergy l (n * 1000)
      s.words (fun u => { u with pstat := 0, pres := BitVec.ofInt 64 (x.lebal + n * 1000) })

def execEbud (a b : Reg) (look : Fin 16) (s : State) : Out :=
  let _ := look
  s.dispatch Un.pwr State.confirmed fun _ s => s.ebud (s.g a) (s.g b)

/-- The four readings of EREAD. -/
def State.energyWord (s : State) (n : Nat) : Word :=
  let l := s.launch? (s.unitId s.curCore).lnum
  match n with
  | 0 => BitVec.ofInt 64 ((l.map (·.lebal)).getD 0)
  | 1 => BitVec.ofInt 64 (s.ctx s.curCtx).energy
  | 2 => w64 ((l.map (·.charged)).getD 0)
  | _ => let d := s.die (dieOf s.curCore); w64 (d.cap - d.held)

def State.eread (s : State) (a : Word) : State :=
  if 4 ≤ a.toNat then s.words (fun u => { u with pstat := St.badarg })
  else s.words (fun u => { u with pstat := 0, pres := s.energyWord a.toNat })

def execEread (a : Reg) (look : Fin 16) (s : State) : Out :=
  let _ := look
  s.dispatch Un.pwr roomy fun _ s => s.eread (s.g a)

/-- PWAIT: every grant that an ELEAVE of the thread asked for has been given. -/
def execPwait (look : Fin 16) (s : State) : Out :=
  let _ := look
  s.unitWait Un.pwr 0 (fun s => s.cur.u.pwait == 0)

end Sys2Proof.Machine
end

