-- ==== Sys2Proof/Machine/Wake.lean ====
section
/-! DEFINITION. Waits that end and the steps of the graph engine and the power managers: wake conditions, placement,
eviction, aging, completion, phase boundaries, forced stops, energy and power leave (R107–R109, R128, R311, R329–R335,
R414, R415, R429, R454). -/

namespace Sys2Proof.Machine

/-! ## The end of a collective, as COLWT sees it (R400) -/

def State.colQueue (s : State) (die q : Nat) : Option ColQ := tget (s.die die).col.queues q

/-- The collective is STAGED or RUNNING. -/
def State.colRuns (s : State) (die q seq : Nat) : Bool :=
  ((s.colQueue die q).map (fun k => k.ops.any (fun o => o.seq == seq))).getD false

/-- The final status of a collective among the last 16 finished, else NOCTX, and DISC. -/
def State.colFinal (s : State) (die q seq : Nat) : Nat × Bool :=
  match (s.colQueue die q).bind (fun k => k.ended.find? (fun e => e.seq == seq)) with
  | some e => (e.status, e.disc)
  | none => (St.noctx, false)

/-! ## Wake conditions (R107, R108, R415) -/

/-- The word that WAITM watches, in the unit's own banks wherever they stand. -/
def State.watched (s : State) (h : Nat) (u : UnitId) (va : Word) : Word :=
  if isService h then w64 (numOf (s.localBytes h va.toNat 8)) else w64 (numOf (s.unitRead h u va.toNat 8))

/-- What still holds a thread of an evicted unit at HEXIT (R130, R415). -/
def State.evictedExitHeld (s : State) (h : Nat) (e : Evicted) (tid : Nat) (t : Thread) : Bool :=
  let u := e.res.id
  (s.core h).cpy.any (fun q => q.unit == u && q.tid == tid) ||
  e.bus.any (fun b => b.2.ops.any (fun o => o.tid == tid)) ||
  e.tiles.any (fun x => (x.2.publ || x.2.freeing) && x.2.tid == tid) ||
  t.virPend.any (fun p => s.drains.any (fun d => d.id == p.1)) ||
  (tid == 0 && (!e.res.assigned.all (fun i => ((tget e.threads i).bind (·.exited)).isSome) ||
    s.ucntOf u (s.unitThreads h u) != 1))

/-- The saved wake condition of a thread of an evicted unit holds, a reply to its record among them: RESUME leaves it
without a wait (R109, R413, R415, R423). -/
def State.evictedWakes (s : State) (h : Nat) (e : Evicted) (tid : Nat) (t : Thread) : Bool :=
  let late := t.deliverable
  match t.wait with
  | .none => true
  | .woken => true
  | .yieldu => true
  | .hjoin _ ids _ =>
    late || ids.all (fun i => !e.res.assigned.contains i || ((tget e.threads i).bind (·.exited)).isSome)
  | .hexit _ => late || !s.evictedExitHeld h e tid t
  | .waitm va cmp => late || s.watched h e.res.id va != cmp
  | .waitc n => late || e.sync.counter n == 0
  | .barwt n => late || (e.sync.bar n).gen == (e.sync.bar n).rgen
  | .tbwait k st => late || tbwaitDone (tget e.tiles k) tid st
  | .colwt die q seq => late || (!s.colwtPend e.res.id tid && !s.colRuns die q seq)
  | .page p _ _ => late || s.pageClear p
  | _ => late

/-- The threads of an evicted unit that have not exited, with their ids. -/
def State.evictedThreads (s : State) (h : Nat) (e : Evicted) : List (Nat × Thread) :=
  let parked := (s.core h).regBanks.filterMap (fun b => match b.2 with
    | .parked v tid _ t => if v = e.res.id then some (tid, t) else none
    | .live _ => none)
  (parked ++ e.threads.filter (fun t => !parked.any (fun p => p.1 == t.1))).filter (fun t => t.2.exited.isNone)

def State.evictedReady (s : State) (h : Nat) (e : Evicted) : Bool :=
  (s.evictedThreads h e).any (fun t => s.evictedWakes h e t.1 t.2)

/-- The wait of a resident thread that p describes is over, and its instruction is complete (R108). -/
def State.wakeDone (s : State) (h tid : Nat) : State := s.modThread h tid Thread.advance

/-- A page wait that has its reply: RETRY issues the instruction again, DENY takes PDEN (R288, R289). -/
def State.wakePage (s : State) (h tid : Nat) (p : PageWait) (va : Word) (kind : Nat) : State :=
  if !s.pageClear p then s
  else if p = .replied true then
    let t := s.thread h tid
    let s := s.modThread h tid fun t => { t with wait := .none }
    takeTrap s h tid
      { code := 0x0F, info := addrInfo va kind 0, epc := t.r.pc, ply := 0, late := false, waddr := t.r.pc
        word := s.fetched h t.r.pc }
  else s.modThread h tid fun t => { t with wait := .none }

/-- What becomes of a waiting thread whose wake condition holds; any other thread stays. -/
def State.wake (s : State) (h tid : Nat) : State :=
  let t := s.thread h tid
  let c := s.core h
  match t.wait with
  | .woken => s.wakeDone h tid
  | .hjoin d ids since => if c.joinReady ids then s.joinNow h tid d ids since else s
  | .hexit v => if s.exitHeld h tid || (tid == 0 && s.ucnt h != 1) then s else s.exitNow h tid v
  | .waitm va cmp => if s.watched h (s.unitId h) va = cmp && (s.localCheck h va.toNat).isNone then s
      else s.modThread h tid fun t => { t with wait := .none }
  | .yieldu => s.wakeDone h tid
  | .waitc n => if c.sync.counter n = 0 then s.wakeDone h tid else s
  | .barwt n => if (c.sync.bar n).gen = (c.sync.bar n).rgen then s.wakeDone h tid else s
  | .tbwait e st =>
    let x := tget c.tiles e
    if tbwaitDone x tid st then
      (s.modThread h tid (·.modU fun u => { u with tstatus := if x.isSome then 0 else 3 })).wakeDone h tid
    else s
  | .colwt die q seq =>
    if s.colwtPend (s.unitId h) tid || s.colRuns die q seq then s
    else
      let (st, disc) := s.colFinal die q seq
      (s.modThread h tid (·.modU fun u => { u with clstat := st, cldisc := disc })).wakeDone h tid
  | .page p va kind => s.wakePage h tid p va kind
  | .confirm => if s.provisional h then s else s.modThread h tid fun t => { t with wait := .none }
  | _ => s

/-- The thread exists, has not exited and is not halted. -/
def State.liveThread (s : State) (h tid : Nat) : Bool :=
  match tget (s.core h).threads tid with
  | some t => (s.core h).unit.isSome && t.exited.isNone && !t.halted
  | none => false

/-- A thread to which a late fault is to be delivered abandons its wait for it and does not go on past it (R407). -/
def execThreadWake (h tid : Nat) (s : State) : Out :=
  if s.liveThread h tid && !(s.thread h tid).deliverable then .next (s.wake h tid) else .next s

/-! ## Placement, eviction, aging (R329–R332, R414) -/

/-- Evicted units whose saved wake condition now holds enter the pool (R109, R415). -/
def State.refreshEvicted (s : State) : State :=
  s.cores.foldl (fun s c =>
    c.2.evicted.foldl (fun s e =>
      match (s.launch? e.res.id.lnum).bind (fun l => tget l.units e.res.id.index) with
      | some (.evicted h false r ..) =>
        if s.evictedReady c.1 e then s.setUnit e.res.id.lnum e.res.id.index (.evicted h true r s.now s.now) else s
      | _ => s) s) s

/-- UNIT_PLACEMENT of a partition. -/
def execUnitPlacement (part : Nat) (s : State) : Out :=
  if (s.part part).out then .next s else .next (s.refreshEvicted.placeAll part).settle

/-- The unit of a core is the one that R331 chooses for some waiting unit without an eligible core. -/
def State.evictChosen (s : State) (h : Nat) : Bool :=
  let pool := s.poolOrder (s.ctx (s.ctxAt h)).part
  pool.any fun w => !(s.coresFor w).any (fun k => s.empty k && s.yields pool w k) && s.victimFor pool w == some h

/-- UNIT_EVICT. -/
def execUnitEvict (h : Nat) (s : State) : Out :=
  let s := s.refreshEvicted
  if s.evictChosen h then .next (s.evict h) else .next s

/-- Cycles that a unit waits before it is raised a class (R332). -/
def agingCycles : Nat := 3200000

/-- UNIT_AGING: a unit that waits in the pool, 2 ms after it entered or was last raised. -/
def execUnitAging (lnum index : Nat) (s : State) : Out :=
  match s.launch? lnum with
  | none => .next s
  | some l =>
    let due (r last : Nat) : Bool :=
      l.heldBy.isNone && decide (last + agingCycles ≤ s.now) && decide (l.classOf r < 3)
    match tget l.units index with
    | some (.waiting p r since last) =>
      .next (if due r last then s.setUnit lnum index (.waiting p (r + 1) since s.now) else s)
    | some (.evicted h true r since last) =>
      .next (if due r last then s.setUnit lnum index (.evicted h true (r + 1) since s.now) else s)
    | _ => .next s

/-! ## Completion, stops, phases (R128, R311, R328, R429) -/

/-- The accesses in flight of a core's unit are performed, those of threads that it holds no more too (R128). -/
def State.drainUnit (s : State) (h : Nat) : State :=
  (s.inflight.filter (fun a => a.unit == s.unitId h)).foldl (fun s a => s.perform a.id) s

/-- UNIT_COMPLETE: what its threads still have under way at its own banks is performed before the banks are freed. -/
def execUnitComplete (h : Nat) (s : State) : Out :=
  if s.unitEnds h then .next ((s.drainUnit h).completeUnit h) else .next s

/-- The unit of a core that is asked to stop may be stopped: every live thread waits at a blocking point, or 2^20
cycles have passed (R311). -/
def State.stopDue (s : State) (h : Nat) : Bool :=
  match (s.core h).unit with
  | some r =>
    match r.stop with
    | some q => (s.core h).liveThreads.all (·.wait.blocking) || decide (q.since + 2 ^ 20 ≤ s.now)
    | none => false
  | none => false

/-- FORCED_UNIT_STOP: pending instructions and stores complete, and the unit is cancelled. -/
def execForcedUnitStop (h : Nat) (s : State) : Out :=
  if !s.stopDue h then .next s
  else
    .next ((s.drainUnit h).stopUnit h)

/-- Everything of a job that was accepted before a graph's GRUN has completed; a held launch or graph has not (R328,
R341). -/
def State.phaseReady (s : State) (c : Nat) (g : Graph) : Bool :=
  !s.launches.any (fun l => l.2.ctx == c && !l.2.isDone && decide (l.2.porder < g.order)) &&
  !(s.ctx c).graphs.any (fun x => (x.2.st == .running && decide (x.2.order < g.order)) ||
    (x.2.held.map (fun r => decide (r.order < g.order))).getD false)

/-- PHASE_COMMIT: the boundary of a GRUN with PHASE, and the start of its graph. -/
def execPhaseCommit (ctx graph : Nat) (s : State) : Out :=
  let g := (s.ctx ctx).graph graph
  if g.st != .running || !g.waiting || !s.phaseReady ctx g then .next s
  else .next ((s.boundary ctx (some (graph, g.arg)) g.order).setGraph ctx graph { g with waiting := false }).settle

/-! ## Energy and power leave (R230, R334, R335, R454) -/

/-- ENERGY_METER: the launch is charged. -/
def execEnergyMeter (lnum nj : Nat) (s : State) : Out :=
  match s.launch? lnum with
  | some l =>
    if l.isDone then .next s
    else .next ((s.addEnergy lnum (-(nj : Int))).modLaunch lnum fun x => { x with charged := x.charged + nj })
  | none => .next s

/-- The request that goes first: the higher class, the earlier request, the lower Hilbert index (R335). -/
def Die.nextLeave (d : Die) : Option LeaveReq :=
  d.waiting.foldl (fun best w =>
    match best with
    | some b =>
      if b.cls < w.cls ∨ (b.cls = w.cls ∧ (w.order < b.order ∨ (w.order = b.order ∧ w.h < b.h))) then some w else best
    | none => some w) none

/-- Leave for an engine or for the copy engine ahead of need: threads that asked for it by ELEAVE wait no more. -/
def Core.grantPlace (c : Core) (i now : Nat) : Core :=
  let f (t : Thread) : Thread := t.modU fun u => { u with pwait := u.pwait - (if bit u.pwait i then 2 ^ i else 0) }
  let c := c.modLeave i fun _ => { held := true, wanted := false, idle := now }
  { c with
    threads := tmap c.threads (fun _ t => f t)
    regBanks := tmap c.regBanks (fun _ b => match b with
      | .parked u tid o t => .parked u tid o (f t)
      | b => b)
    evicted := c.evicted.map (fun e => { e with threads := tmap e.threads (fun _ t => f t) }) }

/-- Changes a core in place and wherever the castle stores hold it (R420). -/
def State.everyCore (s : State) (h : Nat) (f : Core → Core) : State :=
  let s := s.modCore h f
  { s with castled := s.castled.map (fun x => { x with cores := tmod x.cores h f }) }

/-- The agent of a request receives its grant, its partition castled out or not. -/
def State.giveLeave (s : State) (w : LeaveReq) : State :=
  let got : Leave := { held := true, wanted := true, idle := s.now }
  match w.agent with
  | 0 => s.everyCore w.h (·.grantPlace 0 s.now)
  | 1 => s.everyCore w.h (·.grantPlace 1 s.now)
  | 2 => s.everyCore w.h fun c => { c with cpy := c.cpy.map (fun q => if q.id = w.cmd then { q with leave := got } else q) }
  | 3 =>
    let f (n : Nat) (b : Handle) : Handle :=
      { b with ops := b.ops.map (fun o => if o.leave.wanted && !o.leave.held && busCmd b.unit n == w.cmd then { o with leave := got } else o) }
    s.everyCore w.h fun c =>
      { c with bus := tmap c.bus f, evicted := c.evicted.map (fun e => { e with bus := tmap e.bus f }) }
  | 4 => s.everyCore w.h (·.grantPlace copyEngine s.now)
  | _ => s.modDie (dieOf w.h) fun d => { d with col := { d.col with leave := tput d.col.leave w.cmd got } }

/-- LEAVE_GRANT. -/
def execLeaveGrant (die : Nat) (s : State) : Out :=
  let d := s.die die
  if d.cap ≤ d.held || decide (2 ≤ d.thr) then .next s
  else
    match d.nextLeave with
    | none => .next s
    | some w =>
      let s := s.modDie die fun d => { d with held := d.held + 1, waiting := d.waiting.filter (fun x => x != w) }
      .next (s.giveLeave w)

/-- Cycles of idleness for which an engine keeps its leave (R230). -/
def idleCycles : Nat := 2048

/-- The engine has a step in progress or queued: of an MMA form, an MCLR or an MRD (R218, R233). -/
def Core.engineBusy (c : Core) (e : Nat) : Bool := c.mat.queue.any (fun q => q.port == some e && !q.last)

/-- The leave that a collective engine holds for a VF (R396). -/
def ColEngine.vfLeave (e : ColEngine) (vf : Nat) : Leave := (tget e.leave vf).getD Leave.reset

/-- LEAVE_RELEASE: engine 0 or 1 of a core; 2 + v names the collective engine of the core's die, for VF v. -/
def execLeaveRelease (h engine : Nat) (s : State) : Out :=
  let back (s : State) : State := s.modDie (dieOf h) fun d => { d with held := d.held - 1 }
  if engine < 2 then
    let l := (s.core h).engineLeave engine
    if l.held && !(s.core h).engineBusy engine && decide (l.idle + idleCycles ≤ s.now) then
      .next (back (s.modCore h (·.modLeave engine fun _ => Leave.reset)))
    else .next s
  else
    let l := (s.die (dieOf h)).col.vfLeave (engine - 2)
    if l.held && decide (l.idle + idleCycles ≤ s.now) then
      .next (back (s.modDie (dieOf h) fun d => { d with col := { d.col with leave := tdel d.col.leave (engine - 2) } }))
    else .next s

/-- THERMAL_THROTTLE: 0 none, 1 one step in 2, 2 one step in 4 and no new grant (R454). -/
def execThermalThrottle (die level : Nat) (s : State) : Out :=
  .next (s.modDie die fun d => { d with thr := min level 2 })

end Sys2Proof.Machine
end

