-- ==== Sys2Proof/Machine/Bus.lean ====
section
/-! DEFINITION. The Eweus counting bus: handles, groups, leases, chunks counted and checked, OBRED and OBMAX, the
segments and their calibration (chapter 15: R349–R383). -/

namespace Sys2Proof.Machine

/-! ## Ports and segments (R17, R350, R356, R447) -/

/-- Usable cells at a segment rate. -/
def cuse (rate : Nat) : Nat := if 32 ≤ rate then 64 else if 24 ≤ rate then 48 else if 16 ≤ rate then 32 else 0

/-- The rate that a DOMAIN entry requests. -/
def rateOf (code : Nat) : Nat := if code = 0 then 32 else if code = 1 then 24 else 16

/-- A segment that a port of this module joins for the first time; it carries nothing before its calibration (R353, R355). -/
def Seg.fresh (n : Nat) : Seg :=
  { Seg.blank with
    nports := Config.segPorts n, others := 32, foreignWeight := Config.foreignWeight n, lowest := Config.segLowest n }

/-- The number of the frame under way: a frame of 128 ns is 204.8 cycles (R350). DESIGN CHOICE (log 78): frames are counted
from CYCLE 0. -/
def State.frame (s : State) : Nat := s.now * 5 / 1024

/-! ## Handles (R361, R382) -/

/-- The name of a handle of the module: core, owner, number. -/
structure HandleId where
  h : Nat
  u : UnitId
  n : Nat
  deriving DecidableEq, Repr

/-- Every bound handle of the module: of units that run, of evicted ones, and of castled-out partitions. -/
def State.handles (s : State) : List (HandleId × Handle) :=
  (s.cores ++ s.castled.flatMap (·.cores)).flatMap (fun (h, c) =>
    (c.bus ++ c.evicted.flatMap (fun e => e.bus)).map (fun b => ({ h := h, u := b.2.unit, n := b.1 }, b.2)))

/-- The handle that an event numbers: 0–3 of the resident unit, 4 (k + 1) + n of the k-th evicted one. -/
def State.handleAt (s : State) (h n : Nat) : Option (HandleId × Handle) :=
  let t : Table Handle :=
    if n < 4 then (s.core h).bus else (((s.core h).evicted[n / 4 - 1]?).map (·.bus)).getD []
  (tget t (n % 4)).map (fun b => ({ h := h, u := b.unit, n := n % 4 }, b))

def State.modHandle (s : State) (i : HandleId) (f : Handle → Handle) : State :=
  let g (n : Nat) (b : Handle) : Handle := if n = i.n ∧ b.unit = i.u then f b else b
  s.everyCore i.h fun c =>
    { c with bus := tmap c.bus g, evicted := c.evicted.map (fun e => { e with bus := tmap e.bus g }) }

/-- Frees a handle. -/
def State.dropHandle (s : State) (i : HandleId) : State :=
  let keep (e : Nat × Handle) : Bool := !(e.1 == i.n && e.2.unit == i.u)
  s.everyCore i.h fun c =>
    { c with bus := c.bus.filter keep, evicted := c.evicted.map (fun e => { e with bus := e.bus.filter keep }) }

def State.busReport (s : State) (i : HandleId) (tid st : Nat) : State :=
  s.wordsOf i.h i.u tid fun u => { u with bstat := st }

/-- The partitions of this module that use a segment: all, where one of its ports joins it (R357, R446). -/
def State.segParts (s : State) (n : Nat) : Table Part :=
  if s.ports.any (fun x => x.2.en && x.2.seg == n) then s.parts else []

/-- W: the weights of the segment's partitions (R357). -/
def State.segWeight (s : State) (n : Nat) : Nat :=
  (s.segParts n).foldl (fun a p => a + p.2.weight) (s.seg n).foreignWeight

/-- G_p at a segment rate (R357). -/
def State.guaranteed (s : State) (n p rate : Nat) : Nat := cuse rate * (s.part p).weight / s.segWeight n

/-- What the partitions of the other modules are guaranteed, at most. -/
def State.guaranteedFar (s : State) (n rate : Nat) : Nat := cuse rate * (s.seg n).foreignWeight / s.segWeight n

def State.handleGroup (s : State) (b : Handle) : Option Group := tget (s.seg (s.handleSeg b)).groups b.gid

/-- Every member of the group has joined. -/
def State.groupWhole (s : State) (b : Handle) : Bool :=
  ((s.handleGroup b).map (fun g => decide (g.n ≤ g.ranks.length))).getD false

/-- Handles whose group is complete become joined (R361). -/
def State.settleJoins (s : State) : State :=
  s.handles.foldl (fun s (i, b) =>
    if b.st = 1 ∧ b.asking = false ∧ s.groupWhole b then s.modHandle i fun b => { b with st := 2 } else s) s

/-- A handle that OBLEAVE named is unbound once its operations are over (R363). -/
def State.leaveNow (s : State) (i : HandleId) : State :=
  match s.handles.find? (fun x => x.1 == i) with
  | some (_, b) =>
    if b.st = 3 ∧ b.asking = false ∧ b.ops.isEmpty then
      ((s.leaveGroups b).dropHandle i).busReport i b.ltid St.ok
    else s
  | none => s

/-! ## Operand words (R376) -/

def BusOp.soff (o : BusOp) : Nat := bits o.forms.toNat 0 18
def BusOp.sent (o : BusOp) : Nat := bits o.forms.toNat 18 6
def BusOp.doff (o : BusOp) : Nat := bits o.forms.toNat 24 18
def BusOp.dent (o : BusOp) : Nat := bits o.forms.toNat 42 6
def BusOp.xent (o : BusOp) : Nat := bits o.forms.toNat 48 6
def BusOp.ne (o : BusOp) : Nat := bits o.geom.toNat 0 16 + 1
def BusOp.planes (o : BusOp) : Nat := if o.max then 8 else bits o.geom.toNat 16 5 + 1
def BusOp.scaled (o : BusOp) : Bool := !o.max && bits o.geom.toNat 21 2 == 1
def BusOp.counter (o : BusOp) : Option Nat := if bit o.geom.toNat 27 then some (bits o.geom.toNat 23 4) else none

/-- Cells that carry chunks of the member's operation: of its own lease, or of that of the member of rank 0. -/
def Lease.total (l : Lease) : Nat := l.cells + l.given

/-- The lease of an operation on a segment, `l1` being the one of its port. -/
def BusOp.leaseOn (o : BusOp) (l1 n : Nat) : Lease := if n = l1 then o.lease else (tget o.rails n).getD Lease.none

def BusOp.setLease (o : BusOp) (l1 n : Nat) (x : Lease) : BusOp :=
  if n = l1 then { o with lease := x } else { o with rails := tput o.rails n x }

def BusOp.asks (o : BusOp) : Nat := bits o.geom.toNat 28 6 + 1
def BusOp.total (o : BusOp) : Nat := (o.ne + 30) / 31

/-- Check 1 of R378 on the words alone. -/
def BusOp.wordsBad (o : BusOp) : Bool :=
  let g := o.geom.toNat
  bits o.forms.toNat 54 10 != 0 || bits g 34 30 != 0 || decide (2 ≤ bits g 21 2) ||
  (if o.max then bits g 16 5 != 0 || bits g 21 2 != 0 else bits g 16 5 == 0) ||
  (!bit g 27 && bits g 23 4 != 0) || (!o.scaled && bits o.forms.toNat 48 6 != 0)

/-! ## Checks at acceptance (R378) -/

/-- FORMAT and SAT at byte `o` of a tile's visible banks. -/
def State.tileFmt (s : State) (h : Nat) (u : UnitId) (e o : Nat) : Nat × Bool :=
  match s.unitTile h u e with
  | some t => s.unitFmt h u (t.vbank + o / 0x4000)
  | none => (0, false)

def State.tileHolds (s : State) (h : Nat) (u : UnitId) (e o n : Nat) : Bool :=
  match s.unitTile h u e with
  | some t => s.inTile h u t o n
  | none => false

/-- A source that OBRED can read: INT8, INT16 or INT32 in integer mode; no RAW and no codebook. -/
def sourceBad (code : Nat) (scaled : Bool) : Bool :=
  match fmtOf code with
  | some (.int _) => false
  | some (.flt _) => !scaled
  | none => !(scaled && code == 12)

/-- A destination that OBRED can write: BSI8 takes whole blocks of 32 elements. -/
def destBad (x : ElemRun) (scaled : Bool) : Bool :=
  match fmtOf x.code with
  | some _ => false
  | none => !(x.code == 12 && scaled && x.n % 32 == 0 && x.k0 % 32 == 0)

/-- The source and destination elements of an operation, in the formats of their banks; OBMAX moves bytes. -/
def State.busSrc (s : State) (h : Nat) (o : BusOp) : List ElemRun :=
  elemRuns (fun b => if o.max then 6 else (s.tileFmt h o.unit o.sent b).1) o.soff o.ne

def State.busDst (s : State) (h : Nat) (o : BusOp) : List ElemRun :=
  elemRuns (fun b => if o.max then 6 else (s.tileFmt h o.unit o.dent b).1) o.doff o.ne

/-- Every bank of a tile that `n` bytes at byte `o` touch is RAW. -/
def State.rawBanks (s : State) (h : Nat) (u : UnitId) (e o n : Nat) : Bool :=
  (banksOf o n).all (fun b => (s.tileFmt h u e (b * 0x4000)).1 == 0)

def State.busGate (s : State) (h : Nat) (o : BusOp) : Gate :=
  let u := o.unit
  let shadow := ((s.unitTile h u o.dent).map (fun t => !t.nosh)).getD false
  let src := s.busSrc h o
  let dst := s.busDst h o
  let xn := (o.ne + 31) / 32
  (Gate.bad (o.wordsBad || !shadow) Late.bopf).then <|
  (Gate.all [tileGate (s.unitTile h u o.sent), if o.scaled then tileGate (s.unitTile h u o.xent) else .ok]).then <|
  (Gate.bad (!s.tileHolds h u o.sent o.soff (runsSpan src) || !s.tileHolds h u o.dent o.doff (runsSpan dst) ||
    (o.scaled && !s.tileHolds h u o.xent 0 xn)) Late.frng).then
  (Gate.bad (if o.max then !s.rawBanks h u o.sent o.soff o.ne || !s.rawBanks h u o.dent o.doff o.ne
    else src.any (fun x => sourceBad x.code o.scaled) || dst.any (fun x => destBad x o.scaled) ||
      (o.scaled && !s.rawBanks h u o.xent 0 xn)) Late.fflt)

/-! ## The commands (R375, R379–R383) -/

/-- A command of the bus of a provisional unit waits for its confirmation (R383). -/
def State.busCmd1 (s : State) (f : Word32 → State → State) : Out := s.dispatch Un.obs State.confirmed f

def State.setBstat (s : State) (st : Nat) : State := s.words fun u => { u with bstat := st }

/-- The handle that a join word asks for on core `h`; none: BADARG (R376, R379). -/
def State.joinWord (s : State) (h v : Nat) : Option Handle :=
  let gid := bits v 8 8
  let b := { Handle.unbound with st := 1, asking := true, gid := gid, unit := s.unitId h, jtid := s.curTid }
  if bits v 2 6 != 0 || bits v 25 39 != 0 then none
  else if bit v 24 then
    if bits v 0 2 != 0 || bits v 16 8 != 0 then none
    else (s.groupEnt gid).map (fun g => { b with dom := true, port := g.l1port, rank := g.g * 16 + g.j })
  else
    let p := 4 * dieOf h + bits v 0 2
    if s.portJoined p then some { b with port := p, rank := bits v 16 4, nm1 := bits v 20 4 } else none

def execObjoin (a : Reg) (look : Fin 16) (h : Fin 4) (s : State) : Out :=
  let _ := look
  s.busCmd1 fun ply s =>
    let k := s.curCore
    match s.joinWord k (s.g a).toNat with
    | none => s.setBstat St.badarg
    | some b =>
      if (tget (s.core k).bus h.val).isSome then s.setBstat St.busy
      else s.modCore k fun c => { c with bus := tput c.bus h.val { b with jply := ply } }

/-- OBMAX and OBRED at dispatch: they wait for an earlier SRW to a BFMT (R38). -/
def State.busOp (s : State) (max : Bool) (a b : Reg) (n : Nat) (rnd : Rnd) : Out :=
  let k := s.curCore
  let o : BusOp :=
    { max := max, tid := s.curTid, unit := s.unitId k, ply := 0, addr := s.cur.r.pc, forms := s.g a, geom := s.g b
      rnd := rnd, lease := Lease.none, rails := [], asked := [], started := false, src := [], exps := [], awaiting := []
      accepted := [], rejected := [], next := 0, sums := [], flags := 0, disc := false, since := s.now, leave := Leave.reset }
  let bound := ((tget (s.core k).bus n).map (fun b => b.st == 1 || b.st == 2)).getD false
  if !bound then s.busCmd1 (fun _ s => s.setBstat St.noctx)
  else
    s.dispatchChecked Un.obs (fun s => s.confirmed && !(s.core k).formatPending) (fun s => s.busGate k o) fun ply s =>
      s.modCore k fun c => { c with bus := tmod c.bus n fun b => { b with ops := b.ops ++ [{ o with ply := ply }] } }

def execObmax (a b : Reg) (look : Fin 16) (h : Fin 4) (s : State) : Out :=
  let _ := look
  s.busOp true a b h.val .rne

def execObred (a b : Reg) (look : Fin 16) (h : Fin 4) (rnd : Rnd) (s : State) : Out :=
  let _ := look
  s.busOp false a b h.val rnd

def execObleave (look : Fin 16) (h : Fin 4) (s : State) : Out :=
  let _ := look
  s.busCmd1 fun ply s =>
    let i : HandleId := { h := s.curCore, u := s.unitId s.curCore, n := h.val }
    match tget (s.core s.curCore).bus h.val with
    | some b =>
      if b.st = 3 then s.setBstat St.noctx
      else (s.modHandle i fun b => { b with st := 3, ltid := s.curTid, lply := ply }).leaveNow i
    | none => s.setBstat St.noctx

/-! ## The cells of a segment (R357, R358, R360) -/

/-- A lease on a segment: who pays for its guaranteed cells, a partition of this module or one of another, and for this
module the context that asked. -/
structure SegLease where
  part : Nat
  ctx : Nat
  lease : Lease

/-- How a partition of another module is named among those that pay for cells; who lends, of the other modules, is not
known. -/
def farPart (p : Nat) : Nat := p + 2 ^ 16
def elsewhere : Nat := 2 ^ 32

/-- Leases of this module's operations; those of a castled-out partition count as unused (R383). -/
def State.running (s : State) (n : Nat) : List SegLease :=
  s.handles.flatMap (fun (i, b) =>
    let p := (s.ctx i.u.ctx).part
    if (s.part p).out then []
    else b.ops.map (fun o => { part := p, ctx := i.u.ctx, lease := o.leaseOn (s.handleSeg b) n }))

/-- Leases whose cells a VF reset keeps back now (R360). -/
def State.keptBack (s : State) (n : Nat) : List SegLease :=
  ((s.seg n).quar.filter (fun q => decide (s.frame < q.until_))).map (fun q =>
    { part := (s.ctx q.ctx).part, ctx := q.ctx, lease := q.lease })

/-- Leases that this module's frame allocator has given to other modules (R349). -/
def State.farLeases (s : State) (n : Nat) : List SegLease :=
  (s.seg n).far.map (fun f => { part := farPart f.part, ctx := elsewhere, lease := f.lease })

def State.segLeases (s : State) (n : Nat) : List SegLease := s.running n ++ s.keptBack n ++ s.farLeases n

def leaseSum (l : List SegLease) (p : SegLease → Bool) (f : Lease → Nat) : Nat :=
  ((l.filter p).map (fun x => f x.lease)).sum

/-- Cells of a lease that a partition lends it. -/
def Lease.lentBy (q : Nat) (l : Lease) : Nat := (tget l.lent q).getD 0

/-- Guaranteed cells of a partition that its own leases hold. -/
def State.ownCells (s : State) (n p : Nat) : Nat := leaseSum (s.segLeases n) (fun x => x.part == p) (·.own)

/-- Cells of a partition that leases of others hold. -/
def State.lentFrom (s : State) (n q : Nat) : Nat := leaseSum (s.segLeases n) (fun _ => true) (Lease.lentBy q)

/-- Guaranteed cells of the other modules' partitions that their leases hold, where this module gives them. -/
def State.ownFar (s : State) (n : Nat) : Nat := leaseSum (s.farLeases n) (fun _ => true) (·.own)

/-- OBSTAT word 0. -/
def State.segmentWord (s : State) (b : Handle) (short : Bool) : Nat :=
  let n := s.handleSeg b
  let g := s.seg n
  g.wlim % 16 + g.nports % 16 * 2 ^ 4 + b2n short * 2 ^ 18 + b2n (g.cal || g.recal) * 2 ^ 19 + cuse g.rate * 2 ^ 20 +
  g.rate % 256 * 2 ^ 32 + (s.port b.port).midx % 16 * 2 ^ 40 + n % 2 ^ 16 * 2 ^ 48

/-- OBSTAT word 1. Guaranteed cells that are not leased are lent while LEND is 1 (R358). -/
def State.shareWord (s : State) (b : Handle) (p : Nat) : Nat :=
  let n := s.handleSeg b
  let q := s.part p
  let guar := s.guaranteed n p (s.seg n).rate
  let held (f : Lease → Nat) : Nat := leaseSum (s.running n) (fun x => x.part == p) f
  guar % 128 + held (·.own) % 128 * 2 ^ 8 + (if q.lend then (guar - s.ownCells n p) % 128 else 0) * 2 ^ 16 +
  held (fun l => l.lentSum + l.pool) % 128 * 2 ^ 24 + b2n q.lend * 2 ^ 32 + q.weight % 2 ^ 16 * 2 ^ 48

/-- OBSTAT word 2. -/
def State.errorWord (s : State) (b : Handle) : Nat :=
  let p := s.port b.port
  min p.girth 0xFFFF + min p.guard 0xFFFF * 2 ^ 16 + min p.stitch 0xFFFF * 2 ^ 32 + min p.recal 0xFFFF * 2 ^ 48

def execObstat (a : Reg) (look : Fin 16) (h : Fin 4) (s : State) : Out :=
  let _ := look
  s.dispatch Un.obs roomy fun _ s =>
    let c := s.curCtx
    let v := (s.g a).toNat
    match tget (s.core s.curCore).bus h.val with
    | none => s.setBstat St.noctx
    | some b =>
      let n := s.handleSeg b
      if 3 ≤ v then s.setBstat St.badarg
      else
        let short := (s.ctx c).shortg.contains n
        let w := match v with
          | 0 => s.segmentWord b short
          | 1 => s.shareWord b (s.ctx c).part
          | _ => s.errorWord b
        let s := if v = 0 then s.modCtx c fun x => { x with shortg := x.shortg.filter (· != n) } else s
        s.words fun u => { u with bstat := St.ok, bres := w64 w }

def execObcal (a : Reg) (look : Fin 16) (s : State) : Out :=
  let _ := look
  s.busCmd1 fun _ s =>
    let v := (s.g a).toNat
    let x := s.ctx s.curCtx
    let p := 4 * dieOf s.curCore + bits v 2 2
    if bit v 1 || bits v 6 58 != 0 then s.setBstat St.badarg
    else if x.level ≠ 0 then
      (s.modCore s.curCore fun c => { c with regs := { c.regs with notRoot := true } }).setBstat St.denied
    else if bit v 0 && !s.portJoined p then s.setBstat St.badarg
    else
      let s := if bit v 4 then s.modPart x.part fun q => { q with lend := bit v 5 } else s
      let s := if bit v 0 then s.modSeg (s.port p).seg fun g => { g with cal := true } else s
      s.setBstat St.ok

/-- An OBS command of a thread has not completed (R380, R382). -/
def State.busPend (s : State) (h tid : Nat) : Bool :=
  (s.core h).bus.any (fun b => b.2.busy (s.unitId h) tid (fun _ => true))

def execObwait (look : Fin 16) (s : State) : Out :=
  let _ := look
  s.unitWait Un.obs 0 (fun s => !s.busPend s.curCore s.curTid)

/-! ## Joins (R361, R362) -/

/-- The segment master's answer to a join of `part`. -/
def Seg.joinStatus (g : Seg) (gid rank part n : Nat) : Nat :=
  match tget g.groups gid with
  | some x =>
    if x.part ≠ part then St.denied
    else if x.n ≠ n ∨ n ≤ rank then St.badarg
    else if x.ranks.contains rank then St.busy
    else St.ok
  | none => if n ≤ rank then St.badarg else if 256 ≤ g.groups.length then St.nores else St.ok

def Seg.join (g : Seg) (gid rank part n : Nat) : Seg :=
  let x : Group := (tget g.groups gid).getD { part := part, n := n, ranks := [] }
  { g with groups := tput g.groups gid { x with ranks := x.ranks ++ [rank] } }

/-- What this module's frame allocator, as the master, says of a join of a handle, on the first segment that refuses it: a
domain group is a group of every segment that the handle uses (R349, R362, R374). -/
def State.joinStatus (s : State) (b : Handle) : Nat :=
  (((s.uses b).filter (fun x => s.masters x.seg)).map (fun x =>
    (s.seg x.seg).joinStatus b.gid b.rank (s.ctx b.unit.ctx).part (s.handleMembers b))).foldl
    (fun a st => if a = St.ok then st else a) St.ok

/-- A join is refused (R362, R379): the masters in `told` forget it, and an OBLEAVE that was waiting for it finds no
handle. -/
def State.joinRefused (s : State) (i : HandleId) (b : Handle) (st : Nat) (told : List Nat) : State :=
  let s := told.foldl (fun s n => s.netSend (.left n b.gid b.rank)) s
  let s := (s.dropHandle i).busReport i b.jtid st
  if b.st = 3 then s.busReport i b.ltid St.noctx else s

/-- A join that no master refuses is done, on each segment of the handle, and the other members are told (R361, R379). -/
def State.joinDone (s : State) (i : HandleId) (b : Handle) : State :=
  let part := (s.ctx b.unit.ctx).part
  let s := (s.uses b).foldl (fun s x =>
    (s.modSeg x.seg (·.join b.gid b.rank part (s.handleMembers b))).netSend
      (.joined x.seg b.gid b.rank part (s.handleMembers b))) s
  let s := (s.modHandle i fun b => { b with asking := false, masters := none }).busReport i b.jtid St.ok
  s.settleJoins.leaveNow i

/-- The masters on other modules, `far` in number, have nothing against a join. -/
def State.joinDecided (s : State) (i : HandleId) (b : Handle) (far : List Nat) : State :=
  let st := s.joinStatus b
  if st = St.ok then s.joinDone i b else s.joinRefused i b st far

/-- Segments that a handle uses and whose masters are other modules. -/
def State.farUses (s : State) (b : Handle) : List Nat := ((s.uses b).map (·.seg)).filter (fun n => !s.masters n)

/-- GROUP_JOIN_CHECK: the join is put to the segment masters, of which this module may be one (R349, R362). -/
def execGroupJoinCheck (h handle : Nat) (s : State) : Out :=
  match s.handleAt h handle with
  | some (i, b) =>
    if b.asking && b.masters.isNone then
      let st := s.joinStatus b
      let far := s.farUses b
      if st ≠ St.ok then .next (s.joinRefused i b st [])
      else if far.isEmpty then .next (s.joinDone i b)
      else
        let s := s.modHandle i fun b => { b with masters := some far }
        .next (far.foldl (fun s n =>
          s.netSend (.joinRequest n b.gid b.rank (s.ctx b.unit.ctx).part (s.handleMembers b))) s)
    else .next s
  | none => .next s

/-- The answer of a master to a join; a handle that is gone has left (R362). -/
def State.joinAnswer (s : State) (seg gid rank st : Nat) : State :=
  match s.handles.find? (fun x => x.2.gid == gid && x.2.rank == rank && x.2.asking &&
      ((x.2.masters.map (·.contains seg)).getD false)) with
  | some (i, b) =>
    let far := (b.masters.getD []).filter (· != seg)
    if st ≠ St.ok then s.joinRefused i b st ((s.farUses b).filter (· != seg))
    else if far.isEmpty then s.joinDecided i b (s.farUses b)
    else s.modHandle i fun b => { b with masters := some far }
  | none => if st = St.ok then s.netSend (.left seg gid rank) else s

/-! ## The end of an operation (R359, R371, R377, R379) -/

/-- The class of a unit now: resident, evicted or ended (R322, R335). -/
def State.unitClass (s : State) (h : Nat) (u : UnitId) : Nat :=
  if (s.core h).unit.map (·.id) = some u then s.resClass h
  else ((s.launch? u.lnum).map (fun l => l.classOf (match tget l.units u.index with
    | some (.evicted _ _ r ..) => r
    | _ => 0))).getD 0

/-- Operation `k` of a handle is over: its lease and its leave go back, and it reports. -/
def State.endBus (s : State) (i : HandleId) (k st : Nat) : State :=
  match (s.handles.find? (fun x => x.1 == i)).bind (fun x => x.2.ops[k]?) with
  | none => s
  | some o =>
    let s := s.modDie (dieOf i.h) fun d => d.dropLeave i.h 3 (b2n o.leave.held) (· == busCmd i.u i.n)
    let s := match s.handles.find? (fun x => x.1 == i) with
      | some (_, b) => if k = 0 && !o.asked.isEmpty then s.endFarLease b else s
      | none => s
    let s := (s.modHandle i fun b => { b with ops := b.ops.eraseIdx k }).flagsOf i.h i.u o.tid o.flags
    (s.wordsOf i.h i.u o.tid fun u => { u with bstat := st, bdisc := o.disc }).leaveNow i

/-- Statuses of an operation that is cut short (R382). -/
def Bst.tmo : Nat := 6
def Bst.noslot : Nat := 13
def Bst.abort : Nat := 14
def Bst.buserr : Nat := 15

/-- A port that the handle uses, or its segment, carries nothing (R353, R354, R374). -/
def State.busDown (s : State) (b : Handle) : Bool :=
  (s.uses b).any (fun x => (s.port x.port).excluded || !s.portJoined x.port || (s.seg x.seg).down)

/-- The handles of a group. -/
def State.members (s : State) (seg gid : Nat) : List (HandleId × Handle) :=
  s.handles.filter (fun x => x.2.gid == gid && (s.uses x.2).any (fun y => y.seg == seg))

/-- The first operation of every handle of a group ends. -/
def State.endGroup (s : State) (seg gid st : Nat) (p : BusOp → Bool) : State :=
  (s.members seg gid).foldl (fun s (i, b) => if (b.ops.head?.map p).getD false then s.endBus i 0 st else s) s

/-! ## Leases (R356–R359) -/

/-- The first operation of a handle changes. -/
def State.modHead (s : State) (i : HandleId) (f : BusOp → BusOp) : State :=
  s.modHandle i fun b =>
    { b with ops := match b.ops with
        | o :: os => f o :: os
        | [] => [] }

/-- Guaranteed cells that a lease of a context may still take: those of its partition that a lease of the partition or a
VF reset does not hold, within the share of the context (R357, R360). -/
def State.freeCells (s : State) (n c : Nat) : Nat :=
  let p := (s.ctx c).part
  let g := s.guaranteed n p (s.seg n).rate
  let share := (s.ctx c).cells * g / (s.part p).weight
  min (g - (s.ownCells n p + leaseSum (s.keptBack n) (fun _ => true) (Lease.lentBy p)))
    (share - leaseSum (s.segLeases n) (fun x => x.ctx == c) (·.own))

/-- Cells of a segment that carry nothing leased, whosever they are. -/
def State.openCells (s : State) (n : Nat) : Nat :=
  cuse (s.seg n).rate - leaseSum (s.segLeases n) (fun _ => true) (·.cells)

/-- Cells that partitions of this module other than `p` leave lent, by lender: those with LEND, what they neither lease nor
lend already (R358). -/
def State.lenders (s : State) (n p : Nat) : Table Nat :=
  ((s.segParts n).filter (fun q => q.1 != p && q.2.lend)).map (fun q =>
    (q.1, s.guaranteed n q.1 (s.seg n).rate - (s.ownCells n q.1 + s.lentFrom n q.1)))

/-- With those, at most, that the partitions of other modules lend. -/
def State.allLenders (s : State) (n p : Nat) : Table Nat :=
  s.lenders n p ++ [(elsewhere, s.guaranteedFar n (s.seg n).rate - (s.ownFar n + s.lentFrom n elsewhere))]

def State.lentCells (s : State) (n p : Nat) : Nat := ((s.allLenders n p).map (·.2)).sum

/-- Pool cells that no lease holds, at most: of what no partition of this module is guaranteed (R357). -/
def State.poolCells (s : State) (n : Nat) : Nat :=
  cuse (s.seg n).rate - (((s.segParts n).map (fun q => s.guaranteed n q.1 (s.seg n).rate)).sum +
    leaseSum (s.segLeases n) (fun _ => true) (·.pool))

/-- `k` cells of lenders, from the first. -/
def takeLent (k : Nat) : Table Nat → Table Nat
  | [] => []
  | (q, n) :: l => if min k n = 0 then takeLent k l else (q, min k n) :: takeLent (k - min k n) l

/-- The lease that the allocator gives where `free` guaranteed, `lent` lent and `pool` pool cells are to be had (R359). -/
def State.leaseFor (s : State) (n asks free : Nat) (lenders : Table Nat) (lent pool : Nat) : Lease :=
  let own := min asks free
  let room := s.openCells n - own
  let fromLent := min (min (asks - own) room) (min lent (lenders.map (·.2)).sum)
  { own := own, lent := takeLent fromLent lenders
    pool := min (min (asks - own) room - fromLent) (min pool (s.poolCells n)), given := 0 }

/-- The operation of a handle has a lease on a segment; SHORT tells that one of its leases falls short (R359). -/
def State.takeLease (s : State) (i : HandleId) (b : Handle) (o : BusOp) (n : Nat) (l : Lease) : State :=
  let first := o.lease.total == 0 && o.rails.all (fun x => x.2.total == 0)
  let s := if o.started then s
    else s.wordsOf i.h i.u o.tid fun u => { u with bshort := (!first && u.bshort) || decide (l.total < o.asks) }
  s.modHead i (·.setLease (s.handleSeg b) n l)

/-- The members of a group learn what their operation's lease is: over the network, and here those that do not lead
(R359). -/
def State.tellLease (s : State) (n gid : Nat) (l : Lease) : State :=
  let s := s.netSend (.leaseGrant n gid l.own l.lentSum l.pool)
  (s.members n gid).foldl (fun s (i, b) =>
    match (s.uses b).find? (fun x => x.seg == n), b.ops.head? with
    | some x, some o => if x.lead then s else s.takeLease i b o n { Lease.none with given := l.cells }
    | _, _ => s) s

/-- Up to `k` cells are taken from the leases on a segment of the partitions that `sel` names, the last lease first, those
that this module has given to others after its own; `f` takes them from one lease and says how many it had. -/
def State.cutLeases (s : State) (n k : Nat) (sel : Nat → Bool) (f : Lease → Nat → Nat × Lease) : State :=
  if k = 0 ∨ !s.masters n then s
  else
    let (s, k) := s.handles.reverse.foldl (fun (s, k) (i, b) =>
      match if sel (s.ctx i.u.ctx).part && !(s.part (s.ctx i.u.ctx).part).out then b.ops.head? else none with
      | some o =>
        let (c, l) := f (o.leaseOn (s.handleSeg b) n) k
        if c = 0 then (s, k) else ((s.modHead i (·.setLease (s.handleSeg b) n l)).tellLease n b.gid l, k - c)
      | none => (s, k)) (s, k)
    ((s.seg n).far.foldl (fun (s, k) x =>
      let (c, l) := f x.lease k
      if c = 0 ∨ !sel (farPart x.part) then (s, k)
      else
        ((s.modSeg n fun g => { g with far := g.far.map (fun y => if y == x then { y with lease := l } else y) }).tellLease n
          x.gid l, k - c)) (s, k)).1

/-- A partition's own leases lose what is beyond its guarantee (R356). -/
def State.cutOwn (s : State) (n p : Nat) : State :=
  s.cutLeases n (s.ownCells n p - s.guaranteed n p (s.seg n).rate) (· == p) fun l k =>
    (min k l.own, { l with own := l.own - min k l.own })

/-- Lent cells of `q` go back while leases hold more of its cells than it has, for it has taken its own (R358). -/
def State.cutLent (s : State) (n q room : Nat) : State :=
  s.cutLeases n (s.lentFrom n q - room) (fun _ => true) fun l k =>
    let c := min k (l.lentBy q)
    (c, { l with lent := (tput l.lent q (l.lentBy q - c)).filter (fun x => x.2 != 0) })

/-- Every partition's lent cells, and the pool cells, are cut to what there is. Pool cells are ever too many only after a
change of the rate or of the partitions, or the return of a castled partition (R356, R358, R383). -/
def State.settleCells (s : State) (n : Nat) : State :=
  let r := (s.seg n).rate
  let s := (s.segParts n).foldl (fun s q => s.cutLent n q.1 (s.guaranteed n q.1 r - s.ownCells n q.1)) s
  let s := s.cutLent n elsewhere (s.guaranteedFar n r - s.ownFar n)
  s.cutLeases n (leaseSum (s.segLeases n) (fun _ => true) (·.cells) - cuse r) (fun _ => true) fun l k =>
    (min k l.pool, { l with pool := l.pool - min k l.pool })

/-- One segment's lease is decided for the first operation of a handle that leads there, or asked of the segment's master;
none: no cell is free. -/
def State.leaseSeg (s : State) (i : HandleId) (b : Handle) (o : BusOp) (x : SegUse) (lent pool : Nat) : Option State :=
  if s.masters x.seg then
    let p := (s.ctx o.unit.ctx).part
    let l := s.leaseFor x.seg o.asks (s.freeCells x.seg o.unit.ctx) (s.allLenders x.seg p) lent pool
    if l.cells = 0 then none
    else some (((s.takeLease i b o x.seg l).tellLease x.seg b.gid l).settleCells x.seg)
  else if o.asked.contains x.seg then some s
  else
    let p := (s.ctx o.unit.ctx).part
    some ((s.modHead i fun o => { o with asked := o.asked ++ [x.seg] }).netSend
      (.leaseRequest x.seg b.gid p (s.part p).weight o.asks))

/-- A request of another module, which this module's frame allocator decides; how many cells the partitions of other modules
lend it does not know (R349, R359). -/
def State.leaseFar (s : State) (n gid part weight asks : Nat) : State :=
  let s := s.modSeg n fun g => { g with far := g.far.filter (fun x => x.gid != gid) }
  let r := (s.seg n).rate
  let p := farPart part
  let free := cuse r * weight / s.segWeight n - s.ownCells n p
  let lenders := s.lenders n p
  let l := s.leaseFor n asks free lenders (lenders.map (·.2)).sum (s.poolCells n - s.guaranteedFar n r)
  if l.cells = 0 then (s.netSend (.noSlot n gid)).endGroup n gid Bst.noslot (fun o => !o.started)
  else
    ((s.modSeg n fun g => { g with far := g.far ++ [{ gid := gid, part := part, weight := weight, lease := l }] }).tellLease n
      gid l).settleCells n

/-- Segments on which the first operation of a handle is to ask for its lease. -/
def State.unleased (s : State) (b : Handle) (o : BusOp) : List SegUse :=
  (s.uses b).filter (fun x => x.lead && (o.leaseOn (s.handleSeg b) x.seg).cells == 0)

/-- The thread of an operation is halted: what it has not started does not start (R425). -/
def State.busHalted (s : State) (i : HandleId) (o : BusOp) : Bool :=
  !o.started && (s.core i.h).unit.map (·.id) == some i.u && (s.thread i.h o.tid).halted

/-- LEASE_REQUEST: the first operation of a handle asks for leave, then, where it is the member of rank 0, for its lease on
each segment that it uses; `lent` and `pool` cells are free at the allocator. An operation under way whose cells went back to
their owner asks for cells again, and goes on without any (R358). -/
def execLeaseRequest (h handle lent pool : Nat) (s : State) : Out :=
  match s.handleAt h handle with
  | none => .next s
  | some (i, b) =>
    match b.ops with
    | [] => .next s
    | o :: _ =>
      let seek (s : State) : Option State :=
        (s.unleased b o).foldl (fun r x => r.bind (fun s => s.leaseSeg i b o x lent pool)) (some s)
      if s.busDown b then .next (s.endBus i 0 Bst.buserr)
      else if b.st = 1 ∨ b.asking = true ∨ s.busHalted i o = true then .next s
      else if o.started then .next ((seek s).getD s)
      else if !s.groupWhole b then .next (s.endBus i 0 Bst.abort)
      else if !o.leave.wanted then
        .next ((s.askLeave h 3 (busCmd i.u i.n) (s.unitClass h i.u)).modHead i fun o =>
          { o with leave := { o.leave with wanted := true } })
      else if !o.leave.held ∨ (s.unleased b o).isEmpty then .next s
      else
        match seek s with
        | some s => .next s
        | none => .next ((s.uses b).foldl (fun s x => s.netSend (.noSlot x.seg b.gid)) (s.endBus i 0 Bst.noslot))

/-! ## Sources (R365, R377) -/

/-- Element `k` of an OBRED source. -/
def sourceElem (code : Nat) (bs : List Byte) (k : Nat) : Num :=
  match fmtOf code with
  | some f => decodeFmt f (numOf ((bs.drop (k * elemSize code)).take (elemSize code)))
  | none => recElem code ((bs.drop (k / recElems code * recBytes code)).take (recBytes code)) (k % recElems code)

/-- mantissa (R365). -/
def mantissa (x : Num) (e p : Nat) (rnd : Rnd) : Nat × Flags :=
  if e = 0xFF then (0, 0) else encodeInt (mulExact x (.exact false 1 (127 - (e : Int)))) p rnd true

/-- Bytes of a tile's visible banks; zeros where nothing is there any more. -/
def State.tileBytes (s : State) (h : Nat) (u : UnitId) (e o n : Nat) : List Byte :=
  match s.unitTile h u e with
  | some t => s.unitRead h u (t.vbank * 0x4000 + o) n
  | none => List.replicate n 0

/-- The sources are read once, as the operation starts. -/
def State.busRead (s : State) (h : Nat) (o : BusOp) : BusOp :=
  let u := o.unit
  if o.max then
    { o with started := true, src := (s.tileBytes h u o.sent o.soff o.ne).map (·.toNat) }
  else
    let exps := if o.scaled then (s.tileBytes h u o.xent 0 ((o.ne + 31) / 32)).map (·.toNat) else []
    let xs := (s.busSrc h o).flatMap (fun x =>
      let bs := s.tileBytes h u o.sent x.o x.span
      if isRec x.code then (List.range x.n).map (fun k => sourceElem x.code bs k)
      else (chunks (elemSize x.code) x.n bs).map (fun c => sourceElem x.code c 0))
    let ms := xs.zipIdx.map (fun (x, k) => mantissa x (exps.getD (k / 32) 127) o.planes o.rnd)
    { o with
      started := true, src := ms.map (·.1), exps := exps
      flags := o.flags ||| ms.foldl (fun f m => f ||| m.2) 0 }

/-! ## Receiving a chunk (R366, R368, R372) -/

/-- The counts of one pass of one chunk: slot, wavelength. -/
abbrev Counts := List (List Nat)

def Counts.at_ (c : Counts) (slot w : Nat) : Nat := (List.getD c slot []).getD w 0

/-- What one pass shows: whether each check holds, and a value for each of 31 wavelengths. -/
structure PassEnd where
  girth : Bool
  guard : Bool
  stitch : Bool
  rest : Bool
  value : List Int

def PassEnd.ok (p : PassEnd) : Bool := p.girth && p.guard && p.stitch && p.rest

/-- receive_chunk (R366). -/
def receiveChunk (c : Counts) (n p : Nat) : PassEnd :=
  let value := (List.range 31).map (fun w =>
    ((List.range (p - 1)).foldl (fun a b => a + c.at_ (1 + b) w * 2 ^ b) 0 : Nat) - (c.at_ p w * 2 ^ (p - 1) : Nat) : Nat → Int)
  let chk := (List.range (min 8 p)).foldl (fun a b => a + c.at_ (1 + b) 31 * 2 ^ b) 0
  { girth := (List.range 32).all (fun w => c.at_ 0 w == n)
    guard := (List.range 32).all (fun w => c.at_ (p + 1) w == 0)
    stitch := value.foldl (fun a v => a + v) 0 % 251 == (chk : Int) % 251
    rest := ((List.range p).drop 8).all (fun b => c.at_ (1 + b) 31 == 0)
    value := value }

/-- The agreed byte of a wavelength, and whether the member's own byte, if it wrote one, read true; the slots, one bit for
each of planes 7 to 0, in which the member lit it (R372). -/
def agreeByte (c : Counts) (w : Nat) (own : Option Nat) : Nat × Bool × List Bool :=
  let (v, _, ok, out) := (List.range 8).foldl (fun (v, still, ok, out) k =>
    let lit := c.at_ (1 + k) w != 0
    let mine := (own.map (fun x => bit x (7 - k))).getD false
    (2 * v + b2n lit, still && !(lit && !mine), ok && !(still && mine && !lit), out ++ [still && mine]))
    (0, own.isSome, true, ([] : List Bool))
  (v, ok, out)

/-- Acceptance of one pass of OBMAX (R372). -/
def receiveMax (c : Counts) (n : Nat) (own : Option (List Nat)) : PassEnd :=
  let rs := (List.range 31).map (fun w => agreeByte c w (own.map (fun l => l.getD w 0)))
  { girth := (List.range 32).all (fun w => c.at_ 0 w == n)
    guard := (List.range 32).all (fun w => c.at_ 10 w == 0)
    stitch := true
    rest := (List.range 10).all (fun k => c.at_ k 31 == n) && (List.range 31).all (fun w => c.at_ 9 w != 0) &&
      rs.all (·.2.1)
    value := rs.map (fun r => (r.1 : Int)) }

/-- Values of several passes or stages together: exact sums, or maxima. -/
def combine (max : Bool) (a b : List Int) : List Int :=
  if a.isEmpty then b else if b.isEmpty then a else a.zipWith (fun x y => if max then (if x < y then y else x) else x + y) b

/-- Writers of pass `j` of `n` members at a writer limit (R368). -/
def passWriters (n wlim j : Nat) : Nat := min wlim (n - j * wlim)

def passCount (n wlim : Nat) : Nat := if wlim = 0 then 0 else (n + wlim - 1) / wlim

/-- A slot in which the wavelengths that `f` names are lit. -/
def slotOf (f : Nat → Bool) : Nat := (List.range 32).foldl (fun a w => a + b2n (f w) * 2 ^ w) 0

/-- The slots of a reduce chunk of `p` planes that a writer lights: girth, planes with its stitch check, guard (R364,
R365). -/
def litSum (p : Nat) (own : List Int) : List Nat :=
  let c := (own.foldl (fun a v => a + v) 0 % 251).toNat
  slotOf (fun _ => true) ::
    ((List.range p).map (fun b => slotOf (fun w =>
      if w = 31 then decide (b < 8) && bit c b else bit (BitVec.ofInt p (own.getD w 0)).toNat b)) ++ [0])

/-- The slots of an OBMAX chunk that a writer lights, by the counts that it reads (R372). -/
def litMax (c : Counts) (own : List Int) : List Nat :=
  let rs := (List.range 31).map (fun w => agreeByte c w (some (own.getD w 0).toNat))
  slotOf (fun _ => true) ::
    ((List.range 8).map (fun k => slotOf (fun w => w == 31 || ((rs[w]?).map (fun r => r.2.2.getD k false)).getD false)) ++
      [slotOf (fun w => w == 31 || ((rs[w]?).map (fun r => r.1 == (own.getD w 0).toNat)).getD false), 0])

/-- One pass of a chunk with its checks. -/
def receivePass (max : Bool) (c : Counts) (n p : Nat) (own : Option (List Int)) : PassEnd :=
  if max then receiveMax c n (own.map (·.map (·.toNat))) else receiveChunk c n p

/-- One stage of a chunk on a segment: the port there, the members that reply, how the passes ended, and the pass in which
this member lit slots, with what it lit there (R374). -/
structure Stage where
  port : Nat
  members : Nat
  rx : List PassEnd
  mine : Nat
  lit : List Nat

/-- The passes of one stage among `cs`, from the first, of `n` writers: how it ended, its values, and the passes after it.
`own`: what this member writes, in pass `mine`. -/
def receiveStage (max : Bool) (port members n wlim p : Nat) (own : Option (Nat × List Int)) (cs : List Counts) :
    Stage × List Int × List Counts :=
  let k := passCount n wlim
  let rs := (List.range k).map (fun j =>
    receivePass max (cs.getD j []) (passWriters n wlim j) p
      (own.bind (fun o => if o.1 = j then some o.2 else none)))
  let lit := match own with
    | some (j, v) => if max then litMax (cs.getD j []) v else litSum p v
    | none => []
  ({ port := port, members := members, rx := rs, mine := (own.map (·.1)).getD 0, lit := lit }, rs.foldl (fun a r => combine max a r.value) [], cs.drop k)

/-- The 31 bytes or mantissas that this member sends in a chunk, as values. -/
def BusOp.chunkSrc (o : BusOp) (c : Nat) : List Int :=
  (List.range 31).map (fun w =>
    let v := o.src.getD (31 * c + w) 0
    if o.max then (v : Int) else sInt o.planes v)

/-- A chunk on one segment. -/
def State.receiveOne (s : State) (b : Handle) (o : BusOp) (c : Nat) (cs : List Counts) : List Stage × List Int :=
  let wlim := (s.seg (s.handleSeg b)).wlim
  let (x, v, _) := receiveStage o.max b.port (b.nm1 + 1) (b.nm1 + 1) wlim (Nat.max o.planes 8)
    (some (b.rank / Nat.max wlim 1, o.chunkSrc c)) cs
  ([x], v)

/-- A chunk of a domain group: level 1, then at the chunk's own position the rails and their exchange, and the
last stage of level 1 (R374). -/
def State.receiveDomain (s : State) (g : GroupEnt) (b : Handle) (o : BusOp) (c : Nat) (cs : List Counts) :
    List Stage × List Int :=
  let wide (n : Nat) : Nat := if o.max then 8 else Nat.max n 8
  let w1 := (s.seg (s.handleSeg b)).wlim
  let mine (r wlim : Nat) (v : List Int) : Option (Nat × List Int) := some (r / Nat.max wlim 1, v)
  let (x1, v1, cs) := receiveStage o.max b.port 16 16 w1 (wide o.planes) (mine (b.rank % 16) w1 (o.chunkSrc c)) cs
  if c % 16 = g.j then
    let wa := (s.seg g.rsega).wlim
    let wb := (s.seg g.rsegb).wlim
    let two := decide (14 < g.ng)
    let na := min g.ng 14
    let nb := g.ng - 13
    let (xa, va, cs) := if g.ina then
        let (x, v, cs) := receiveStage o.max g.rporta na na wa (wide (o.planes + 4)) (mine g.g wa v1) cs
        ([x], v, cs)
      else ([], [], cs)
    let (xb, vb, cs) := if g.inb && two then
        let (x, v, cs) := receiveStage o.max g.rportb nb (g.ng - 14) wb (wide (o.planes + 4))
          (if 14 ≤ g.g then mine (g.g - 14) wb v1 else none) cs
        ([x], v, cs)
      else ([], [], cs)
    let (xc, vc, cs) := if g.ina && two then
        let (x, v, cs) := receiveStage o.max g.rporta na 1 1 (wide (o.planes + 9)) (if g.bridge then mine 0 1 vb else none) cs
        ([x], v, cs)
      else ([], [], cs)
    let (xd, vd, cs) := if g.inb && two then
        let (x, v, cs) := receiveStage o.max g.rportb nb 1 1 (wide (o.planes + 9)) (if g.bridge then mine 0 1 va else none) cs
        ([x], v, cs)
      else ([], [], cs)
    let total := combine o.max (if g.ina then va else vd) (if g.inb && two then vb else vc)
    let (xe, ve, _) := receiveStage o.max b.port 16 1 1 (wide (o.planes + 9)) (mine 0 1 total) cs
    ([x1] ++ xa ++ xb ++ xc ++ xd ++ [xe], ve)
  else
    let (xe, ve, _) := receiveStage o.max b.port 16 1 1 (wide (o.planes + 9)) none cs
    ([x1, xe], ve)

/-! ## Results (R371, R372) -/

/-- The value of an element, and NV for a NaN block (R371). -/
def resultNum (e : Nat) (v : Int) : Num × Flags :=
  if e = 0xFF then (.nan false, Flags.nv) else (.exact (decide (v < 0)) v.natAbs ((e : Int) - 127), 0)

/-- One write of an operation's results into its shadow. -/
def State.busWrite (s : State) (i : HandleId) (o : BusOp) (off : Nat) (bs : List Byte) (fl : Flags) : State :=
  let s := s.modHead i fun o => { o with flags := o.flags ||| fl }
  match s.shadowWrite i.h o.unit o.dent off bs with
  | some s => s.countBytes i.h o.unit o.counter bs.length
  | none => s.modHead i fun o => { o with disc := true }

/-- A BSI8 record is written when its 32 sums are there (R371). -/
def State.busRecord (s : State) (i : HandleId) (o : BusOp) (r : Nat) : State :=
  match (s.handles.find? (fun x => x.1 == i)).bind (fun x => x.2.ops.head?) with
  | none => s
  | some p =>
    let vs := (List.range 32).filterMap (fun k => tget p.sums (32 * r + k))
    if vs.length < 32 then s
    else
      let e := o.exps.getD r 127
      let ns := vs.map (fun v => resultNum e v)
      let (bs, fl) := vqntBsi o.rnd (ns.map (·.1))
      let s := s.modHead i fun o => { o with sums := o.sums.filter (fun x => x.1 / 32 != r) }
      s.busWrite i o (elemAt (s.busDst i.h o) (32 * r)).1 bs (ns.foldl (fun f n => f ||| n.2) fl)

/-- The result of one element, in the format of its own bank; a sum of a BSI8 record waits for the rest of its block
(R371). -/
def State.busElem (s : State) (i : HandleId) (o : BusOp) (rs : List ElemRun) (k : Nat) (v : Int) : State :=
  let (off, code) := elemAt rs k
  if isRec code then
    (s.modHead i fun o => { o with sums := tput o.sums k v }).busRecord i o (k / 32)
  else
    let (x, fl) := resultNum (o.exps.getD (k / 32) 127) v
    let (y, fe) := encodeFmt ((fmtOf code).getD (.int 32)) x o.rnd (s.tileFmt i.h o.unit o.dent off).2
    s.busWrite i o off (bytesOf (elemSize code) y) (fl ||| fe)

/-- The results of an accepted chunk, in ascending element order. -/
def State.busResults (s : State) (i : HandleId) (o : BusOp) (c : Nat) (v : List Int) : State :=
  let n := min 31 (o.ne - 31 * c)
  if o.max then
    (List.range n).foldl (fun s w =>
      s.busWrite i o (o.doff + 31 * c + w) [BitVec.ofInt 8 (v.getD w 0)] 0) s
  else
    let rs := s.busDst i.h o
    (List.range n).foldl (fun s w => s.busElem i o rs (31 * c + w) (v.getD w 0)) s

/-! ## Frames (R364, R369, R370) -/

/-- A member reads an accepting reply: slots 60 to 63 on the chunk's wavelength (R369). -/
def replyAccepts (r : List Nat) (members : Nat) : Bool :=
  r.getD 0 0 == 0 && r.getD 1 0 == members && r.getD 2 0 == 0 && r.getD 3 0 == 0

/-- Slots of a chunk position of an operation. DESIGN CHOICE (log 39): positions of a domain operation are all as wide as its
widest stage. -/
def BusOp.slots (o : BusOp) (dom : Bool) : Nat := (if o.max then 9 else Nat.max (o.planes + 9 * b2n dom) 8) + 2

/-- Positions that a cell holds: Q (R364). -/
def BusOp.perCell (o : BusOp) (dom : Bool) : Nat := 60 / o.slots dom

/-- Chunks that a frame carries: on the segment with the fewest chunk positions for them (R364, R368). -/
def State.frameRoom (s : State) (b : Handle) (o : BusOp) : Nat :=
  (s.uses b).foldl (fun a x =>
    let k := passCount x.members (s.seg x.seg).wlim + b2n b.dom
    min a (Nat.max 1 ((o.leaseOn (s.handleSeg b) x.seg).total * o.perCell b.dom / Nat.max k 1))) 4096

/-- The chunks that a frame carries: first those whose rejection the replies reported, then new ones; a chunk of the frame
before waits for its replies (R364). -/
def BusOp.schedule (o : BusOp) : List Nat :=
  (o.rejected.map (·.1)).filter (fun c => !o.awaiting.any (fun k => k.chunk == c)) ++
    (List.range o.total).filter (fun c => decide (o.next ≤ c))

/-- What a port saw of one stage and lit in it, from the position `first` of the frame on: the error counters and its slots
(R364, R381). -/
def Port.sees (p : Port) (slots first : Nat) (x : Stage) : Port :=
  let n (f : PassEnd → Bool) : Nat := (x.rx.filter (fun r => !f r)).length
  let q := 60 / slots
  let k := first + x.mine
  { p with
    girth := min 0xFFFF (p.girth + n (·.girth)), guard := min 0xFFFF (p.guard + n (·.guard))
    stitch := min 0xFFFF (p.stitch + n (·.stitch))
    lit := if x.lit.isEmpty then p.lit else p.lit ++ [{ cell := k / q, slot := k % q * slots, lit := x.lit }] }

/-- What a port lights in the reply slots for the positions of a stage (R369). -/
def Port.replies (p : Port) (q : Nat) (x : SentStage) : Port :=
  let bad := b2n (!x.ok)
  { p with
    replied := p.replied ++ (List.range x.passes).map (fun j => ((x.first + j) / q, (x.first + j) % q, [bad, 1, bad, 0])) }

/-- A stage passed all of its checks. -/
def Stage.ok (x : Stage) : Bool := !x.rx.isEmpty && x.rx.all (·.ok)

/-- The stages of a chunk and the values it ends with, by what the port reads of its passes. -/
def State.receive (s : State) (b : Handle) (o : BusOp) (c : Nat) (passes : List Counts) : List Stage × List Int :=
  match if b.dom then s.groupEnt b.gid else none with
  | some g => s.receiveDomain g b o c passes
  | none => s.receiveOne b o c passes

/-- One chunk that a frame carries: it takes the next positions of the frame on each port, and waits for its replies. `next`:
positions that each port has used in the frame. -/
def State.sendChunk (s : State) (i : HandleId) (b : Handle) (o : BusOp) (next : Table Nat) (c : Nat) (rx : BusRx) :
    State × Table Nat :=
  let (xs, v) := s.receive b o c rx.passes
  let (s, next, ks) := xs.foldl (fun (s, next, ks) x =>
    let k := (tget next x.port).getD 0
    (State.modPort s x.port (·.sees (o.slots b.dom) k x), tput next x.port (k + x.rx.length),
      ks ++ [{ port := x.port, members := x.members, first := k, passes := x.rx.length, ok := x.ok : SentStage }]))
    (s, next, [])
  (s.modHead i fun o =>
    { o with next := Nat.max o.next (c + 1), awaiting := o.awaiting ++ [{ chunk := c, stages := ks, value := v }] }, next)

/-- The replies on one chunk of the frame before, four slots for each stage; the status of an operation that they end: a
member that lit a rejection and reads an acceptance (R369). -/
def State.replyChunk (s : State) (i : HandleId) (b : Handle) (o : BusOp) (k : SentChunk) (reply : List Nat) :
    State × Option Nat :=
  let s := k.stages.foldl (fun s x => s.modPort x.port (·.replies (o.perCell b.dom) x)) s
  let rs := k.stages.zipIdx.map (fun (x, j) => (x, replyAccepts (reply.drop (4 * j)) x.members))
  if rs.any (fun (x, yes) => yes && !x.ok) then (s, some Bst.buserr)
  else if rs.all (·.2) then
    let s := s.modHead i fun o => { o with accepted := o.accepted ++ [k.chunk], rejected := tdel o.rejected k.chunk }
    (s.busResults i o k.chunk k.value, none)
  else
    let n := (tget o.rejected k.chunk).getD 0 + 1
    let s := s.modHead i fun o => { o with rejected := tput o.rejected k.chunk (if n = 3 then 0 else n) }
    (if n = 3 then (rs.filter (fun r => !r.2)).foldl (fun s (x, _) =>
        s.modSeg (s.port x.port).seg fun g => { g with recal := true }) s else s, none)

/-- The replies that a frame carries, until one ends the operation. -/
def State.replyChunks (s : State) (i : HandleId) (b : Handle) (o : BusOp) : List (SentChunk × List Nat) → State × Option Nat
  | [] => (s, none)
  | (k, r) :: l =>
    match s.replyChunk i b o k r with
    | (s, none) => s.replyChunks i b o l
    | r => r

/-- A frame may carry chunks of the first operation of the handle: on every segment that it uses it has cells, no
calibration runs, and the port's die has its clock (R17, R355, R374, R425). -/
def State.frameOpen (s : State) (i : HandleId) (b : Handle) (o : BusOp) : Bool :=
  o.leave.held && !(s.part (s.ctx i.u.ctx).part).out && !s.busHalted i o &&
  (s.uses b).all (fun x =>
    let g := s.seg x.seg
    (o.leaseOn (s.handleSeg b) x.seg).total != 0 && !g.cal && !g.recal && !(s.die (x.port / 4)).gated)

/-- What the ports of a handle lit in the frame before is over. -/
def State.newFrame (s : State) (b : Handle) : State :=
  (s.uses b).foldl (fun s x => s.modPort x.port fun p => { p with lit := [], replied := [] }) s

/-- An operation ends with BUSERR at every member (R369). -/
def State.busError (s : State) (i : HandleId) (b : Handle) : State :=
  (s.uses b).foldl (fun s x => s.netSend (.busErr x.seg b.gid)) (s.endBus i 0 Bst.buserr)

/-- BUS_FRAME: what the port reads of the chunks that this frame carries, and of the replies on those of the frame before.
The frame's chunks are those that the replies of earlier frames call for, so a rejected chunk comes again two frames after it
was sent (R369). -/
def execBusFrame (h handle : Nat) (rx : List BusRx) (s : State) : Out :=
  match s.handleAt h handle with
  | none => .next s
  | some (i, b) =>
    match b.ops with
    | [] => .next s
    | o :: _ =>
      if s.busDown b then .next (s.endBus i 0 Bst.buserr)
      else if !s.frameOpen i b o then .next s
      else if rx.any (·.differ) then .next (s.busError i b)
      else
        let o := if o.started then o else s.busRead h o
        let s := (s.newFrame b).modHead i fun _ => { o with awaiting := [] }
        let (s, _) := ((o.schedule.zip rx).take (s.frameRoom b o)).foldl (fun (s, next) (c, x) => s.sendChunk i b o next c x)
          (s, ([] : Table Nat))
        match s.replyChunks i b o (o.awaiting.zipIdx.map (fun (k, j) => (k, ((rx[j]?).map (·.reply)).getD []))) with
        | (s, some _) => .next (s.busError i b)
        | (s, none) =>
          let done := ((s.handles.find? (fun x => x.1 == i)).bind (fun x => x.2.ops.head?)).map
            (fun o => decide (o.total ≤ o.accepted.length))
          .next (if done = some true then s.endBus i 0 St.ok else s)

/-- COLTMO of bus operations, from acceptance: 1 s (R361, R397). -/
def busTmo : Nat := 1600000000

/-- BUS_OP_TIMEOUT. -/
def execBusOpTimeout (h handle : Nat) (s : State) : Out :=
  match s.handleAt h handle with
  | none => .next s
  | some (i, b) =>
    match b.ops.findIdx? (fun o => decide (o.since + busTmo ≤ s.now)) with
    | some k => .next (s.endBus i k Bst.tmo)
    | none => .next s

/-! ## Segments (R353–R356, R370) -/

/-- CALIBRATION of a segment, which its master runs: the limit that it finds, and the ports that cannot be trimmed; a port
of a gated die takes no part (R17, R353, R354). -/
def execCalibration (seg wlim : Nat) (excluded : List Nat) (s : State) : Out :=
  match tget s.segs seg with
  | none => .next s
  | some g =>
    let cal := min wlim 15
    let lim := if g.recal then min cal (Nat.max 1 (g.wlim / 2)) else cal
    let s := s.modSeg seg fun g =>
      { g with wlim := lim, calWlim := cal, down := decide (cal = 0), cal := false, recal := false }
    .next (s.ports.foldl (fun s (p, q) =>
      if q.seg = seg ∧ q.en ∧ (s.die (p / 4)).gated = false then
        let out := excluded.contains p
        let s := s.modPort p fun q =>
          { q with excluded := out, recal := min 0xFFFF (q.recal + b2n g.recal) }
        if out && !q.excluded then s.report (.portExcluded p) 512 else s
      else s) s)

/-- A partition's guarantee falls: the short-guarantee event (R356). -/
def State.shortGuarantee (s : State) (seg p : Nat) : State :=
  let s : State := { s with
    ctxs := tmap s.ctxs (fun _ x =>
      if x.part = p ∧ !x.shortg.contains seg then { x with shortg := x.shortg ++ [seg] } else x) }
  s.report (.shortGuarantee p seg) 512

/-- A segment runs at a rate: partitions whose guarantee falls lose what they lease beyond it, the lowest weight first,
and the event is posted; then what was lent or is of the pool is cut to what is left (R356). -/
def State.setRate (s : State) (seg r : Nat) : State :=
  let old := (s.seg seg).rate
  let s := s.modSeg seg fun g => { g with rate := r }
  let less := ((s.segParts seg).filter (fun p => decide (s.guaranteed seg p.1 r < s.guaranteed seg p.1 old))).map (·.1)
  ((sortBy (fun a b => decide ((s.part a).weight ≤ (s.part b).weight)) less).foldl (fun s p =>
    (s.cutOwn seg p).shortGuarantee seg p) s).settleCells seg

/-- The rate at which a port comes up. -/
def trainedRate (rate asked : Nat) : Nat :=
  let r := min rate (rateOf asked)
  if cuse r = 64 then 32 else if cuse r = 48 then 24 else 16

/-- A training brings the port's entry into force (R447). -/
def Port.enter (q : Port) : Port :=
  match q.entry with
  | some e => { q with seg := e.seg, midx := e.midx, asked := e.asked, en := e.en, entry := none }
  | none => q

/-- PORT_TRAINING_DONE: the port comes up at a rate by the entry that DOMAIN gave it, its segment runs at the lowest rate of
its ports and waits for a calibration; `ok` is false where training finds a mismatch. A port of a gated die does not train
(R17, R354–R356, R447). -/
def execPortTrainingDone (port rate : Nat) (ok : Bool) (s : State) : Out :=
  match tget s.ports port with
  | none => .next s
  | some q =>
    if (s.die (port / 4)).gated then .next s
    else
      let s := s.modPort port Port.enter
      let q := q.enter
      if !q.en then .next s
      else if !ok then .next ((s.modPort port fun q => { q with excluded := true }).report (.portExcluded port) 512)
      else
        let r := trainedRate rate q.asked
        let s := s.modPort port fun q => { q with rate := r, excluded := false }
        let s : State := { s with segs := tput s.segs q.seg { (tget s.segs q.seg).getD (Seg.fresh q.seg) with cal := true } }
        .next (s.setRate q.seg (min r (s.seg q.seg).others))

/-! ## The management network (R349, R359, R362, R363, R369) -/

/-- What the master of a segment gives the group's operation: to the member of rank 0, which asked, its lease (R359). -/
def State.netGrant (s : State) (seg gid own lent pool : Nat) : State :=
  let l : Lease := { own := own, lent := if lent = 0 then [] else [(elsewhere, lent)], pool := pool, given := 0 }
  (s.members seg gid).foldl (fun s (i, b) =>
    match (s.uses b).find? (fun x => x.seg == seg), b.ops.head? with
    | some x, some o =>
      if x.lead then (if o.asked.contains seg then s.takeLease i b o seg l else s)
      else s.takeLease i b o seg { Lease.none with given := l.cells }
    | _, _ => s) s

/-- The segments on which a group of that number, named with one of them, is held here (R374). -/
def State.gidSegs (s : State) (seg gid : Nat) : List Nat :=
  match s.groupEnt gid with
  | some g =>
    let l := [g.l1seg] ++ (if g.ina then [g.rsega] else []) ++ (if g.inb then [g.rsegb] else [])
    if l.contains seg || (tget s.segs seg).isNone then l.eraseDups else [seg]
  | none => [seg]

/-- A join that this module's frame allocator, as the master, accepts or that a master has accepted. -/
def State.recordJoin (s : State) (seg gid rank part n : Nat) : State :=
  ((s.gidSegs seg gid).foldl (fun s k =>
    if (s.seg k).joinStatus gid rank part n = St.ok then s.modSeg k (·.join gid rank part n) else s) s).settleJoins

/-- MANAGEMENT_NETWORK_MESSAGE. -/
def execManagementNetworkMessage (m : NetMsg) (s : State) : Out :=
  match m with
  | .joinRequest seg gid rank part n =>
    if s.masters seg then
      let st := (s.seg seg).joinStatus gid rank part n
      .next ((if st = St.ok then s.recordJoin seg gid rank part n else s).netSend (.joinResult seg gid rank st))
    else .next s
  | .joinResult seg gid rank status => .next (s.joinAnswer seg gid rank (status % 16))
  | .joined seg gid rank part n => .next (s.recordJoin seg gid rank part n)
  | .leaseRequest seg gid part weight cells =>
    if s.masters seg then .next (s.leaseFar seg gid part weight cells) else .next s
  | .leaseEnd seg gid => .next (s.modSeg seg fun g => { g with far := g.far.filter (fun x => x.gid != gid) })
  | .leaseGrant seg gid own lent pool => .next (if s.masters seg then s else s.netGrant seg gid own lent pool)
  | .noSlot seg gid => .next (s.endGroup seg gid Bst.noslot (fun o => !o.started))
  | .abort seg gid => .next (s.endGroup seg gid Bst.abort (fun _ => true))
  | .busErr seg gid => .next (s.endGroup seg gid Bst.buserr (fun _ => true))
  | .trained seg rate =>
    match s.ports.find? (fun q => q.2.seg == seg && q.2.en && q.2.rate != 0) with
    | some (_, q) => .next ((s.modSeg seg fun g => { g with others := rate }).setRate seg (min q.rate rate))
    | none => .next (s.modSeg seg fun g => { g with others := rate })
  | .left seg gid rank => .next ((s.gidSegs seg gid).foldl (fun s k => s.modSeg k (·.drop gid rank)) s)

/-- DIE_CLOCK_GATING: the ports of a gated die carry nothing (R17). -/
def execDieClockGating (die : Nat) (gated : Bool) (s : State) : Out :=
  .next (s.modDie die fun d => { d with gated := gated })

end Sys2Proof.Machine
end

