-- ==== Sys2Proof/Machine/Collective.lean ====
section
/-! DEFINITION. Collective queues: communicators, collectives, the chunk steps of an engine and their arbitration,
packets between engines, and the COL commands (chapter 16: R384–R402). -/

namespace Sys2Proof.Machine

/-! ## Queues and collectives -/

def State.modCol (s : State) (die : Nat) (f : ColEngine → ColEngine) : State := s.modDie die fun d => { d with col := f d.col }

def State.modColQ (s : State) (die q : Nat) (f : ColQ → ColQ) : State :=
  s.modCol die fun e => { e with queues := tmod e.queues q f }

def State.modColOp (s : State) (die q seq : Nat) (f : ColOp → ColOp) : State :=
  s.modColQ die q fun k => { k with ops := k.ops.map (fun o => if o.seq = seq then f o else o) }

def State.colOp? (s : State) (die q seq : Nat) : Option ColOp :=
  (s.colQueue die q).bind (fun k => k.ops.find? (fun o => o.seq == seq))

/-! ## Descriptors (R386, R388) -/

/-- Node ids of a domain. -/
def nodeOk (n : Nat) : Bool := decide (n < 6912)

/-- The checks of a communicator descriptor. -/
def commOk (w : List Word) : Bool :=
  let f (i : Nat) : Nat := (w.getD i 0).toNat
  let nch := bits (f 0) 20 3
  decide (nch ≤ 4) && bits (f 0) 30 34 == 0 && bits (f 1) 13 51 == 0 && nodeOk (f 1) && (!bit (f 0) 23 || f 1 == 0) &&
  (List.range 4).all (fun j =>
    let e := bits (f 2) (16 * j) 16
    if j < nch then decide (e < 2 ^ 13) && nodeOk e else e == 0) &&
  bits (f 3) 13 3 == 0 && bits (f 3) 29 35 == 0 && decide (bits (f 3) 16 13 < 6912) &&
  decide (bits (f 3) 0 13 ≤ bits (f 3) 16 13) && bits (f 4) 32 32 == 0 && f 5 == 0 && f 6 == 0 && f 7 == 0

/-- Fields of a collective descriptor. -/
def Cd.word (d : List Word) (i : Nat) : Nat := (d.getD i 0).toNat
def Cd.fn (d : List Word) : Nat := bits (Cd.word d 0) 4 2
def Cd.sfmt (d : List Word) : Nat := bits (Cd.word d 0) 6 4
def Cd.dfmt (d : List Word) : Nat := bits (Cd.word d 0) 10 4
def Cd.dsat (d : List Word) : Bool := bit (Cd.word d 0) 17
def Cd.stile (d : List Word) : Bool := bit (Cd.word d 0) 18
def Cd.dtile (d : List Word) : Bool := bit (Cd.word d 0) 19
def Cd.gate (d : List Word) : Bool := bit (Cd.word d 0) 20
def Cd.gcid (d : List Word) : Nat := bits (Cd.word d 0) 21 6
def Cd.ne (d : List Word) : Nat := bits (Cd.word d 0) 32 24 + 1
def Cd.src (d : List Word) : Word := d.getD 1 0
def Cd.dst (d : List Word) : Word := d.getD 2 0
def Cd.score (d : List Word) : Nat := bits (Cd.word d 3) 0 12
def Cd.dcore (d : List Word) : Nat := bits (Cd.word d 3) 12 12
def Cd.tpc (d : List Word) : Nat := bits (Cd.word d 3) 24 16
def Cd.cnt (d : List Word) : Nat := bits (Cd.word d 3) 40 4
def Cd.ce (d : List Word) : Bool := bit (Cd.word d 3) 44
def Cd.counter (d : List Word) : Option Nat := if Cd.ce d then some (Cd.cnt d) else none

def Cd.rnd (d : List Word) : Rnd :=
  match bits (Cd.word d 0) 14 3 with
  | 0 => .rne
  | 1 => .rtz
  | 2 => .rup
  | 3 => .rdn
  | _ => .rto

/-- The operations of R388. -/
def Cop.redscat : Nat := 1
def Cop.allgath : Nat := 2
def Cop.bcast : Nat := 3
def Cop.barrier : Nat := 4

/-- The checks of a collective descriptor on a die. -/
def collOk (die : Nat) (d : List Word) : Bool :=
  let w0 := Cd.word d 0
  let op := Cd.op d
  let bar := op == Cop.barrier
  let bsi := Cd.sfmt d == 12
  let coreBad (h : Nat) (used : Bool) : Bool := if used then dieOf h != die || isService h else h != 0
  decide (op ≤ 4) && decide (Cd.fn d ≤ 2) && (decide (op ≤ 1) || Cd.fn d == 0) &&
  ([6, 7, 8, 12].contains (Cd.sfmt d) || (bar && Cd.sfmt d == 0)) &&
  (if Cd.dtile d then Cd.dfmt d == 0 && !Cd.dsat d
   else [1, 2, 3, 6, 7, 8, 12].contains (Cd.dfmt d) || (bar && Cd.dfmt d == 0)) &&
  decide (bits w0 14 3 ≤ 4) && (if Cd.gate d then Cd.tpc d != 0 else Cd.gcid d == 0 && Cd.tpc d == 0) &&
  bits w0 27 5 == 0 && bits w0 56 8 == 0 && (!bar || Cd.ne d == 1) && (Cd.ce d || Cd.cnt d == 0) &&
  (!bsi || Cd.fn d == 0) && (!(bsi || Cd.dfmt d == 12) || Cd.ne d % 32 == 0) &&
  (Cd.dfmt d != 12 || bsi || Cd.fn d == 0) &&
  !(Cd.stile d && (formBad 0 (Cd.src d) false || formSh 0 (Cd.src d))) &&
  !(Cd.dtile d && (formBad 0 (Cd.dst d) false || !formSh 0 (Cd.dst d))) &&
  !coreBad (Cd.score d) (Cd.stile d) && !coreBad (Cd.dcore d) (Cd.dtile d || Cd.ce d) &&
  bits (Cd.word d 3) 45 19 == 0 && ((List.range 4).all fun i => Cd.word d (4 + i) == 0)

/-! ## Chunks (R389, R391) -/

/-- Elements of the operation's element sequence. -/
def ColOp.length (k : ColQ) (o : ColOp) : Nat :=
  if Cd.op o.desc = Cop.barrier then 0
  else if Cd.op o.desc = Cop.allgath then k.members * Cd.ne o.desc else Cd.ne o.desc

/-- Chunks; a BARRIER has one without elements. -/
def ColOp.total (k : ColQ) (o : ColOp) : Nat := Nat.max 1 ((o.length k + 1023) / 1024)

/-- Elements of chunk `c`. -/
def ColOp.count (k : ColQ) (o : ColOp) (c : Nat) : Nat := min 1024 (o.length k - 1024 * c)

/-- The elements of chunk `c` that this member contributes: the first within the chunk, how many, and the first in
its source. -/
def ColOp.mine (k : ColQ) (o : ColOp) (c : Nat) : Nat × Nat × Nat :=
  let n := o.count k c
  let ne := Cd.ne o.desc
  if Cd.op o.desc = Cop.allgath then
    let lo := Nat.max (1024 * c) (k.rank * ne)
    let hi := min (1024 * c + n) ((k.rank + 1) * ne)
    (lo - 1024 * c, hi - lo, lo - k.rank * ne)
  else (0, n, 1024 * c)

/-- B of REDSCAT (R389). -/
def ColOp.block (k : ColQ) (o : ColOp) : Nat :=
  let b := (Cd.ne o.desc + k.members - 1) / k.members
  if Cd.sfmt o.desc = 12 ∨ Cd.dfmt o.desc = 12 then alignUp b 32 else b

/-- The elements of chunk `c` that this member receives: the first within the chunk, how many, and the first at its
destination (R389). -/
def ColOp.takes (k : ColQ) (o : ColOp) (c : Nat) : Nat × Nat × Nat :=
  let n := o.count k c
  if Cd.op o.desc = Cop.redscat then
    let b := o.block k
    let lo := Nat.max (1024 * c) (k.rank * b)
    let hi := min (1024 * c + n) (min (Cd.ne o.desc) ((k.rank + 1) * b))
    (lo - 1024 * c, hi - lo, lo - k.rank * b)
  else (0, n, 1024 * c)

/-- The operation moves bytes, not partial results. -/
def ColOp.raw (o : ColOp) : Bool := Cd.op o.desc == Cop.allgath || Cd.op o.desc == Cop.bcast

/-- Source bytes of a chunk at this member, and its cost (R395). -/
def ColOp.bytes (k : ColQ) (o : ColOp) (c : Nat) : Nat := spanBytes (Cd.sfmt o.desc) (o.mine k c).2.1

def ColOp.cost (k : ColQ) (o : ColOp) (c : Nat) : Nat :=
  if Cd.op o.desc = Cop.barrier then 64 else o.bytes k c

def ColOp.part (o : ColOp) (c : Nat) : Partial := (o.partials.find? (fun p => p.chunk == c)).getD (Partial.empty c)

def ColOp.setPart (o : ColOp) (p : Partial) : ColOp :=
  { o with partials := o.partials.filter (fun x => x.chunk != p.chunk) ++ [p] }

/-- Element-wise combination; a list that is still empty counts as none. -/
def mergeLists {α : Type} (f : α → α → α) (a b : List α) : List α :=
  if a.isEmpty then b else if b.isEmpty then a else a.zipWith f b

/-- Exact combination of two partial results (R390). -/
def Partial.add (fn : Nat) (a b : Partial) : Partial :=
  { a with
    sums := mergeLists (fun x y => if fn = 0 then x + y else max x y) a.sums b.sums
    exps := mergeLists (fun x y => if x = y then x else 0xFF) a.exps b.exps
    raw := mergeLists (fun x y => x ||| y) a.raw b.raw }

/-! ## Sources (R391, R397) -/

/-- The unit whose tiles and counters a collective reaches on a core: one of its launch, or else one of its context,
resident or evicted (R398). -/
def State.colUnit (s : State) (h : Nat) (o : ColOp) : UnitId :=
  let c := s.core h
  let here := (c.unit.toList.map (·.id) ++ c.evicted.map (fun e => e.res.id)).find? (fun u => u.ctx == o.unit.ctx)
  ((s.receiver h o.unit).orElse fun _ => here).getD o.unit

/-- How the engine's access to a chunk ends. -/
inductive ColEndR (α : Type) where
  | ok (x : α)
  | page (p : PageWait)
  | wait
  | xerr

/-- Reads VA bytes for the engine (R286, R391, R428). -/
def State.colVaRead (s : State) (o : ColOp) (va n : Nat) : State × ColEndR (List Byte) :=
  (piecesOf (va % 2 ^ 64) n).foldl (fun (s, acc) (a, len) =>
    match acc with
    | .ok bs =>
      let (s, r) := s.engineTranslate o.h o.tid o.unit.ctx 2 a .engineRead
      match r with
      | .ok spa =>
        match s.locOf o.unit.ctx spa with
        | some l =>
          if s.poisoned l len then (s.strike o.unit.ctx, .xerr) else (s, .ok (bs ++ s.readLoc l len))
        | none => (s, .xerr)
      | .access => (s, .xerr)
      | .page p => (s, .page p)
    | r => (s, r)) (s, .ok [])

/-- Reads tile bytes for the engine: the tile is READY, its banks hold SFMT, and the bytes lie in elements. -/
def State.colTileRead (s : State) (o : ColOp) (off n : Nat) : ColEndR (List Byte) :=
  let h := Cd.score o.desc
  let u := s.colUnit h o
  let e := formEntry (Cd.src o.desc)
  let at_ := formOff h (Cd.src o.desc) + off
  match tileGate (s.unitTile h u e) with
  | .wait => .wait
  | .fault _ => .xerr
  | .ok =>
    if !s.tileHolds h u e at_ n ||
       (banksOf at_ n).any (fun b => (s.tileFmt h u e (b * 0x4000)).1 != Cd.sfmt o.desc) then .xerr
    else .ok (s.tileBytes h u e at_ n)

/-- This member's source bytes of a chunk. -/
def State.colRead (s : State) (k : ColQ) (o : ColOp) (c : Nat) : State × ColEndR (List Byte) :=
  let (_, n, first) := o.mine k c
  let off := spanBytes (Cd.sfmt o.desc) first
  if n = 0 then (s, .ok [])
  else if Cd.stile o.desc then (s, s.colTileRead o off (o.bytes k c))
  else s.colVaRead o ((Cd.src o.desc).toNat + off) (o.bytes k c)

/-- An integer source value: unsigned for MAXZ (R388). -/
def sourceInt (fn code : Nat) (bs : List Byte) : Int :=
  if fn = 2 then (numOf bs : Int) else sInt (8 * elemSize code) (numOf bs)

/-- This member's part of a chunk, from its source bytes (R390, R391). -/
def ColOp.contribution (k : ColQ) (o : ColOp) (c : Nat) (bs : List Byte) : Partial :=
  let code := Cd.sfmt o.desc
  let p := Partial.empty c
  if Cd.op o.desc = Cop.barrier then p
  else if o.raw then
    let (skip, _, _) := o.mine k c
    let before := List.replicate (spanBytes code skip) (0 : Byte)
    let after := List.replicate (spanBytes code (o.count k c) - before.length - bs.length) (0 : Byte)
    { p with raw := before ++ bs ++ after }
  else if isRec code then
    let rs := chunks 33 (bs.length / 33) bs
    { p with
      exps := rs.map (fun r => (r.headD 0).toNat)
      sums := rs.flatMap (fun r => (r.drop 1).map (fun b => sInt 8 b.toNat)) }
  else { p with sums := (chunks (elemSize code) (o.count k c) bs).map (sourceInt (Cd.fn o.desc) code) }

/-! ## Results (R389, R390) -/

/-- The values of a finished chunk, with the flags that reading them raises. -/
def ColOp.values (k : ColQ) (o : ColOp) (p : Partial) : List (Num × Flags) :=
  let code := Cd.sfmt o.desc
  let n := o.count k p.chunk
  if o.raw then
    (List.range n).map (fun i =>
      (sourceElem code p.raw i, if isRec code && (p.raw.getD (i / 32 * 33) 0).toNat == 0xFF then Flags.nv else 0))
  else if isRec code then
    p.sums.zipIdx.map (fun (v, i) => resultNum (p.exps.getD (i / 32) 0xFF) v)
  else p.sums.map (fun v => resultNum 127 v)

/-- One write of a chunk: its byte offset at the destination, its bytes, its flags. -/
abbrev Piece := Nat × List Byte × Flags

/-- The part of the stretches of a destination that holds its elements from `k` on; a record is never split. -/
def dropElems (k : Nat) (rs : List ElemRun) : List ElemRun :=
  rs.filterMap fun x =>
    let d := k - x.k0
    if x.n ≤ d then none
    else if isRec x.code then
      some { k0 := x.k0 + d, o := x.o + d / recElems x.code * recBytes x.code
             code := if d % recElems x.code = 0 then x.code else 0, n := x.n - d }
    else some { k0 := x.k0 + d, o := x.o + d * elemSize x.code, code := x.code, n := x.n - d }

/-- The writes of one stretch: `bytes` gives source bytes that move unchanged, `val` an element; none: its format cannot
hold the elements (R390). -/
def encodeRun (raw : Nat → Bool) (rnd : Rnd) (sat : Nat → Bool) (bytes : Nat → Nat → List Byte)
    (val : Nat → Num × Flags) (x : ElemRun) : Option (List Piece) :=
  if raw x.code then some [(x.o, bytes x.k0 x.n, 0)]
  else if x.code = 12 then
    if x.n % 32 ≠ 0 then none
    else some ((List.range (x.n / 32)).map (fun i =>
      let g := (List.range 32).map (fun j => val (x.k0 + 32 * i + j))
      let (bs, fl) := vqntBsi rnd (g.map (·.1))
      (x.o + i * 33, bs, g.foldl (fun f v => f ||| v.2) fl)))
  else
    (fmtOf x.code).map fun f => (List.range x.n).map (fun i =>
      let v := val (x.k0 + i)
      let (y, fl) := encodeFmt f v.1 rnd (sat (x.o + i * elemSize x.code))
      (x.o + i * elemSize x.code, bytesOf (f.width / 8) y, fl ||| v.2))

/-- The writes of all stretches. -/
def encodeRuns (f : ElemRun → Option (List Piece)) (rs : List ElemRun) : Option (List Piece) :=
  rs.foldr (fun x acc => match f x, acc with
    | some a, some l => some (a ++ l)
    | _, _ => none) (some [])

/-- Stores at VA places that have all been translated. -/
def State.colVaWrite (s : State) (o : ColOp) (va : Nat) (bs : List Byte) : State × ColEndR Unit :=
  let a := va % 2 ^ 64
  let (s, places) := (piecesOf a bs.length).foldl (fun (s, acc) (b, len) =>
    match acc with
    | .ok ls =>
      let (s, r) := s.engineTranslate o.h o.tid o.unit.ctx 2 b .engineWrite
      match r with
      | .ok spa =>
        match s.locOf o.unit.ctx spa with
        | some l => (s, .ok (ls ++ [(l, b - a, len)]))
        | none => (s, .xerr)
      | .access => (s, .xerr)
      | .page p => (s, .page p)
    | r => (s, r)) (s, (ColEndR.ok [] : ColEndR (List (Loc × Nat × Nat))))
  match places with
  | .ok ls => (ls.foldl (fun s (l, off, len) => s.storeLoc o.unit.ctx l ((bs.drop off).take len)) s, .ok ())
  | .page p => (s, .page p)
  | .wait => (s, .wait)
  | .xerr => (s, .xerr)

/-- The writes of a run of `n` bytes count in the arrival counter (R240, R388). -/
def State.colCount (s : State) (o : ColOp) : Nat → Nat → Nat → State
  | 0, _, _ => s
  | fuel + 1, a, n =>
    if n = 0 then s
    else
      let len := min n (8 - a % 8)
      State.colCount (s.countBytes (Cd.dcore o.desc) (s.colUnit (Cd.dcore o.desc) o) (Cd.counter o.desc) len) o fuel
        (a + len) (n - len)

/-- The writes of this member's results of a chunk into stretches that begin with element `first` of its destination. -/
def ColOp.pieces (k : ColQ) (o : ColOp) (p : Partial) (sat : Nat → Bool) (first skip : Nat) (rs : List ElemRun) :
    Option (List Piece) :=
  let sf := Cd.sfmt o.desc
  let vs := (o.values k p).drop skip
  encodeRuns (encodeRun (fun c => o.raw && c == sf) (Cd.rnd o.desc) sat
    (fun i n => (p.raw.drop (spanBytes sf (i - first))).take (spanBytes sf n))
    (fun i => vs.getD (i - first) (.nan false, 0))) rs

/-- Writes results into the shadow of a tile, each element in the format of its own visible bank (R390); what an undefined
entry is to take is discarded (R157). -/
def State.colTileWrite (s : State) (k : ColQ) (o : ColOp) (p : Partial) : State × ColEndR (Flags × Bool) :=
  let (skip, n, first) := o.takes k p.chunk
  let h := Cd.dcore o.desc
  let u := s.colUnit h o
  let e := formEntry (Cd.dst o.desc)
  if (s.unitTile h u e).isNone then (s, .ok (0, true))
  else
    let rs := dropElems first (elemRuns (fun b => (s.tileFmt h u e b).1) (formOff h (Cd.dst o.desc)) (first + n))
    match o.pieces k p (fun b => (s.tileFmt h u e b).2) first skip rs with
    | none => (s, .xerr)
    | some ps =>
      if !ps.all (fun w => s.tileHolds h u e w.1 w.2.1.length) then (s, .xerr)
      else
        let (s, disc) := ps.foldl (fun (s, disc) w =>
          match s.shadowWrite h u e w.1 w.2.1 with
          | some s => (s.colCount o (w.2.1.length + 1) w.1 w.2.1.length, disc)
          | none => (s, true)) (s, false)
        (s, .ok (ps.foldl (fun f w => f ||| w.2.2) 0, disc))

/-- Writes this member's results of a chunk: the state, how it ended, and the flags with DISC. -/
def State.colWrite (s : State) (k : ColQ) (o : ColOp) (p : Partial) : State × ColEndR (Flags × Bool) :=
  let (skip, n, first) := o.takes k p.chunk
  if n = 0 then (s, .ok (0, false))
  else if Cd.dtile o.desc then s.colTileWrite k o p
  else
    let dc := Cd.dfmt o.desc
    let whole := !isRec dc || first % recElems dc == 0
    let off := spanBytes dc first
    match if whole then o.pieces k p (fun _ => Cd.dsat o.desc) first skip [{ k0 := first, o := off, code := dc, n := n }]
        else none with
    | none => (s, .xerr)
    | some ps =>
      let bs := ps.flatMap (·.2.1)
      let va := (Cd.dst o.desc).toNat + off
      let (s, r) := s.colVaWrite o va bs
      match r with
      | .ok _ => (s.colCount o (bs.length + 1) va bs.length, .ok (ps.foldl (fun f w => f ||| w.2.2) 0, false))
      | .page q => (s, .page q)
      | .wait => (s, .wait)
      | .xerr => (s, .xerr)

/-! ## Packets (R392) -/

def State.colDown (s : State) (die : Nat) (k : ColQ) (o : ColOp) (p : Partial) : State :=
  let hop := if Cd.op o.desc = Cop.redscat then Hop.scat else Hop.fan
  k.children.foldl (fun s n => s.colSend die k o hop n p) s

/-! ## The end of a collective (R397, R400) -/

/-- Statuses of a collective (R402). -/
def Cst.xerr : Nat := 4
def Cst.tmo : Nat := 6
def Cst.cancelled : Nat := 11
def Cst.abort : Nat := 14

/-- A thread that waits for a collective goes on. -/
def latchColwt (die q seq st : Nat) (disc : Bool) (t : Thread) : Thread :=
  if t.wait = .colwt die q seq then { t with wait := .woken, u := { t.u with clstat := st, cldisc := disc } } else t

/-- Changes the threads of a core, each by its unit and id, wherever the core holds them. -/
def Core.mapThreads (c : Core) (f : UnitId → Nat → Thread → Thread) : Core :=
  { c with
    threads := match c.unit with
      | some r => tmap c.threads (f r.id)
      | none => c.threads
    regBanks := tmap c.regBanks (fun _ b => match b with
      | .parked u tid o t => .parked u tid o (f u tid t)
      | b => b)
    evicted := c.evicted.map (fun e => { e with threads := tmap e.threads (f e.res.id) }) }

/-- The COLWT of a thread has not been performed. -/
def State.colwtQueued (s : State) (h : Nat) (u : UnitId) (tid : Nat) : Bool :=
  s.cmds.any (fun k => k.h == h && k.u == u && k.tid == tid && (match k.op with
    | .colwt .. => true
    | _ => false))

/-- A collective ends at this member; a COLWT that has been performed sees it now. -/
def State.colEnd (s : State) (die q seq st : Nat) : State :=
  match s.colOp? die q seq with
  | none => s
  | some o =>
    let s := s.modColQ die q fun k =>
      let l := k.ended ++ [{ seq := seq, status := st, disc := o.disc }]
      { k with ops := k.ops.filter (fun x => x.seq != seq), ended := l.drop (l.length - 16) }
    let s := s.flagsOf o.h o.unit o.tid o.flags
    let f (h : Nat) (c : Core) : Core :=
      if dieOf h = die then
        c.mapThreads (fun u tid t => if s.colwtQueued h u tid then t else latchColwt die q seq st o.disc t)
      else c
    { s with cores := tmap s.cores f, castled := s.castled.map (fun x => { x with cores := tmap x.cores f }) }

/-- It ends here with a status, and ABORT elsewhere. -/
def State.colFail (s : State) (die q seq st : Nat) : State :=
  match s.colQueue die q, s.colOp? die q seq with
  | some k, some o => (s.colAbort die k o).colEnd die q seq st
  | _, _ => s

/-- Writes a final chunk, if it can, and completes the collective with its last one. -/
def State.colFinish (s : State) (die q seq c : Nat) : State :=
  match s.colQueue die q, s.colOp? die q seq with
  | some k, some o =>
    let w := (tget o.pages c).getD .none
    if w = .replied true then s.colFail die q seq Cst.xerr
    else if !s.pageClear w then s
    else
      let (s, r) := s.colWrite k o (o.part c)
      match r with
      | .ok (fl, disc) =>
        let s := s.modColOp die q seq fun o =>
          { o with
            written := o.written ++ [c], partials := o.partials.filter (fun p => p.chunk != c)
            pages := tdel o.pages c, flags := o.flags ||| fl, disc := o.disc || disc }
        if o.total k ≤ o.written.length + 1 then s.colEnd die q seq St.ok else s
      | .page p => s.modColOp die q seq fun o => { o with pages := tput o.pages c p }
      | .wait => s
      | .xerr => s.colFail die q seq Cst.xerr
  | _, _ => s

/-- The result of a chunk is known at this member: copies go down, and the member writes its own. -/
def State.colResult (s : State) (die q seq : Nat) (p : Partial) : State :=
  match s.colQueue die q, s.colOp? die q seq with
  | some k, some o =>
    let s := (s.colDown die k o p).modColOp die q seq fun o => o.setPart { p with final := true }
    s.colFinish die q seq p.chunk
  | _, _ => s

/-- A chunk of a member to which every contribution has come goes up, or is final at the root (R392). -/
def State.colJoin (s : State) (die q seq c : Nat) : State :=
  match s.colQueue die q, s.colOp? die q seq with
  | some k, some o =>
    let p := o.part c
    let whole := p.own && (Cd.op o.desc == Cop.bcast || decide (k.children.length ≤ p.kids))
    if !whole || p.final then s
    else if k.root then s.colResult die q seq p
    else
      (s.colSend die k o Hop.acc k.parent p).modColOp die q seq fun o =>
        { o with partials := o.partials.filter (fun x => x.chunk != c) }
  | _, _ => s

/-! ## Chunk steps (R393–R396) -/

/-- The collective that a queue works on: its oldest, once it runs. -/
def ColQ.head? (k : ColQ) : Option ColOp := k.ops.head?.filter (·.running)

/-- The lowest chunk that has not been written at this member. -/
def ColOp.lowest (k : ColQ) (o : ColOp) : Nat :=
  ((List.range (o.total k)).find? (fun c => !o.written.contains c)).getD (o.total k)

/-- The next hop on a queue's virtual channel has a credit for the engine of a die: the queue there is open, and fewer than
two packets of the communicator are on the link from the one to the other (R394). -/
def State.credit (s : State) (die : Nat) (k : ColQ) (node : Nat) : Bool :=
  if node / 16 = s.mp.modnum then
    (s.die (node % 16)).col.queues.any (fun q => q.2.comm == k.comm && !q.2.closing) &&
    decide ((s.msgs.filter (fun m => match m with
      | .col a b p => a == s.nodeId die && b == node && bits p.word0.toNat 0 16 == k.comm
      | _ => false)).length < 2)
  else Config.farCredit s.steps node k.comm

/-- The members to which a step of a queue sends. -/
def ColQ.hops (k : ColQ) : List Nat := if k.root then k.children else [k.parent]

/-- The chunk whose step the engine can start for a queue (R394). -/
def State.colStep? (s : State) (die : Nat) (k : ColQ) : Option (ColOp × Nat) :=
  match k.head? with
  | none => none
  | some o =>
    let cnt := (tget (s.die die).col.counters (Cd.gcid o.desc)).getD 0
    let open_ (c : Nat) : Bool :=
      !o.sent.contains c && s.pageClear ((tget o.pages c).getD .none) &&
      (!Cd.gate o.desc || decide ((c + 1) * Cd.tpc o.desc ≤ (cnt - o.base).toNat)) &&
      (o.partials.any (fun p => p.chunk == c) || decide (o.partials.length < 2 * k.w)) &&
      !(Cd.stile o.desc && tileGate (s.unitTile (Cd.score o.desc) (s.colUnit (Cd.score o.desc) o)
        (formEntry (Cd.src o.desc))) == .wait)
    let lo := o.lowest k
    if (Cd.op o.desc = Cop.bcast ∧ !k.root) ∨ (s.part (s.ctx k.ctx).part).out ∨ !k.hops.all (s.credit die k) then none
    else (((List.range (min (o.total k - lo) k.w)).map (· + lo)).find? open_).map (fun c => (o, c))

/-- The class of a queue (R396). -/
def ColQ.cls (k : ColQ) : Nat := (k.head?.map (·.cls)).getD 0

/-- The queue of a VF that is served next (R395). -/
def State.colPick (s : State) (die vf : Nat) : Option (Nat × ColQ × ColOp × Nat) :=
  let e := (s.die die).col
  let last := (tget e.lastQ vf).getD 63
  let rank (q : Nat) (k : ColQ) : Nat := (3 - k.cls) * 64 + (q + 63 - last) % 64
  e.queues.foldl (fun best (q, k) =>
    match if k.vf = vf then s.colStep? die k else none with
    | none => best
    | some (o, c) =>
      match best with
      | some (bq, bk, bo, bc) => if rank q k < rank bq bk then some (q, k, o, c) else some (bq, bk, bo, bc)
      | none => some (q, k, o, c)) none

/-- Q of a VF (R385, R395). -/
def State.colQuantum (s : State) (vf : Nat) : Nat := (if vf < 512 then (s.vfOf vf).weight else 1) * 4096

/-- VFs with queues, in the cyclic order after the current one, which comes last. -/
def ColEngine.order (e : ColEngine) : List Nat :=
  let vs := sortBy (fun a b => decide (a ≤ b)) (e.queues.map (fun q => q.2.vf)).eraseDups
  match e.cur with
  | some v => vs.filter (fun u => decide (v < u)) ++ vs.filter (fun u => decide (u ≤ v))
  | none => vs

/-- The deficits that a round leaves, and the VF that it serves. -/
def State.colRound (s : State) (die : Nat) : List Nat → Table Nat → Table Nat × Option Nat
  | [], d => (d, none)
  | u :: us, d =>
    match s.colPick die u with
    | none => s.colRound die us d
    | some (_, k, o, c) =>
      let x := (tget d u).getD 0 + s.colQuantum u
      let d := tput d u x
      if o.cost k c ≤ x then (d, some u) else s.colRound die us d

/-- The choice at a chunk boundary (R395). -/
def State.colChoose (s : State) (die : Nat) : Table Nat × Option Nat :=
  let e := (s.die die).col
  let d := e.deficit.filter (fun x => (s.colPick die x.1).isSome)
  match e.cur.bind (fun v => (s.colPick die v).map (fun x => (v, x))) with
  | some (v, _, k, o, c) => if o.cost k c ≤ (tget d v).getD 0 then (d, some v) else s.colRound die e.order d
  | none => s.colRound die e.order d

/-- The step of a chunk: this member's contribution. -/
def State.colStep (s : State) (die q : Nat) (k : ColQ) (o : ColOp) (c : Nat) : State :=
  if (tget o.pages c).getD .none = .replied true then s.colFail die q o.seq Cst.xerr
  else
    let (s, r) := s.colRead k o c
    match r with
    | .ok bs =>
      let p := { (o.part c).add (Cd.fn o.desc) (o.contribution k c bs) with own := true }
      let s := s.modColOp die q o.seq fun o =>
        { o.setPart p with sent := o.sent ++ [c], pages := tdel o.pages c, started := s.now }
      s.colJoin die q o.seq c
    | .page w => s.modColOp die q o.seq fun o => { o with pages := tput o.pages c w }
    | .wait => s
    | .xerr => s.colFail die q o.seq Cst.xerr

/-- The collective engine's place among the agents of leave requests. -/
def colAgent : Nat := 5

/-- COLLECTIVE_CHUNK_STEP: the engine chooses a VF, has leave for it, and serves it. -/
def execCollectiveChunkStep (die : Nat) (s : State) : Out :=
  let e := (s.die die).col
  let (d, v) := s.colChoose die
  match v.bind (fun v => (s.colPick die v).map (fun x => (v, x))) with
  | none => .next (s.modCol die fun e => { e with deficit := d })
  | some (v, q, k, o, c) =>
    if !(e.vfLeave v).held then
      if (e.vfLeave v).wanted then .next s
      else .next ((s.askLeave (die * 256) colAgent v k.cls).modCol die fun e =>
        { e with leave := tput e.leave v { e.vfLeave v with wanted := true } })
    else
      let s := s.modCol die fun e =>
        { e with
          cur := some v, lastQ := tput e.lastQ v q, leave := tput e.leave v { e.vfLeave v with idle := s.now }
          deficit := tput d v ((tget d v).getD 0 - o.cost k c) }
      .next (s.colStep die q k o c)

/-! ## Receiving packets (R387, R392, R394) -/

/-- Fields of a packet. -/
def Pk.comm (p : ColPacket) : Nat := bits p.word0.toNat 0 16
def Pk.chunk (p : ColPacket) : Nat := bits p.word0.toNat 16 24
def Pk.seq (p : ColPacket) : Nat := bits p.word0.toNat 40 8
def Pk.op (p : ColPacket) : Nat := bits p.word0.toNat 52 4
def Pk.node (p : ColPacket) : Nat := bits p.word1.toNat 0 13
def Pk.hop (p : ColPacket) : Nat := bits p.word1.toNat 13 3

/-- The first packet on the way to an engine that is the one named is taken off it. -/
def takeMsg (node : Nat) (p : ColPacket) : List Msg → List Msg :=
  List.eraseP (fun m => match m with
    | .col _ n x => n == node && x == p
    | _ => false)

/-- The packet without its head entry. -/
def Pk.pop (p : ColPacket) : ColPacket := { p with word0 := p.word0 - w64 (2 ^ 48), word1 := p.word1 >>> 16 }

def Pk.part (p : ColPacket) : Partial :=
  { chunk := (Pk.chunk p), sums := p.payload, exps := p.exps, raw := p.raw, kids := 0, own := false, final := false }

/-- What a queue does with a packet. -/
inductive Meet where
  | take (o : ColOp)
  | hold
  | clash (o : ColOp)
  | drop

/-- The packet belongs to the collective that the queue works on, to a later one, or to none (R387, R394). -/
def ColQ.meet (k : ColQ) (p : ColPacket) : Meet :=
  match k.ops.head? with
  | none => if ((Pk.seq p) + 256 - k.seq % 256) % 256 < 128 then .hold else .drop
  | some o =>
    let ahead := ((Pk.seq p) + 256 - o.seq % 256) % 256
    if ahead = 0 then
      if (Pk.hop p) = Hop.abt then .take o
      else if !o.running then .hold
      else if Cd.op o.desc = (Pk.op p) then .take o else .clash o
    else if ahead < 128 then .hold
    else if (Pk.hop p) = Hop.abt then .drop else .clash o

/-- A packet acts on a queue. -/
def State.colAct (s : State) (die q : Nat) (o : ColOp) (p : ColPacket) : State :=
  let s := s.modColOp die q o.seq fun o => { o with started := s.now }
  if (Pk.hop p) = Hop.acc then
    let x := o.part (Pk.chunk p)
    let x := { x.add (Cd.fn o.desc) (Pk.part p) with kids := x.kids + 1 }
    (s.modColOp die q o.seq fun o => o.setPart x).colJoin die q o.seq (Pk.chunk p)
  else if (Pk.hop p) = Hop.fan ∨ (Pk.hop p) = Hop.scat then s.colResult die q o.seq (Pk.part p)
  else if (Pk.hop p) = Hop.abt then s.colFail die q o.seq Cst.abort
  else s.colFail die q o.seq Cst.xerr

/-- COLLECTIVE_PACKET_RECEIVE: a packet on its way within the module, or one that comes from another module. A
packet whose member is not ready for it, or is castled out, stays in its sender's buffers (R394, R398). -/
def execCollectivePacketReceive (die : Nat) (p : ColPacket) (s : State) : Out :=
  let took : State := { s with msgs := takeMsg (s.nodeId die) p s.msgs }
  if (Pk.hop p) = Hop.fwd then .next { took with msgs := took.msgs ++ [.col (s.nodeId die) (Pk.node p) (Pk.pop p)] }
  else
    match (s.die die).col.queues.find? (fun k => k.2.comm == (Pk.comm p)) with
    | none => .next (if (Pk.hop p) = Hop.abt then took else s)
    | some (q, k) =>
      if (s.part (s.ctx k.ctx).part).out then .next s
      else
      match k.meet p with
      | .take o => .next (took.colAct die q o p)
      | .hold => .next s
      | .clash o => .next (took.colFail die q o.seq Cst.xerr)
      | .drop => .next took

/-- COLLECTIVE_TIMEOUT. -/
def execCollectiveTimeout (die queue seq : Nat) (s : State) : Out :=
  match s.colQueue die queue, s.colOp? die queue seq with
  | some k, some o =>
    if o.running && decide (o.started + k.tmo * 1600 ≤ s.now) then .next (s.colFail die queue seq Cst.tmo) else .next s
  | _, _ => .next s

/-! ## The COL commands (R399, R400) -/

/-- CLSTAT.STATUS and CLRES of the thread that issued a command, wherever it is held. -/
def State.clReport (s : State) (j : PendCmd) (st : Nat) (res : Option Word) : State :=
  s.wordsOf j.h j.u j.tid fun u => { u with clstat := st, clres := if st = St.ok then res.getD u.clres else u.clres }

/-- Reads the 64-byte descriptor of a command and hands it on; DENY and an access fault give BADARG. -/
def State.colDesc (s : State) (j : PendCmd) (va : Word) (f : List Word → State → State) : CmdEnd :=
  if j.page = .replied true ∨ va.toNat % 64 ≠ 0 ∨ va.toNat < 0x200000 then .done (s.clReport j St.badarg none)
  else
    let (s, r) := s.readVa j.h j.tid j.u.ctx 1 .copyRead va.toNat 64
    match r with
    | .ok bs => .done (f ((chunks 8 8 bs).map (fun b => w64 (numOf b))) s)
    | .access => .done (s.clReport j St.badarg none)
    | .page p => .page s p

/-- Free chunk counters of a die, lowest first. -/
def ColEngine.freeCounters (e : ColEngine) : List Nat :=
  (List.range 64).filter (fun n => !e.queues.any (fun q => q.2.cnts.contains n))

def ColEngine.freeBuffers (e : ColEngine) : Nat := 1024 - e.queues.foldl (fun a q => a + 2 * q.2.w) 0

/-- COLQ: opens a queue. -/
def State.colq (s : State) (j : PendCmd) (d : List Word) : State :=
  let die := dieOf j.h
  let c := j.u.ctx
  let e := (s.die die).col
  let f (i : Nat) : Nat := (d.getD i 0).toNat
  let comm := bits (f 0) 0 16
  let w := bits (f 0) 16 4 + 1
  let cbn := bits (f 0) 24 6
  let mine := e.queues.filter (fun q => q.2.ctx == c)
  match firstFail
    [(!commOk d, St.badarg), (mine.any (fun q => q.2.comm == comm), St.busy),
     (decide ((s.ctx c).queues ≤ mine.length) || (tfree e.queues 0 64).isNone || decide (e.freeBuffers < 2 * w) ||
       decide (e.freeCounters.length < cbn), St.nores)] with
  | some st => s.clReport j st none
  | none =>
    let q := (tfree e.queues 0 64).getD 0
    let cnts := e.freeCounters.take cbn
    let k : ColQ :=
      { ctx := c, comm := comm, w := w, root := bit (f 0) 23, parent := f 1
        children := (List.range (bits (f 0) 20 3)).map (fun j => bits (f 2) (16 * j) 13)
        rank := bits (f 3) 0 13, members := bits (f 3) 16 13 + 1
        tmo := if bits (f 4) 0 32 = 0 then 1000000 else bits (f 4) 0 32
        cnts := cnts, vf := s.tenantOf c, seq := 1, ops := [], ended := [], closing := false }
    let s := s.modCol die fun e =>
      { e with
        queues := tput e.queues q k
        counters := cnts.foldl (fun t n => tput t n 0) e.counters }
    s.clReport j St.ok (some (w64 (q + cnts.headD 0 * 2 ^ 8)))

/-- The status of a queue operand, 0 where the context owns the open queue. -/
def State.queueStatus (s : State) (j : PendCmd) (a : Word) : Nat :=
  if 64 ≤ a.toNat then St.badarg
  else
    match s.colQueue (dieOf j.h) a.toNat with
    | some k => if k.ctx = j.u.ctx ∧ !k.closing then St.ok else St.noctx
    | none => St.noctx

/-- COLPUT: stages a collective; a BARRIER is a release of domain scope (R401). -/
def State.colput (s : State) (j : PendCmd) (a : Word) (d : List Word) : State :=
  let die := dieOf j.h
  let q := a.toNat
  let st := s.queueStatus j a
  if !collOk die d || st = St.badarg then s.clReport j St.badarg none
  else
    match if st = St.ok then s.colQueue die q else none with
    | none => s.clReport j St.noctx none
    | some k =>
      if 16 ≤ k.ops.length then s.clReport j St.busy none
      else
        let s := if Cd.op d = Cop.barrier then
            s.drain j.h j.tid (fun x => x.unit == j.u && inScope .dom j.h x.home) else s
        let o : ColOp :=
          { seq := k.seq, running := false, desc := d, base := (tget (s.die die).col.counters (Cd.gcid d)).getD 0
            unit := j.u, h := j.h, tid := j.tid, cls := 0, started := 0, sent := [], written := []
            partials := [], pages := [], flags := 0, disc := false }
        let s := s.modColQ die q fun k => { k with seq := (k.seq + 1) % 2 ^ 32, ops := k.ops ++ [o] }
        s.clReport j St.ok (some (w64 k.seq))

/-- COLGO: staged collectives run. -/
def State.colgo (s : State) (j : PendCmd) (a : Word) : State :=
  let die := dieOf j.h
  match s.queueStatus j a with
  | 0 =>
    let n := ((s.colQueue die a.toNat).map (fun k => (k.ops.filter (fun o => !o.running)).length)).getD 0
    let s := s.modColQ die a.toNat fun k =>
      { k with ops := k.ops.map (fun o => if o.running then o else { o with running := true, cls := j.cls, started := s.now }) }
    s.clReport j St.ok (some (w64 n))
  | st => s.clReport j st none

/-- COLWT goes on: its thread, which waits for it, takes a status. -/
def State.colwtOver (s : State) (j : PendCmd) (st : Nat) (disc : Option Bool) : State :=
  s.modUnitThread j.h j.u j.tid fun t =>
    { t with
      wait := match t.wait with
        | .colwt .. => .woken
        | w => w
      u := { t.u with clstat := st, cldisc := disc.getD t.u.cldisc } }

/-- COLWT: it waits while the collective is staged or runs. -/
def State.colwt (s : State) (j : PendCmd) (a b : Word) : State :=
  let die := dieOf j.h
  match s.queueStatus j a with
  | 0 =>
    if s.colRuns die a.toNat b.toNat then s
    else
      let (st, disc) := s.colFinal die a.toNat b.toNat
      s.colwtOver j st (some disc)
  | st => s.colwtOver j st none

/-- COLCAN: every collective of the queue ends here, and the queue closes where CLOSE asks for it. -/
def State.colcan (s : State) (j : PendCmd) (a b : Word) : State :=
  let die := dieOf j.h
  let q := a.toNat
  if 2 ≤ b.toNat then s.clReport j St.badarg none
  else
    match s.queueStatus j a with
    | 0 =>
      let seqs := ((s.colQueue die q).map (fun k => k.ops.map (·.seq))).getD []
      let s := seqs.foldl (fun s n => s.colFail die q n Cst.cancelled) s
      let s := if b = 1 then s.modCol die fun e => { e with queues := tdel e.queues q } else s
      s.clReport j St.ok none
    | st => s.clReport j st none

/-- Performs a COL command (R400). -/
def State.colPerform (j : PendCmd) (s : State) : CmdEnd :=
  match j.op with
  | .colq a => s.colDesc j a fun d s => s.colq j d
  | .colput a b => s.colDesc j b fun d s => s.colput j a d
  | .colgo a => .done (s.colgo j a)
  | .colwt a b => .done (s.colwt j a b)
  | .colcan a b => .done (s.colcan j a b)
  | _ => .done s

/-- The COL commands that a provisional unit holds back (R400). -/
def State.colCmd (s : State) (op : State → CmdOp) : Out := s.dispatchCmd Un.col State.confirmed op State.colPerform

def execColq (a : Reg) (look : Fin 16) (s : State) : Out :=
  let _ := look
  s.colCmd fun s => .colq (s.g a)

def execColput (a b : Reg) (look : Fin 16) (s : State) : Out :=
  let _ := look
  s.colCmd fun s => .colput (s.g a) (s.g b)

def execColgo (a : Reg) (look : Fin 16) (s : State) : Out :=
  let _ := look
  s.colCmd fun s => .colgo (s.g a)

/-- COLWT waits from its dispatch on, at a blocking point, until it is performed and its collective is over. -/
def execColwt (a b : Reg) (look : Fin 16) (s : State) : Out :=
  let _ := look
  s.dispatchTo Un.col roomy fun ply s =>
    let w := Wait.colwt (dieOf s.curCore) (s.g a).toNat (s.g b).toNat
    let op := CmdOp.colwt (s.g a) (s.g b)
    let s := s.blockAt w
    if s.cur.wait = w then
      let s := s.enqueue Un.col ply op State.colPerform
      if s.cur.wait = .woken then s.wakeDone s.curCore s.curTid else s
    else s

def execColcan (a b : Reg) (look : Fin 16) (s : State) : Out :=
  let _ := look
  s.colCmd fun s => .colcan (s.g a) (s.g b)

/-- COLSYNC: every earlier COL command of the thread has been performed (R400). -/
def execColsync (look : Fin 16) (s : State) : Out :=
  let _ := look
  s.unitWait Un.col 0 (fun s => !s.cmdPend (s.unitId s.curCore) s.curTid (fun k => k.unit == Un.col))

end Sys2Proof.Machine
end

