-- ==== Sys2Proof/WellFormed.lean ====
section
/-! DEFINITION. The checks on an instruction that its field types do not already carry: the operand
values for which a word is illegal (R58), and the limits of the operands of the module's own steps. -/

namespace Sys2Proof

/-- Why a word is no instruction (R58), or why an operand of a step is outside its limits. -/
inductive Reject where
  /-- Major 0x00, 0x3F or 0x3B–0x3E. -/
  | illegalMajor
  /-- A function or command value that the major leaves reserved. -/
  | reservedOp
  /-- A nonzero value in a reserved field. -/
  | reservedField
  /-- A reserved code in a field of named codes. -/
  | reservedCode
  /-- A round field of 5, 6 or 7. -/
  | roundField
  /-- A scope of 5, 6 or 7; system scope on an atomic. -/
  | scopeField
  /-- POS + LEN above 64 in a bit-field word (R93). -/
  | bitField
  /-- A CAS word whose d is odd or zero (R181). -/
  | casOperand
  /-- A LOOP word with N = 0 (R120). -/
  | loopLength
  /-- MWAIT with MASK 0 (R222). -/
  | zeroMask
  /-- CE = 0 with a nonzero CNT (R238). -/
  | counterField
  /-- A stream register where the field is f0–f27 (R197). -/
  | streamField
  /-- A system-register number that no core assigns (R110, R113). -/
  | registerNumber
  /-- A unit or word number that MFC leaves reserved (R57). -/
  | mfcWord
  /-- More than one word of bits (R53). -/
  | notOneWord
  /-- An operand of a module step outside the resource it names (R22). -/
  | outOfRange
  deriving DecidableEq, Repr

/-- The system-register numbers that some core assigns (R110, R297, R322, R434). -/
def sysRegAssigned (n : Nat) : Bool :=
  (1 ≤ n && n ≤ 9) || (0x10 ≤ n && n ≤ 0x14) || n == 0x18 || (0x20 ≤ n && n ≤ 0x22) ||
  (0x24 ≤ n && n ≤ 0x26) || (0x80 ≤ n && n ≤ 0x87) || n == 0xA0 || n == 0xA1 ||
  (0xC0 ≤ n && n ≤ 0xC6) || (0xE0 ≤ n && n ≤ 0xE3) || (0x400 ≤ n && n ≤ 0x45F)

/-- The words that MFC can name in each unit (R57 and each unit's status table). -/
def mfcAssigned (unit word : Nat) : Bool :=
  match unit with
  | 0 => word ≤ 24
  | 2 => word == 0
  | 3 => word == 0
  | 4 => word ≤ 4
  | 5 => word == 0 || (4 ≤ word && word ≤ 7)
  | 6 => word == 0 || (16 ≤ word && word ≤ 31)
  | 7 => word ≤ 1
  | 8 => word ≤ 4
  | 9 => word ≤ 5
  | 10 => word ≤ 1
  | 11 => word ≤ 1
  | 12 => word ≤ 1
  | 13 => word ≤ 1
  | 15 => word ≤ 1
  | _ => false

/-- The limits of a step's operands: a core number, a thread id, a die, a partition, a context, a VF. -/
def inRange (ok : Bool) : Option Reject := if ok then none else some .outOfRange

/-- The first check that an instruction fails; none for a well-formed one. -/
def Instr.check : Instr → Option Reject
  | .bextz _ _ pos len | .bexti _ _ pos len | .bdep _ _ pos len =>
    if pos.val + (len.val + 1) ≤ 64 then none else some .bitField
  | .casw d _ _ _ scope _ | .casd d _ _ _ scope _ =>
    if d.val % 2 = 1 ∨ d.val = 0 then some .casOperand
    else if scope = .sys then some .scopeField else none
  | .atwadd _ _ _ _ scope _ | .atwand _ _ _ _ scope _ | .atwor _ _ _ _ scope _
  | .atwxor _ _ _ _ scope _ | .atwmax _ _ _ _ scope _ | .atwmin _ _ _ _ scope _
  | .atwmaxz _ _ _ _ scope _ | .atwminz _ _ _ _ scope _ | .atdadd _ _ _ _ scope _
  | .atdand _ _ _ _ scope _ | .atdor _ _ _ _ scope _ | .atdxor _ _ _ _ scope _
  | .atdmax _ _ _ _ scope _ | .atdmin _ _ _ _ scope _ | .atdmaxz _ _ _ _ scope _
  | .atdminz _ _ _ _ scope _ | .swpw _ _ _ _ scope _ | .swpd _ _ _ _ scope _ =>
    if scope = .sys then some .scopeField else none
  | .loop0 _ n | .loop1 _ n => if n = 0 then some .loopLength else none
  | .mwait _ mask => if mask = 0 then some .zeroMask else none
  | .chl _ _ _ cnt ce | .clh _ _ _ cnt ce | .cbb _ _ _ cnt ce _ | .cmc _ _ _ cnt ce _
  | .cgath _ _ _ cnt ce | .cscat _ _ _ cnt ce =>
    if ce = false ∧ cnt ≠ 0 then some .counterField else none
  | .vmaxx _ b _ _ => if 28 ≤ b.val then some .streamField else none
  | .vqnt b _ _ _ _ => if 28 ≤ b.val then some .streamField else none
  | .srr _ num | .srw _ num => if sysRegAssigned num.toNat then none else some .registerNumber
  | .mfc _ unit word => if mfcAssigned unit.val word.val then none else some .mfcWord
  | .lateFaultArrival h tid code .. => inRange (h < 4096 && tid ≤ 10 && 0x20 ≤ code && code ≤ 0x2C)
  | .bfmtWrite h tid | .lateFaultDelivery h tid | .threadWake h tid
  | .unitAcceptCommand h tid | .lcntWrite h tid .. => inRange (h < 4096 && tid ≤ 10)
  | .waymaskWrite h _ | .wdogWrite h _ | .trapReplyConsume h .. | .pageReplyConsume h ..
  | .invalidationRequest h .. | .unitEvict h | .unitComplete h | .watchdogExpire h
  | .forcedUnitStop h | .vmaxxTimeout h _ | .vectorCommandPerform h | .qrnCommandPerform h
  | .flushTokenReturn h | .linkCrcError h => inRange (h < 4096)
  | .correctableError e => inRange (e.h < 4096)
  | .tileDrainEnd h e => inRange (h < 4096 && e < 64)
  | .matrixEngineStep h ms => inRange (h < 4096 && ms < 4)
  | .matrixCommandComplete h ms => inRange (h < 4096 && ms ≤ 4)
  | .leaveRelease h engine => inRange (h < 4096 && engine < 562)
  | .copyCommandStart h _ | .copyCommandComplete h _ | .busFrame h .. | .leaseRequest h .. | .groupJoinCheck h _
  | .busOpTimeout h _ => inRange (h < 4096)
  | .unitPlacement p | .castleStop p | .castleResume p => inRange (p < 48)
  | .leaveGrant die | .thermalThrottle die _ | .thermalTrip die | .collectiveChunkStep die
  | .collectivePacketReceive die _ | .collectiveTimeout die .. | .l2TagParityError die ..
  | .dieClockGating die _ => inRange (die < 16)
  | .phaseCommit ctx graph => inRange (ctx < 4096 && graph < 16)
  | .coreGrantComplete ctx | .contextDeleteComplete ctx => inRange (ctx < 4096)
  | .portTrainingDone port .. => inRange (port < 64)
  | .calibration _ wlim _ => inRange (wlim ≤ 15)
  | .hostBar2Access vf .. | .jobgoWrite vf | .hmsgWrite vf _ | .bar0RegisterWrite vf ..
  | .functionLevelReset vf | .vfResetEnd vf => inRange (vf < 512)
  | _ => none

/-- The same checks on the words of majors 0x23–0x2A by themselves. -/
def High.check : High → Option Reject
  | .loop0 _ n | .loop1 _ n => if n = 0 then some .loopLength else none
  | .srr _ num | .srw _ num => if sysRegAssigned num.toNat then none else some .registerNumber
  | _ => none

/-- An instruction is well formed when it passes every check. -/
abbrev Instr.WellFormed (i : Instr) : Prop := i.check = none

end Sys2Proof
end

