-- ==== Sys2Proof/Decode.lean ====
section
/-! DEFINITION. The decoder, total on every word and refusing by name (R58), and the encoder, both
from the encoding tables of the spec; and the named entry the host reads a table row through. -/

namespace Sys2Proof

/-- Field of `n` bits from bit `lo` (R1). -/
def fld (w lo n : Nat) : Nat := w / 2 ^ lo % 2 ^ n

/-- The register field whose lowest bit is `lo` (R53, R54). -/
def regAt (w lo : Nat) : Reg := Fin.ofNat 32 (fld w lo 5)

/-- The lookahead field whose lowest bit is `lo` (R53, R61). -/
def lookAt (w lo : Nat) : Fin 16 := Fin.ofNat 16 (fld w lo 4)

/-- The single bit `lo`. -/
def bitAt (w lo : Nat) : Bool := fld w lo 1 == 1

/-- The Rnd of a code, none for a reserved code. -/
def Rnd.fromCode? : Nat → Option Rnd
  | 0 => some .rne
  | 1 => some .rtz
  | 2 => some .rup
  | 3 => some .rdn
  | 4 => some .rto
  | _ => none

/-- The LaneW of a code, none for a reserved code. -/
def LaneW.fromCode? : Nat → Option LaneW
  | 0 => some .w8
  | 1 => some .w16
  | 2 => some .w32
  | _ => none

/-- The Scope of a code, none for a reserved code. -/
def Scope.fromCode? : Nat → Option Scope
  | 0 => some .core
  | 1 => some .die
  | 2 => some .mod
  | 3 => some .dom
  | 4 => some .sys
  | _ => none

/-- The CLevel of a code, none for a reserved code. -/
def CLevel.fromCode? : Nat → Option CLevel
  | 0 => some .unit
  | 1 => some .launch
  | 2 => some .graph
  | 3 => some .phase
  | 4 => some .job
  | _ => none

/-- The Prec of a code; every code of the field is assigned. -/
def Prec.fromCode : Nat → Prec
  | 0 => .s
  | _ => .d

/-- The Order of a code; every code of the field is assigned. -/
def Order.fromCode : Nat → Order
  | 0 => .plain
  | 1 => .acquire
  | 2 => .release
  | _ => .acqRel

/-- The TileSt of a code; every code of the field is assigned. -/
def TileSt.fromCode : Nat → TileSt
  | 0 => .empty
  | 1 => .filling
  | 2 => .ready
  | _ => .draining

/-- Words of major 0x01, ALU (R88). -/
def decodeAlu (w : Nat) : Except Reject Instr :=
  match fld w 4 7 with
  | 0 => if fld w 0 4 = 0 then
      .ok (.add (regAt w 21) (regAt w 16) (regAt w 11))
    else .error .reservedField
  | 1 => if fld w 0 4 = 0 then
      .ok (.sub (regAt w 21) (regAt w 16) (regAt w 11))
    else .error .reservedField
  | 2 => if fld w 0 4 = 0 then
      .ok (.mul (regAt w 21) (regAt w 16) (regAt w 11))
    else .error .reservedField
  | 3 => if fld w 0 4 = 0 then
      .ok (.mulh (regAt w 21) (regAt w 16) (regAt w 11))
    else .error .reservedField
  | 4 => if fld w 0 4 = 0 then
      .ok (.mulhz (regAt w 21) (regAt w 16) (regAt w 11))
    else .error .reservedField
  | 5 => if fld w 0 4 = 0 then
      .ok (.div (regAt w 21) (regAt w 16) (regAt w 11))
    else .error .reservedField
  | 6 => if fld w 0 4 = 0 then
      .ok (.divz (regAt w 21) (regAt w 16) (regAt w 11))
    else .error .reservedField
  | 7 => if fld w 0 4 = 0 then
      .ok (.rem (regAt w 21) (regAt w 16) (regAt w 11))
    else .error .reservedField
  | 8 => if fld w 0 4 = 0 then
      .ok (.remz (regAt w 21) (regAt w 16) (regAt w 11))
    else .error .reservedField
  | 9 => if fld w 0 4 = 0 then
      .ok (.and (regAt w 21) (regAt w 16) (regAt w 11))
    else .error .reservedField
  | 10 => if fld w 0 4 = 0 then
      .ok (.or (regAt w 21) (regAt w 16) (regAt w 11))
    else .error .reservedField
  | 11 => if fld w 0 4 = 0 then
      .ok (.xor (regAt w 21) (regAt w 16) (regAt w 11))
    else .error .reservedField
  | 12 => if fld w 0 4 = 0 then
      .ok (.andn (regAt w 21) (regAt w 16) (regAt w 11))
    else .error .reservedField
  | 13 => if fld w 0 4 = 0 then
      .ok (.sll (regAt w 21) (regAt w 16) (regAt w 11))
    else .error .reservedField
  | 14 => if fld w 0 4 = 0 then
      .ok (.srl (regAt w 21) (regAt w 16) (regAt w 11))
    else .error .reservedField
  | 15 => if fld w 0 4 = 0 then
      .ok (.sra (regAt w 21) (regAt w 16) (regAt w 11))
    else .error .reservedField
  | 16 => if fld w 0 4 = 0 then
      .ok (.rol (regAt w 21) (regAt w 16) (regAt w 11))
    else .error .reservedField
  | 17 => if fld w 0 4 = 0 then
      .ok (.ror (regAt w 21) (regAt w 16) (regAt w 11))
    else .error .reservedField
  | 18 => if fld w 0 4 = 0 then
      .ok (.slt (regAt w 21) (regAt w 16) (regAt w 11))
    else .error .reservedField
  | 19 => if fld w 0 4 = 0 then
      .ok (.sltz (regAt w 21) (regAt w 16) (regAt w 11))
    else .error .reservedField
  | 20 => if fld w 0 4 = 0 then
      .ok (.min (regAt w 21) (regAt w 16) (regAt w 11))
    else .error .reservedField
  | 21 => if fld w 0 4 = 0 then
      .ok (.max (regAt w 21) (regAt w 16) (regAt w 11))
    else .error .reservedField
  | 22 => if fld w 0 4 = 0 then
      .ok (.minz (regAt w 21) (regAt w 16) (regAt w 11))
    else .error .reservedField
  | 23 => if fld w 0 4 = 0 then
      .ok (.maxz (regAt w 21) (regAt w 16) (regAt w 11))
    else .error .reservedField
  | 24 => if fld w 0 4 = 0 then
      .ok (.sel (regAt w 21) (regAt w 16) (regAt w 11))
    else .error .reservedField
  | 25 => if fld w 0 4 = 0 ∧ fld w 11 5 = 0 then
      .ok (.clz (regAt w 21) (regAt w 16))
    else .error .reservedField
  | 26 => if fld w 0 4 = 0 ∧ fld w 11 5 = 0 then
      .ok (.ctz (regAt w 21) (regAt w 16))
    else .error .reservedField
  | 27 => if fld w 0 4 = 0 ∧ fld w 11 5 = 0 then
      .ok (.ffs (regAt w 21) (regAt w 16))
    else .error .reservedField
  | 28 => if fld w 0 4 = 0 ∧ fld w 11 5 = 0 then
      .ok (.popc (regAt w 21) (regAt w 16))
    else .error .reservedField
  | 29 => if fld w 0 4 = 0 ∧ fld w 11 5 = 0 then
      .ok (.brev (regAt w 21) (regAt w 16))
    else .error .reservedField
  | 30 => if fld w 0 4 = 0 ∧ fld w 11 5 = 0 then
      .ok (.bswap (regAt w 21) (regAt w 16))
    else .error .reservedField
  | 32 => if fld w 0 4 = 0 then
      .ok (.addw (regAt w 21) (regAt w 16) (regAt w 11))
    else .error .reservedField
  | 33 => if fld w 0 4 = 0 then
      .ok (.subw (regAt w 21) (regAt w 16) (regAt w 11))
    else .error .reservedField
  | 34 => if fld w 0 4 = 0 then
      .ok (.mulw (regAt w 21) (regAt w 16) (regAt w 11))
    else .error .reservedField
  | 37 => if fld w 0 4 = 0 then
      .ok (.divw (regAt w 21) (regAt w 16) (regAt w 11))
    else .error .reservedField
  | 38 => if fld w 0 4 = 0 then
      .ok (.divwz (regAt w 21) (regAt w 16) (regAt w 11))
    else .error .reservedField
  | 39 => if fld w 0 4 = 0 then
      .ok (.remw (regAt w 21) (regAt w 16) (regAt w 11))
    else .error .reservedField
  | 40 => if fld w 0 4 = 0 then
      .ok (.remwz (regAt w 21) (regAt w 16) (regAt w 11))
    else .error .reservedField
  | 45 => if fld w 0 4 = 0 then
      .ok (.sllw (regAt w 21) (regAt w 16) (regAt w 11))
    else .error .reservedField
  | 46 => if fld w 0 4 = 0 then
      .ok (.srlw (regAt w 21) (regAt w 16) (regAt w 11))
    else .error .reservedField
  | 47 => if fld w 0 4 = 0 then
      .ok (.sraw (regAt w 21) (regAt w 16) (regAt w 11))
    else .error .reservedField
  | _ => .error .reservedOp

/-- Words of major 0x08, SHI (R92). -/
def decodeShi (w : Nat) : Except Reject Instr :=
  match fld w 13 3 with
  | 0 => if fld w 6 7 = 0 then
      .ok (.slli (regAt w 21) (regAt w 16) (Fin.ofNat 64 (fld w 0 6)))
    else .error .reservedField
  | 2 => if fld w 6 7 = 0 then
      .ok (.srli (regAt w 21) (regAt w 16) (Fin.ofNat 64 (fld w 0 6)))
    else .error .reservedField
  | 4 => if fld w 6 7 = 0 then
      .ok (.srai (regAt w 21) (regAt w 16) (Fin.ofNat 64 (fld w 0 6)))
    else .error .reservedField
  | 6 => if fld w 6 7 = 0 then
      .ok (.rori (regAt w 21) (regAt w 16) (Fin.ofNat 64 (fld w 0 6)))
    else .error .reservedField
  | 1 => if fld w 5 8 = 0 then
      .ok (.slliw (regAt w 21) (regAt w 16) (Fin.ofNat 32 (fld w 0 5)))
    else .error .reservedField
  | 3 => if fld w 5 8 = 0 then
      .ok (.srliw (regAt w 21) (regAt w 16) (Fin.ofNat 32 (fld w 0 5)))
    else .error .reservedField
  | 5 => if fld w 5 8 = 0 then
      .ok (.sraiw (regAt w 21) (regAt w 16) (Fin.ofNat 32 (fld w 0 5)))
    else .error .reservedField
  | 7 => if fld w 5 8 = 0 then
      .ok (.roriw (regAt w 21) (regAt w 16) (Fin.ofNat 32 (fld w 0 5)))
    else .error .reservedField
  | _ => .error .reservedOp

/-- Words of major 0x0B, PAL (R94). -/
def decodePal (w : Nat) : Except Reject Instr :=
  match fld w 4 7 with
  | 0 => if fld w 0 2 = 0 then
      (LaneW.fromCode? (fld w 2 2)).elim (.error .reservedCode) fun lane => .ok (.padd (regAt w 21) (regAt w 16) (regAt w 11) lane)
    else .error .reservedField
  | 1 => if fld w 0 2 = 0 then
      (LaneW.fromCode? (fld w 2 2)).elim (.error .reservedCode) fun lane => .ok (.psub (regAt w 21) (regAt w 16) (regAt w 11) lane)
    else .error .reservedField
  | 2 => if fld w 0 1 = 0 then
      (LaneW.fromCode? (fld w 2 2)).elim (.error .reservedCode) fun lane => .ok (.padds (regAt w 21) (regAt w 16) (regAt w 11) lane (bitAt w 1))
    else .error .reservedField
  | 3 => if fld w 0 1 = 0 then
      (LaneW.fromCode? (fld w 2 2)).elim (.error .reservedCode) fun lane => .ok (.psubs (regAt w 21) (regAt w 16) (regAt w 11) lane (bitAt w 1))
    else .error .reservedField
  | 4 => if fld w 0 2 = 0 then
      (LaneW.fromCode? (fld w 2 2)).elim (.error .reservedCode) fun lane => .ok (.pmul (regAt w 21) (regAt w 16) (regAt w 11) lane)
    else .error .reservedField
  | 5 => if fld w 0 1 = 0 then
      (LaneW.fromCode? (fld w 2 2)).elim (.error .reservedCode) fun lane => .ok (.pmulh (regAt w 21) (regAt w 16) (regAt w 11) lane (bitAt w 1))
    else .error .reservedField
  | 6 => if fld w 0 1 = 0 then
      (LaneW.fromCode? (fld w 2 2)).elim (.error .reservedCode) fun lane => .ok (.pdiv (regAt w 21) (regAt w 16) (regAt w 11) lane (bitAt w 1))
    else .error .reservedField
  | 7 => if fld w 0 1 = 0 then
      (LaneW.fromCode? (fld w 2 2)).elim (.error .reservedCode) fun lane => .ok (.prem (regAt w 21) (regAt w 16) (regAt w 11) lane (bitAt w 1))
    else .error .reservedField
  | 8 => if fld w 0 1 = 0 then
      (LaneW.fromCode? (fld w 2 2)).elim (.error .reservedCode) fun lane => .ok (.pmin (regAt w 21) (regAt w 16) (regAt w 11) lane (bitAt w 1))
    else .error .reservedField
  | 9 => if fld w 0 1 = 0 then
      (LaneW.fromCode? (fld w 2 2)).elim (.error .reservedCode) fun lane => .ok (.pmax (regAt w 21) (regAt w 16) (regAt w 11) lane (bitAt w 1))
    else .error .reservedField
  | 10 => if fld w 0 2 = 0 then
      (LaneW.fromCode? (fld w 2 2)).elim (.error .reservedCode) fun lane => .ok (.pceq (regAt w 21) (regAt w 16) (regAt w 11) lane)
    else .error .reservedField
  | 11 => if fld w 0 1 = 0 then
      (LaneW.fromCode? (fld w 2 2)).elim (.error .reservedCode) fun lane => .ok (.pclt (regAt w 21) (regAt w 16) (regAt w 11) lane (bitAt w 1))
    else .error .reservedField
  | 12 => if fld w 0 2 = 0 then
      (LaneW.fromCode? (fld w 2 2)).elim (.error .reservedCode) fun lane => .ok (.psll (regAt w 21) (regAt w 16) (regAt w 11) lane)
    else .error .reservedField
  | 13 => if fld w 0 2 = 0 then
      (LaneW.fromCode? (fld w 2 2)).elim (.error .reservedCode) fun lane => .ok (.psrl (regAt w 21) (regAt w 16) (regAt w 11) lane)
    else .error .reservedField
  | 14 => if fld w 0 2 = 0 then
      (LaneW.fromCode? (fld w 2 2)).elim (.error .reservedCode) fun lane => .ok (.psra (regAt w 21) (regAt w 16) (regAt w 11) lane)
    else .error .reservedField
  | 15 => if fld w 0 2 = 0 ∧ fld w 11 5 = 0 then
      (LaneW.fromCode? (fld w 2 2)).elim (.error .reservedCode) fun lane => .ok (.pclz (regAt w 21) (regAt w 16) lane)
    else .error .reservedField
  | 16 => if fld w 0 2 = 0 ∧ fld w 11 5 = 0 then
      (LaneW.fromCode? (fld w 2 2)).elim (.error .reservedCode) fun lane => .ok (.pctz (regAt w 21) (regAt w 16) lane)
    else .error .reservedField
  | 17 => if fld w 0 2 = 0 ∧ fld w 11 5 = 0 then
      (LaneW.fromCode? (fld w 2 2)).elim (.error .reservedCode) fun lane => .ok (.pffs (regAt w 21) (regAt w 16) lane)
    else .error .reservedField
  | 18 => if fld w 0 2 = 0 ∧ fld w 11 5 = 0 then
      (LaneW.fromCode? (fld w 2 2)).elim (.error .reservedCode) fun lane => .ok (.ppopc (regAt w 21) (regAt w 16) lane)
    else .error .reservedField
  | _ => .error .reservedOp

/-- Words of major 0x0C, BIT (R93). -/
def decodeBit (w : Nat) : Except Reject Instr :=
  match fld w 9 2 with
  | 0 => if fld w 7 2 = 0 then
      .ok (.bextz (regAt w 21) (regAt w 16) (Fin.ofNat 64 (fld w 0 6)) (Fin.ofNat 64 (fld w 6 1 * 32 + fld w 11 5)))
    else .error .reservedField
  | 1 => if fld w 7 2 = 0 then
      .ok (.bexti (regAt w 21) (regAt w 16) (Fin.ofNat 64 (fld w 0 6)) (Fin.ofNat 64 (fld w 6 1 * 32 + fld w 11 5)))
    else .error .reservedField
  | 2 => if fld w 7 2 = 0 then
      .ok (.bdep (regAt w 21) (regAt w 16) (Fin.ofNat 64 (fld w 0 6)) (Fin.ofNat 64 (fld w 6 1 * 32 + fld w 11 5)))
    else .error .reservedField
  | _ => .error .reservedOp

/-- Words of major 0x1E, ATW (R182). -/
def decodeAtw (w : Nat) : Except Reject Instr :=
  match fld w 8 3 with
  | 0 => (Scope.fromCode? (fld w 4 2)).elim (.error .scopeField) fun scope => .ok (.atwadd (regAt w 21) (regAt w 16) (regAt w 11) (Order.fromCode (fld w 6 2)) scope (lookAt w 0))
  | 1 => (Scope.fromCode? (fld w 4 2)).elim (.error .scopeField) fun scope => .ok (.atwand (regAt w 21) (regAt w 16) (regAt w 11) (Order.fromCode (fld w 6 2)) scope (lookAt w 0))
  | 2 => (Scope.fromCode? (fld w 4 2)).elim (.error .scopeField) fun scope => .ok (.atwor (regAt w 21) (regAt w 16) (regAt w 11) (Order.fromCode (fld w 6 2)) scope (lookAt w 0))
  | 3 => (Scope.fromCode? (fld w 4 2)).elim (.error .scopeField) fun scope => .ok (.atwxor (regAt w 21) (regAt w 16) (regAt w 11) (Order.fromCode (fld w 6 2)) scope (lookAt w 0))
  | 4 => (Scope.fromCode? (fld w 4 2)).elim (.error .scopeField) fun scope => .ok (.atwmax (regAt w 21) (regAt w 16) (regAt w 11) (Order.fromCode (fld w 6 2)) scope (lookAt w 0))
  | 5 => (Scope.fromCode? (fld w 4 2)).elim (.error .scopeField) fun scope => .ok (.atwmin (regAt w 21) (regAt w 16) (regAt w 11) (Order.fromCode (fld w 6 2)) scope (lookAt w 0))
  | 6 => (Scope.fromCode? (fld w 4 2)).elim (.error .scopeField) fun scope => .ok (.atwmaxz (regAt w 21) (regAt w 16) (regAt w 11) (Order.fromCode (fld w 6 2)) scope (lookAt w 0))
  | 7 => (Scope.fromCode? (fld w 4 2)).elim (.error .scopeField) fun scope => .ok (.atwminz (regAt w 21) (regAt w 16) (regAt w 11) (Order.fromCode (fld w 6 2)) scope (lookAt w 0))
  | _ => .error .reservedOp

/-- Words of major 0x1F, ATD (R182). -/
def decodeAtd (w : Nat) : Except Reject Instr :=
  match fld w 8 3 with
  | 0 => (Scope.fromCode? (fld w 4 2)).elim (.error .scopeField) fun scope => .ok (.atdadd (regAt w 21) (regAt w 16) (regAt w 11) (Order.fromCode (fld w 6 2)) scope (lookAt w 0))
  | 1 => (Scope.fromCode? (fld w 4 2)).elim (.error .scopeField) fun scope => .ok (.atdand (regAt w 21) (regAt w 16) (regAt w 11) (Order.fromCode (fld w 6 2)) scope (lookAt w 0))
  | 2 => (Scope.fromCode? (fld w 4 2)).elim (.error .scopeField) fun scope => .ok (.atdor (regAt w 21) (regAt w 16) (regAt w 11) (Order.fromCode (fld w 6 2)) scope (lookAt w 0))
  | 3 => (Scope.fromCode? (fld w 4 2)).elim (.error .scopeField) fun scope => .ok (.atdxor (regAt w 21) (regAt w 16) (regAt w 11) (Order.fromCode (fld w 6 2)) scope (lookAt w 0))
  | 4 => (Scope.fromCode? (fld w 4 2)).elim (.error .scopeField) fun scope => .ok (.atdmax (regAt w 21) (regAt w 16) (regAt w 11) (Order.fromCode (fld w 6 2)) scope (lookAt w 0))
  | 5 => (Scope.fromCode? (fld w 4 2)).elim (.error .scopeField) fun scope => .ok (.atdmin (regAt w 21) (regAt w 16) (regAt w 11) (Order.fromCode (fld w 6 2)) scope (lookAt w 0))
  | 6 => (Scope.fromCode? (fld w 4 2)).elim (.error .scopeField) fun scope => .ok (.atdmaxz (regAt w 21) (regAt w 16) (regAt w 11) (Order.fromCode (fld w 6 2)) scope (lookAt w 0))
  | 7 => (Scope.fromCode? (fld w 4 2)).elim (.error .scopeField) fun scope => .ok (.atdminz (regAt w 21) (regAt w 16) (regAt w 11) (Order.fromCode (fld w 6 2)) scope (lookAt w 0))
  | _ => .error .reservedOp

/-- Words of major 0x20, ATX (R182). -/
def decodeAtx (w : Nat) : Except Reject Instr :=
  match fld w 8 3 with
  | 0 => (Scope.fromCode? (fld w 4 2)).elim (.error .scopeField) fun scope => .ok (.swpw (regAt w 21) (regAt w 16) (regAt w 11) (Order.fromCode (fld w 6 2)) scope (lookAt w 0))
  | 1 => (Scope.fromCode? (fld w 4 2)).elim (.error .scopeField) fun scope => .ok (.swpd (regAt w 21) (regAt w 16) (regAt w 11) (Order.fromCode (fld w 6 2)) scope (lookAt w 0))
  | 2 => if fld w 21 1 = 0 then
      (Scope.fromCode? (fld w 4 2)).elim (.error .scopeField) fun scope => .ok (.casw (regAt w 21) (regAt w 16) (regAt w 11) (Order.fromCode (fld w 6 2)) scope (lookAt w 0))
    else .error .reservedField
  | 3 => if fld w 21 1 = 0 then
      (Scope.fromCode? (fld w 4 2)).elim (.error .scopeField) fun scope => .ok (.casd (regAt w 21) (regAt w 16) (regAt w 11) (Order.fromCode (fld w 6 2)) scope (lookAt w 0))
    else .error .reservedField
  | _ => .error .reservedOp

/-- Words of major 0x21, FENCE (R184). -/
def decodeFence (w : Nat) : Except Reject Instr :=
  match fld w 8 3 with
  | 0 => if fld w 0 4 = 0 ∧ fld w 7 1 = 0 ∧ fld w 11 15 = 0 then
      (Scope.fromCode? (fld w 4 3)).elim (.error .scopeField) fun scope => .ok (.fence scope)
    else .error .reservedField
  | 1 => if fld w 0 4 = 0 ∧ fld w 7 1 = 0 ∧ fld w 11 15 = 0 then
      (Scope.fromCode? (fld w 4 3)).elim (.error .scopeField) fun scope => .ok (.fencea scope)
    else .error .reservedField
  | 2 => if fld w 0 4 = 0 ∧ fld w 7 1 = 0 ∧ fld w 11 15 = 0 then
      (Scope.fromCode? (fld w 4 3)).elim (.error .scopeField) fun scope => .ok (.fencer scope)
    else .error .reservedField
  | _ => .error .reservedOp

/-- Words of major 0x22, BR (R114). -/
def decodeBr (w : Nat) : Except Reject Instr :=
  match fld w 13 3 with
  | 0 => .ok (.beq (regAt w 21) (regAt w 16) (BitVec.ofNat 13 (fld w 0 13)))
  | 1 => .ok (.bne (regAt w 21) (regAt w 16) (BitVec.ofNat 13 (fld w 0 13)))
  | 2 => .ok (.blt (regAt w 21) (regAt w 16) (BitVec.ofNat 13 (fld w 0 13)))
  | 3 => .ok (.bge (regAt w 21) (regAt w 16) (BitVec.ofNat 13 (fld w 0 13)))
  | 4 => .ok (.bltz (regAt w 21) (regAt w 16) (BitVec.ofNat 13 (fld w 0 13)))
  | 5 => .ok (.bgez (regAt w 21) (regAt w 16) (BitVec.ofNat 13 (fld w 0 13)))
  | _ => .error .reservedOp

/-- Words of major 0x25, JR (R116). -/
def decodeJr (w : Nat) : Except Reject High :=
  match fld w 8 3 with
  | 0 => if fld w 0 8 = 0 ∧ fld w 11 5 = 0 ∧ fld w 21 5 = 0 then
      .ok (.jr (regAt w 16))
    else .error .reservedField
  | 1 => if fld w 0 8 = 0 ∧ fld w 11 5 = 0 then
      .ok (.jalr (regAt w 21) (regAt w 16))
    else .error .reservedField
  | _ => .error .reservedOp

/-- Words of major 0x26, LOOP (R120). -/
def decodeLoop (w : Nat) : Except Reject High :=
  match fld w 12 1 with
  | 0 => if fld w 13 3 = 0 ∧ fld w 21 5 = 0 then
      .ok (.loop0 (regAt w 16) (BitVec.ofNat 12 (fld w 0 12)))
    else .error .reservedField
  | 1 => if fld w 13 3 = 0 ∧ fld w 21 5 = 0 then
      .ok (.loop1 (regAt w 16) (BitVec.ofNat 12 (fld w 0 12)))
    else .error .reservedField
  | _ => .error .reservedOp

/-- Words of major 0x27, FPU (R96). -/
def decodeFpu (w : Nat) : Except Reject High :=
  match fld w 4 7 with
  | 0 => (Rnd.fromCode? (fld w 0 3)).elim (.error .roundField) fun rnd => .ok (.fadd (regAt w 21) (regAt w 16) (regAt w 11) (Prec.fromCode (fld w 3 1)) rnd)
  | 1 => (Rnd.fromCode? (fld w 0 3)).elim (.error .roundField) fun rnd => .ok (.fsub (regAt w 21) (regAt w 16) (regAt w 11) (Prec.fromCode (fld w 3 1)) rnd)
  | 2 => (Rnd.fromCode? (fld w 0 3)).elim (.error .roundField) fun rnd => .ok (.fmul (regAt w 21) (regAt w 16) (regAt w 11) (Prec.fromCode (fld w 3 1)) rnd)
  | 3 => (Rnd.fromCode? (fld w 0 3)).elim (.error .roundField) fun rnd => .ok (.fdiv (regAt w 21) (regAt w 16) (regAt w 11) (Prec.fromCode (fld w 3 1)) rnd)
  | 4 => if fld w 11 5 = 0 then
      (Rnd.fromCode? (fld w 0 3)).elim (.error .roundField) fun rnd => .ok (.fsqrt (regAt w 21) (regAt w 16) (Prec.fromCode (fld w 3 1)) rnd)
    else .error .reservedField
  | 5 => (Rnd.fromCode? (fld w 0 3)).elim (.error .roundField) fun rnd => .ok (.fma (regAt w 21) (regAt w 16) (regAt w 11) (Prec.fromCode (fld w 3 1)) rnd)
  | 6 => (Rnd.fromCode? (fld w 0 3)).elim (.error .roundField) fun rnd => .ok (.fms (regAt w 21) (regAt w 16) (regAt w 11) (Prec.fromCode (fld w 3 1)) rnd)
  | 7 => (Rnd.fromCode? (fld w 0 3)).elim (.error .roundField) fun rnd => .ok (.fnms (regAt w 21) (regAt w 16) (regAt w 11) (Prec.fromCode (fld w 3 1)) rnd)
  | 8 => if fld w 0 3 = 0 then
      .ok (.fmin (regAt w 21) (regAt w 16) (regAt w 11) (Prec.fromCode (fld w 3 1)))
    else .error .reservedField
  | 9 => if fld w 0 3 = 0 then
      .ok (.fmax (regAt w 21) (regAt w 16) (regAt w 11) (Prec.fromCode (fld w 3 1)))
    else .error .reservedField
  | 10 => if fld w 0 3 = 0 then
      .ok (.fsgn (regAt w 21) (regAt w 16) (regAt w 11) (Prec.fromCode (fld w 3 1)))
    else .error .reservedField
  | 11 => if fld w 0 3 = 0 then
      .ok (.fsgnn (regAt w 21) (regAt w 16) (regAt w 11) (Prec.fromCode (fld w 3 1)))
    else .error .reservedField
  | 12 => if fld w 0 3 = 0 then
      .ok (.fsgnx (regAt w 21) (regAt w 16) (regAt w 11) (Prec.fromCode (fld w 3 1)))
    else .error .reservedField
  | _ => .error .reservedOp

/-- Words of major 0x28, FCV (R98). -/
def decodeFcv (w : Nat) : Except Reject High :=
  if fld w 6 5 = 1 then if fld w 11 5 = 0 then
      (Rnd.fromCode? (fld w 0 3)).elim (.error .roundField) fun rnd => .ok (.ftoi (regAt w 21) (regAt w 16) (Prec.fromCode (fld w 5 1)) (bitAt w 4) (bitAt w 3) rnd)
    else .error .reservedField
  else if fld w 6 5 = 2 then if fld w 11 5 = 0 then
      (Rnd.fromCode? (fld w 0 3)).elim (.error .roundField) fun rnd => .ok (.itof (regAt w 21) (regAt w 16) (Prec.fromCode (fld w 5 1)) (bitAt w 4) (bitAt w 3) rnd)
    else .error .reservedField
  else if fld w 6 5 = 4 then
    match fld w 3 2 with
    | 0 => if fld w 0 3 = 0 then
      .ok (.feq (regAt w 21) (regAt w 16) (regAt w 11) (Prec.fromCode (fld w 5 1)))
    else .error .reservedField
    | 1 => if fld w 0 3 = 0 then
      .ok (.flt (regAt w 21) (regAt w 16) (regAt w 11) (Prec.fromCode (fld w 5 1)))
    else .error .reservedField
    | 2 => if fld w 0 3 = 0 then
      .ok (.fle (regAt w 21) (regAt w 16) (regAt w 11) (Prec.fromCode (fld w 5 1)))
    else .error .reservedField
    | _ => if fld w 0 3 = 0 ∧ fld w 11 5 = 0 then
      .ok (.fclass (regAt w 21) (regAt w 16) (Prec.fromCode (fld w 5 1)))
    else .error .reservedField
  else match fld w 3 8 with
  | 0 => if fld w 11 5 = 0 then
      (Rnd.fromCode? (fld w 0 3)).elim (.error .roundField) fun rnd => .ok (.fdtos (regAt w 21) (regAt w 16) rnd)
    else .error .reservedField
  | 1 => if fld w 0 3 = 0 ∧ fld w 11 5 = 0 then
      .ok (.fstod (regAt w 21) (regAt w 16))
    else .error .reservedField
  | 2 => if fld w 11 5 = 0 then
      (Rnd.fromCode? (fld w 0 3)).elim (.error .roundField) fun rnd => .ok (.fstoh (regAt w 21) (regAt w 16) rnd)
    else .error .reservedField
  | 3 => if fld w 0 3 = 0 ∧ fld w 11 5 = 0 then
      .ok (.fhtos (regAt w 21) (regAt w 16))
    else .error .reservedField
  | 4 => if fld w 11 5 = 0 then
      (Rnd.fromCode? (fld w 0 3)).elim (.error .roundField) fun rnd => .ok (.fstob (regAt w 21) (regAt w 16) rnd)
    else .error .reservedField
  | 5 => if fld w 0 3 = 0 ∧ fld w 11 5 = 0 then
      .ok (.fbtos (regAt w 21) (regAt w 16))
    else .error .reservedField
  | 24 => if fld w 0 3 = 0 ∧ fld w 11 5 = 0 then
      .ok (.fmvgf (regAt w 21) (regAt w 16))
    else .error .reservedField
  | 25 => if fld w 0 3 = 0 ∧ fld w 11 5 = 0 then
      .ok (.fmvfg (regAt w 21) (regAt w 16))
    else .error .reservedField
  | _ => .error .reservedOp

/-- Words of major 0x29, SYS (R112). -/
def decodeSys (w : Nat) : Except Reject High :=
  match fld w 12 4 with
  | 0 => if fld w 0 12 = 0 ∧ fld w 16 10 = 0 then
      .ok .nop
    else .error .reservedField
  | 1 => if fld w 16 5 = 0 then
      .ok (.srr (regAt w 21) (BitVec.ofNat 12 (fld w 0 12)))
    else .error .reservedField
  | 2 => if fld w 21 5 = 0 then
      .ok (.srw (regAt w 16) (BitVec.ofNat 12 (fld w 0 12)))
    else .error .reservedField
  | 3 => if fld w 16 10 = 0 then
      .ok (.trap (BitVec.ofNat 12 (fld w 0 12)))
    else .error .reservedField
  | 4 => if fld w 16 10 = 0 then
      .ok (.brk (BitVec.ofNat 12 (fld w 0 12)))
    else .error .reservedField
  | 5 => if fld w 0 12 = 0 ∧ fld w 16 10 = 0 then
      .ok .rte
    else .error .reservedField
  | _ => .error .reservedOp

/-- Words of major 0x2A, CTX (R129). -/
def decodeCtx (w : Nat) : Except Reject High :=
  match fld w 6 5 with
  | 0 => if fld w 0 6 = 0 then
      .ok (.hstart (regAt w 21) (regAt w 16) (regAt w 11))
    else .error .reservedField
  | 1 => if fld w 0 6 = 0 ∧ fld w 11 5 = 0 ∧ fld w 21 5 = 0 then
      .ok (.hexit (regAt w 16))
    else .error .reservedField
  | 2 => if fld w 0 6 = 0 ∧ fld w 11 5 = 0 then
      .ok (.hjoin (regAt w 21) (regAt w 16))
    else .error .reservedField
  | 3 => if fld w 0 6 = 0 then
      .ok (.waitm (regAt w 21) (regAt w 16) (regAt w 11))
    else .error .reservedField
  | 4 => if fld w 0 6 = 0 ∧ fld w 11 15 = 0 then
      .ok .yield
    else .error .reservedField
  | 5 => if fld w 0 6 = 0 ∧ fld w 11 15 = 0 then
      .ok .yieldu
    else .error .reservedField
  | _ => .error .reservedOp

/-- Words of major 0x2B, SYNC (R250). -/
def decodeSync (w : Nat) : Except Reject Instr :=
  match fld w 8 4 with
  | 0 => if fld w 0 4 = 0 ∧ fld w 7 1 = 0 ∧ fld w 16 5 = 0 then
      .ok (.barcfg (regAt w 21) (lookAt w 12) (Fin.ofNat 8 (fld w 4 3)))
    else .error .reservedField
  | 1 => if fld w 0 4 = 0 ∧ fld w 7 1 = 0 ∧ fld w 16 10 = 0 then
      .ok (.bararv (lookAt w 12) (Fin.ofNat 8 (fld w 4 3)))
    else .error .reservedField
  | 2 => if fld w 0 4 = 0 ∧ fld w 7 1 = 0 ∧ fld w 16 10 = 0 then
      .ok (.barwt (lookAt w 12) (Fin.ofNat 8 (fld w 4 3)))
    else .error .reservedField
  | 3 => if fld w 0 4 = 0 ∧ fld w 16 5 = 0 then
      .ok (.armc (regAt w 21) (lookAt w 12) (Fin.ofNat 16 (fld w 4 4)))
    else .error .reservedField
  | 4 => if fld w 0 4 = 0 ∧ fld w 16 10 = 0 then
      .ok (.waitc (lookAt w 12) (Fin.ofNat 16 (fld w 4 4)))
    else .error .reservedField
  | _ => .error .reservedOp

/-- Words of major 0x2C, TAG (R150). -/
def decodeTag (w : Nat) : Except Reject Instr :=
  match fld w 8 3 with
  | 0 => if fld w 0 4 = 0 ∧ fld w 7 1 = 0 ∧ fld w 11 5 = 0 then
      .ok (.tglk (regAt w 21) (regAt w 16) (Fin.ofNat 8 (fld w 4 3)))
    else .error .reservedField
  | 1 => if fld w 0 2 = 0 ∧ fld w 7 1 = 0 ∧ fld w 21 5 = 0 then
      .ok (.tgset (regAt w 16) (regAt w 11) (Fin.ofNat 8 (fld w 4 3)) (Fin.ofNat 4 (fld w 2 2)))
    else .error .reservedField
  | 2 => if fld w 0 4 = 0 ∧ fld w 7 1 = 0 ∧ fld w 11 5 = 0 then
      .ok (.tginv (regAt w 21) (regAt w 16) (Fin.ofNat 8 (fld w 4 3)))
    else .error .reservedField
  | 3 => if fld w 0 1 = 0 ∧ fld w 2 6 = 0 ∧ fld w 11 5 = 0 then
      .ok (.tgrd (regAt w 21) (regAt w 16) (bitAt w 1))
    else .error .reservedField
  | 4 => if fld w 0 8 = 0 ∧ fld w 11 15 = 0 then
      .ok .tgclr
    else .error .reservedField
  | _ => .error .reservedOp

/-- Words of major 0x2D, TILE (R160). -/
def decodeTile (w : Nat) : Except Reject Instr :=
  match fld w 8 4 with
  | 0 => if fld w 6 2 = 0 then
      .ok (.tbdef (regAt w 21) (regAt w 16) (lookAt w 12) (Fin.ofNat 64 (fld w 0 6)))
    else .error .reservedField
  | 1 => if fld w 6 2 = 0 ∧ fld w 16 10 = 0 then
      .ok (.tbst (lookAt w 12) (Fin.ofNat 64 (fld w 0 6)))
    else .error .reservedField
  | 2 => if fld w 6 2 = 0 ∧ fld w 16 10 = 0 then
      .ok (.tbfree (lookAt w 12) (Fin.ofNat 64 (fld w 0 6)))
    else .error .reservedField
  | 3 => if fld w 16 10 = 0 then
      .ok (.tbwait (lookAt w 12) (TileSt.fromCode (fld w 6 2)) (Fin.ofNat 64 (fld w 0 6)))
    else .error .reservedField
  | 4 => if fld w 6 2 = 0 ∧ fld w 16 10 = 0 then
      .ok (.publ (lookAt w 12) (Fin.ofNat 64 (fld w 0 6)))
    else .error .reservedField
  | _ => .error .reservedOp

/-- Words of major 0x2E, VEC (R195). -/
def decodeVec (w : Nat) : Except Reject Instr :=
  match fld w 7 5 with
  | 0 => if fld w 16 10 = 0 then
      (Rnd.fromCode? (fld w 0 3)).elim (.error .roundField) fun rnd => .ok (.vcvt (lookAt w 12) (Fin.ofNat 4 (fld w 5 2)) (Fin.ofNat 4 (fld w 3 2)) rnd)
    else .error .reservedField
  | 1 => if fld w 21 5 = 0 then
      (Rnd.fromCode? (fld w 0 3)).elim (.error .roundField) fun rnd => .ok (.vadd (regAt w 16) (lookAt w 12) (Fin.ofNat 4 (fld w 5 2)) (Fin.ofNat 4 (fld w 3 2)) rnd)
    else .error .reservedField
  | 2 => if fld w 21 5 = 0 then
      (Rnd.fromCode? (fld w 0 3)).elim (.error .roundField) fun rnd => .ok (.vsub (regAt w 16) (lookAt w 12) (Fin.ofNat 4 (fld w 5 2)) (Fin.ofNat 4 (fld w 3 2)) rnd)
    else .error .reservedField
  | 3 => if fld w 21 5 = 0 then
      (Rnd.fromCode? (fld w 0 3)).elim (.error .roundField) fun rnd => .ok (.vmul (regAt w 16) (lookAt w 12) (Fin.ofNat 4 (fld w 5 2)) (Fin.ofNat 4 (fld w 3 2)) rnd)
    else .error .reservedField
  | 4 => (Rnd.fromCode? (fld w 0 3)).elim (.error .roundField) fun rnd => .ok (.vfma (regAt w 21) (regAt w 16) (lookAt w 12) (Fin.ofNat 4 (fld w 5 2)) (Fin.ofNat 4 (fld w 3 2)) rnd)
  | 5 => if fld w 21 5 = 0 then
      (Rnd.fromCode? (fld w 0 3)).elim (.error .roundField) fun rnd => .ok (.vmax (regAt w 16) (lookAt w 12) (Fin.ofNat 4 (fld w 5 2)) (Fin.ofNat 4 (fld w 3 2)) rnd)
    else .error .reservedField
  | 6 => if fld w 21 5 = 0 then
      (Rnd.fromCode? (fld w 0 3)).elim (.error .roundField) fun rnd => .ok (.vmin (regAt w 16) (lookAt w 12) (Fin.ofNat 4 (fld w 5 2)) (Fin.ofNat 4 (fld w 3 2)) rnd)
    else .error .reservedField
  | 7 => if fld w 21 5 = 0 then
      (Rnd.fromCode? (fld w 0 3)).elim (.error .roundField) fun rnd => .ok (.vceq (regAt w 16) (lookAt w 12) (Fin.ofNat 4 (fld w 5 2)) (Fin.ofNat 4 (fld w 3 2)) rnd)
    else .error .reservedField
  | 8 => if fld w 21 5 = 0 then
      (Rnd.fromCode? (fld w 0 3)).elim (.error .roundField) fun rnd => .ok (.vclt (regAt w 16) (lookAt w 12) (Fin.ofNat 4 (fld w 5 2)) (Fin.ofNat 4 (fld w 3 2)) rnd)
    else .error .reservedField
  | 9 => if fld w 21 5 = 0 then
      (Rnd.fromCode? (fld w 0 3)).elim (.error .roundField) fun rnd => .ok (.vcle (regAt w 16) (lookAt w 12) (Fin.ofNat 4 (fld w 5 2)) (Fin.ofNat 4 (fld w 3 2)) rnd)
    else .error .reservedField
  | 10 => (Rnd.fromCode? (fld w 0 3)).elim (.error .roundField) fun rnd => .ok (.vsel (regAt w 21) (regAt w 16) (lookAt w 12) (Fin.ofNat 4 (fld w 5 2)) (Fin.ofNat 4 (fld w 3 2)) rnd)
  | 11 => if fld w 16 5 = 0 then
      (Rnd.fromCode? (fld w 0 3)).elim (.error .roundField) fun rnd => .ok (.vscale (regAt w 21) (lookAt w 12) (Fin.ofNat 4 (fld w 5 2)) (Fin.ofNat 4 (fld w 3 2)) rnd)
    else .error .reservedField
  | _ => .error .reservedOp

/-- Words of major 0x2F, VCF (R206). -/
def decodeVcf (w : Nat) : Except Reject Instr :=
  match fld w 8 4 with
  | 0 => if fld w 0 6 = 0 then
      .ok (.vsbase (regAt w 21) (regAt w 16) (lookAt w 12) (Fin.ofNat 4 (fld w 6 2)))
    else .error .reservedField
  | 1 => if fld w 0 4 = 0 then
      .ok (.vsdim (regAt w 21) (regAt w 16) (lookAt w 12) (Fin.ofNat 4 (fld w 6 2)) (Fin.ofNat 4 (fld w 4 2)))
    else .error .reservedField
  | 2 => if fld w 0 6 = 0 ∧ fld w 16 10 = 0 then
      .ok (.vson (lookAt w 12) (Fin.ofNat 4 (fld w 6 2)))
    else .error .reservedField
  | 3 => if fld w 0 6 = 0 ∧ fld w 16 10 = 0 then
      .ok (.vsoff (lookAt w 12) (Fin.ofNat 4 (fld w 6 2)))
    else .error .reservedField
  | 4 => if fld w 0 8 = 0 ∧ fld w 16 5 = 0 then
      .ok (.vsetvl (regAt w 21) (lookAt w 12))
    else .error .reservedField
  | 5 => if fld w 0 8 = 0 ∧ fld w 16 10 = 0 then
      .ok (.vwait (lookAt w 12))
    else .error .reservedField
  | _ => .error .reservedOp

/-- Words of major 0x30, MAT (R226). -/
def decodeMat (w : Nat) : Except Reject Instr :=
  match fld w 8 4 with
  | 0 => if fld w 0 4 = 0 ∧ fld w 16 10 = 0 then
      .ok (.mclr (lookAt w 12) (Fin.ofNat 4 (fld w 6 2)) (Fin.ofNat 4 (fld w 4 2)))
    else .error .reservedField
  | 1 => if fld w 0 4 = 0 then
      .ok (.mmaw (regAt w 21) (regAt w 16) (lookAt w 12) (Fin.ofNat 4 (fld w 6 2)) (Fin.ofNat 4 (fld w 4 2)))
    else .error .reservedField
  | 2 => if fld w 0 4 = 0 then
      .ok (.mmah (regAt w 21) (regAt w 16) (lookAt w 12) (Fin.ofNat 4 (fld w 6 2)) (Fin.ofNat 4 (fld w 4 2)))
    else .error .reservedField
  | 3 => if fld w 0 4 = 0 then
      .ok (.mmae (regAt w 21) (regAt w 16) (lookAt w 12) (Fin.ofNat 4 (fld w 6 2)) (Fin.ofNat 4 (fld w 4 2)))
    else .error .reservedField
  | 4 => if fld w 0 4 = 0 then
      .ok (.mmai (regAt w 21) (regAt w 16) (lookAt w 12) (Fin.ofNat 4 (fld w 6 2)) (Fin.ofNat 4 (fld w 4 2)))
    else .error .reservedField
  | 5 => if fld w 0 4 = 0 then
      .ok (.mmas (regAt w 21) (regAt w 16) (lookAt w 12) (Fin.ofNat 4 (fld w 6 2)) (Fin.ofNat 4 (fld w 4 2)))
    else .error .reservedField
  | 6 => if fld w 0 4 = 0 then
      .ok (.mmaq (regAt w 21) (regAt w 16) (lookAt w 12) (Fin.ofNat 4 (fld w 6 2)) (Fin.ofNat 4 (fld w 4 2)))
    else .error .reservedField
  | 7 => if fld w 3 1 = 0 then
      (Rnd.fromCode? (fld w 0 3)).elim (.error .roundField) fun rnd => .ok (.mrd (regAt w 21) (regAt w 16) (lookAt w 12) (Fin.ofNat 4 (fld w 6 2)) (Fin.ofNat 4 (fld w 4 2)) rnd)
    else .error .reservedField
  | 8 => if fld w 0 6 = 0 then
      .ok (.mld (regAt w 21) (regAt w 16) (lookAt w 12) (Fin.ofNat 4 (fld w 6 2)))
    else .error .reservedField
  | 9 => if fld w 0 6 = 0 then
      .ok (.mst (regAt w 21) (regAt w 16) (lookAt w 12) (Fin.ofNat 4 (fld w 6 2)))
    else .error .reservedField
  | 10 => if fld w 0 4 = 0 ∧ fld w 16 10 = 0 then
      .ok (.mwait (lookAt w 12) (Fin.ofNat 16 (fld w 4 4)))
    else .error .reservedField
  | _ => .error .reservedOp

/-- Words of major 0x31, MCF (R215). -/
def decodeMcf (w : Nat) : Except Reject Instr :=
  match fld w 8 4 with
  | 0 => if fld w 0 4 = 0 ∧ fld w 16 5 = 0 then
      .ok (.mcfg (regAt w 21) (lookAt w 12) (Fin.ofNat 16 (fld w 4 4)))
    else .error .reservedField
  | _ => .error .reservedOp

/-- Words of major 0x32, CPY (R237). -/
def decodeCpy (w : Nat) : Except Reject Instr :=
  match fld w 8 4 with
  | 0 => if fld w 0 8 = 0 then
      .ok (.cshape (regAt w 21) (regAt w 16) (lookAt w 12))
    else .error .reservedField
  | 1 => if fld w 0 3 = 0 then
      .ok (.chl (regAt w 21) (regAt w 16) (lookAt w 12) (Fin.ofNat 16 (fld w 4 4)) (bitAt w 3))
    else .error .reservedField
  | 2 => if fld w 0 3 = 0 then
      .ok (.clh (regAt w 21) (regAt w 16) (lookAt w 12) (Fin.ofNat 16 (fld w 4 4)) (bitAt w 3))
    else .error .reservedField
  | 3 => (Rnd.fromCode? (fld w 0 3)).elim (.error .roundField) fun rnd => .ok (.cbb (regAt w 21) (regAt w 16) (lookAt w 12) (Fin.ofNat 16 (fld w 4 4)) (bitAt w 3) rnd)
  | 4 => (Rnd.fromCode? (fld w 0 3)).elim (.error .roundField) fun rnd => .ok (.cmc (regAt w 21) (regAt w 16) (lookAt w 12) (Fin.ofNat 16 (fld w 4 4)) (bitAt w 3) rnd)
  | 5 => if fld w 0 8 = 0 then
      .ok (.cidx (regAt w 21) (regAt w 16) (lookAt w 12))
    else .error .reservedField
  | 6 => if fld w 0 3 = 0 then
      .ok (.cgath (regAt w 21) (regAt w 16) (lookAt w 12) (Fin.ofNat 16 (fld w 4 4)) (bitAt w 3))
    else .error .reservedField
  | 7 => if fld w 0 3 = 0 then
      .ok (.cscat (regAt w 21) (regAt w 16) (lookAt w 12) (Fin.ofNat 16 (fld w 4 4)) (bitAt w 3))
    else .error .reservedField
  | 8 => if fld w 0 8 = 0 ∧ fld w 16 10 = 0 then
      .ok (.cwait (lookAt w 12))
    else .error .reservedField
  | _ => .error .reservedOp

/-- Words of major 0x33, QRN (R261). -/
def decodeQrn (w : Nat) : Except Reject Instr :=
  match fld w 8 4 with
  | 0 => if fld w 0 8 = 0 then
      .ok (.qld (regAt w 21) (regAt w 16) (lookAt w 12))
    else .error .reservedField
  | 1 => if fld w 0 8 = 0 then
      .ok (.qscr (regAt w 21) (regAt w 16) (lookAt w 12))
    else .error .reservedField
  | 2 => if fld w 3 4 = 0 then
      (Rnd.fromCode? (fld w 0 3)).elim (.error .roundField) fun rnd => .ok (.qpt (regAt w 21) (regAt w 16) (lookAt w 12) (bitAt w 7) rnd)
    else .error .reservedField
  | 3 => if fld w 3 2 = 0 then
      (Rnd.fromCode? (fld w 0 3)).elim (.error .roundField) fun rnd => .ok (.qseq (regAt w 21) (regAt w 16) (lookAt w 12) (bitAt w 7) (Fin.ofNat 4 (fld w 5 2)) rnd)
    else .error .reservedField
  | 4 => if fld w 0 8 = 0 ∧ fld w 16 5 = 0 then
      .ok (.qskip (regAt w 21) (lookAt w 12))
    else .error .reservedField
  | 5 => if fld w 0 8 = 0 ∧ fld w 16 10 = 0 then
      .ok (.qwait (lookAt w 12))
    else .error .reservedField
  | _ => .error .reservedOp

/-- Words of major 0x34, OBS (R361). -/
def decodeObs (w : Nat) : Except Reject Instr :=
  match fld w 8 4 with
  | 0 => if fld w 0 6 = 0 ∧ fld w 16 5 = 0 then
      .ok (.objoin (regAt w 21) (lookAt w 12) (Fin.ofNat 4 (fld w 6 2)))
    else .error .reservedField
  | 1 => if fld w 0 6 = 0 then
      .ok (.obmax (regAt w 21) (regAt w 16) (lookAt w 12) (Fin.ofNat 4 (fld w 6 2)))
    else .error .reservedField
  | 2 => if fld w 3 3 = 0 then
      (Rnd.fromCode? (fld w 0 3)).elim (.error .roundField) fun rnd => .ok (.obred (regAt w 21) (regAt w 16) (lookAt w 12) (Fin.ofNat 4 (fld w 6 2)) rnd)
    else .error .reservedField
  | 3 => if fld w 0 6 = 0 ∧ fld w 16 5 = 0 then
      .ok (.obstat (regAt w 21) (lookAt w 12) (Fin.ofNat 4 (fld w 6 2)))
    else .error .reservedField
  | 4 => if fld w 0 6 = 0 ∧ fld w 16 10 = 0 then
      .ok (.obleave (lookAt w 12) (Fin.ofNat 4 (fld w 6 2)))
    else .error .reservedField
  | 5 => if fld w 0 8 = 0 ∧ fld w 16 5 = 0 then
      .ok (.obcal (regAt w 21) (lookAt w 12))
    else .error .reservedField
  | 6 => if fld w 0 8 = 0 ∧ fld w 16 10 = 0 then
      .ok (.obwait (lookAt w 12))
    else .error .reservedField
  | _ => .error .reservedOp

/-- Words of major 0x35, COL (R400). -/
def decodeCol (w : Nat) : Except Reject Instr :=
  match fld w 8 4 with
  | 0 => if fld w 0 8 = 0 ∧ fld w 16 5 = 0 then
      .ok (.colq (regAt w 21) (lookAt w 12))
    else .error .reservedField
  | 1 => if fld w 0 8 = 0 then
      .ok (.colput (regAt w 21) (regAt w 16) (lookAt w 12))
    else .error .reservedField
  | 2 => if fld w 0 8 = 0 ∧ fld w 16 5 = 0 then
      .ok (.colgo (regAt w 21) (lookAt w 12))
    else .error .reservedField
  | 3 => if fld w 0 8 = 0 then
      .ok (.colwt (regAt w 21) (regAt w 16) (lookAt w 12))
    else .error .reservedField
  | 4 => if fld w 0 8 = 0 then
      .ok (.colcan (regAt w 21) (regAt w 16) (lookAt w 12))
    else .error .reservedField
  | 5 => if fld w 0 8 = 0 ∧ fld w 16 10 = 0 then
      .ok (.colsync (lookAt w 12))
    else .error .reservedField
  | _ => .error .reservedOp

/-- Words of major 0x36, GRF (R344). -/
def decodeGrf (w : Nat) : Except Reject Instr :=
  match fld w 8 4 with
  | 0 => if fld w 0 8 = 0 then
      .ok (.gnode (regAt w 21) (regAt w 16) (lookAt w 12))
    else .error .reservedField
  | 1 => if fld w 1 7 = 0 then
      .ok (.gedge (regAt w 21) (regAt w 16) (lookAt w 12) (bitAt w 0))
    else .error .reservedField
  | 2 => if fld w 1 7 = 0 then
      .ok (.grun (regAt w 21) (regAt w 16) (lookAt w 12) (bitAt w 0))
    else .error .reservedField
  | 3 => if fld w 0 8 = 0 ∧ fld w 16 5 = 0 then
      .ok (.launch (regAt w 21) (lookAt w 12))
    else .error .reservedField
  | 4 =>
    match fld w 0 2 with
    | 0 => if fld w 3 5 = 0 then
      .ok (.shapeAdd (regAt w 21) (regAt w 16) (lookAt w 12) (bitAt w 2))
    else .error .reservedField
    | 1 => if fld w 3 5 = 0 then
      .ok (.shapeSet (regAt w 21) (regAt w 16) (lookAt w 12) (bitAt w 2))
    else .error .reservedField
    | 2 => if fld w 2 6 = 0 then
      .ok (.shapeRead (regAt w 21) (regAt w 16) (lookAt w 12))
    else .error .reservedField
    | _ => .error .reservedCode
  | 5 => if fld w 0 8 = 0 then
      .ok (.confirm (regAt w 21) (regAt w 16) (lookAt w 12))
    else .error .reservedField
  | 6 => if fld w 3 5 = 0 ∧ fld w 16 5 = 0 then
      (CLevel.fromCode? (fld w 0 3)).elim (.error .reservedCode) fun level => .ok (.cancel (regAt w 21) (lookAt w 12) level)
    else .error .reservedField
  | 7 => if fld w 4 4 = 0 ∧ fld w 16 5 = 0 then
      (CLevel.fromCode? (fld w 0 3)).elim (.error .reservedCode) fun level => .ok (.compl (regAt w 21) (lookAt w 12) (bitAt w 3) level)
    else .error .reservedField
  | 8 => if fld w 0 8 = 0 ∧ fld w 16 10 = 0 then
      .ok (.grfwait (lookAt w 12))
    else .error .reservedField
  | _ => .error .reservedOp

/-- Words of major 0x37, VIR (R302). -/
def decodeVir (w : Nat) : Except Reject Instr :=
  match fld w 4 8 with
  | 0 => if fld w 0 4 = 0 then
      .ok (.ctxnew (regAt w 21) (regAt w 16) (lookAt w 12))
    else .error .reservedField
  | 16 => if fld w 0 4 = 0 then
      .ok (.grantCores (regAt w 21) (regAt w 16) (lookAt w 12))
    else .error .reservedField
  | 17 => if fld w 0 4 = 0 then
      .ok (.grantMem (regAt w 21) (regAt w 16) (lookAt w 12))
    else .error .reservedField
  | 18 => if fld w 0 4 = 0 then
      .ok (.grantPages (regAt w 21) (regAt w 16) (lookAt w 12))
    else .error .reservedField
  | 19 => if fld w 0 4 = 0 then
      .ok (.grantQueues (regAt w 21) (regAt w 16) (lookAt w 12))
    else .error .reservedField
  | 20 => if fld w 0 4 = 0 then
      .ok (.grantCells (regAt w 21) (regAt w 16) (lookAt w 12))
    else .error .reservedField
  | 21 => if fld w 0 4 = 0 then
      .ok (.grantVf (regAt w 21) (regAt w 16) (lookAt w 12))
    else .error .reservedField
  | 32 => if fld w 0 4 = 0 then
      .ok (.revokeCores (regAt w 21) (regAt w 16) (lookAt w 12))
    else .error .reservedField
  | 33 => if fld w 0 4 = 0 then
      .ok (.revokeMem (regAt w 21) (regAt w 16) (lookAt w 12))
    else .error .reservedField
  | 34 => if fld w 0 4 = 0 then
      .ok (.revokePages (regAt w 21) (regAt w 16) (lookAt w 12))
    else .error .reservedField
  | 35 => if fld w 0 4 = 0 then
      .ok (.revokeQueues (regAt w 21) (regAt w 16) (lookAt w 12))
    else .error .reservedField
  | 36 => if fld w 0 4 = 0 then
      .ok (.revokeCells (regAt w 21) (regAt w 16) (lookAt w 12))
    else .error .reservedField
  | 37 => if fld w 0 4 = 0 then
      .ok (.revokeVf (regAt w 21) (regAt w 16) (lookAt w 12))
    else .error .reservedField
  | 48 => if fld w 0 4 = 0 ∧ fld w 16 5 = 0 then
      .ok (.ctxdel (regAt w 21) (lookAt w 12))
    else .error .reservedField
  | 64 => if fld w 0 4 = 0 then
      .ok (.ctxbud (regAt w 21) (regAt w 16) (lookAt w 12))
    else .error .reservedField
  | 80 => if fld w 0 4 = 0 ∧ fld w 16 5 = 0 then
      .ok (.ctxstat (regAt w 21) (lookAt w 12))
    else .error .reservedField
  | 96 => if fld w 0 4 = 0 then
      .ok (.ctxenter (regAt w 21) (regAt w 16) (lookAt w 12))
    else .error .reservedField
  | 112 => if fld w 0 4 = 0 ∧ fld w 16 5 = 0 then
      .ok (.reflect (regAt w 21) (lookAt w 12))
    else .error .reservedField
  | 128 => if fld w 0 4 = 0 ∧ fld w 16 10 = 0 then
      .ok (.virwait (lookAt w 12))
    else .error .reservedField
  | _ => .error .reservedOp

/-- Words of major 0x38, PWR (R347). -/
def decodePwr (w : Nat) : Except Reject Instr :=
  match fld w 8 4 with
  | 0 => if fld w 0 8 = 0 ∧ fld w 16 5 = 0 then
      .ok (.eleave (regAt w 21) (lookAt w 12))
    else .error .reservedField
  | 1 => if fld w 0 8 = 0 then
      .ok (.ebud (regAt w 21) (regAt w 16) (lookAt w 12))
    else .error .reservedField
  | 2 => if fld w 0 8 = 0 ∧ fld w 16 5 = 0 then
      .ok (.eread (regAt w 21) (lookAt w 12))
    else .error .reservedField
  | 3 => if fld w 0 8 = 0 ∧ fld w 16 10 = 0 then
      .ok (.pwait (lookAt w 12))
    else .error .reservedField
  | _ => .error .reservedOp

/-- Words of major 0x3A, VEX (R198). -/
def decodeVex (w : Nat) : Except Reject Instr :=
  match fld w 7 5 with
  | 0 => if fld w 16 10 = 0 then
      (Rnd.fromCode? (fld w 0 3)).elim (.error .roundField) fun rnd => .ok (.vexp2 (lookAt w 12) (Fin.ofNat 4 (fld w 5 2)) (Fin.ofNat 4 (fld w 3 2)) rnd)
    else .error .reservedField
  | 1 => if fld w 16 10 = 0 then
      (Rnd.fromCode? (fld w 0 3)).elim (.error .roundField) fun rnd => .ok (.vlog2 (lookAt w 12) (Fin.ofNat 4 (fld w 5 2)) (Fin.ofNat 4 (fld w 3 2)) rnd)
    else .error .reservedField
  | 2 => if fld w 16 10 = 0 then
      (Rnd.fromCode? (fld w 0 3)).elim (.error .roundField) fun rnd => .ok (.vrcp (lookAt w 12) (Fin.ofNat 4 (fld w 5 2)) (Fin.ofNat 4 (fld w 3 2)) rnd)
    else .error .reservedField
  | 3 => if fld w 16 10 = 0 then
      (Rnd.fromCode? (fld w 0 3)).elim (.error .roundField) fun rnd => .ok (.vrsq (lookAt w 12) (Fin.ofNat 4 (fld w 5 2)) (Fin.ofNat 4 (fld w 3 2)) rnd)
    else .error .reservedField
  | 4 => if fld w 16 10 = 0 then
      (Rnd.fromCode? (fld w 0 3)).elim (.error .roundField) fun rnd => .ok (.vsumx (lookAt w 12) (Fin.ofNat 4 (fld w 5 2)) (Fin.ofNat 4 (fld w 3 2)) rnd)
    else .error .reservedField
  | 5 => if fld w 21 5 = 0 then
      (Rnd.fromCode? (fld w 0 3)).elim (.error .roundField) fun rnd => .ok (.vdotx (regAt w 16) (lookAt w 12) (Fin.ofNat 4 (fld w 5 2)) (Fin.ofNat 4 (fld w 3 2)) rnd)
    else .error .reservedField
  | 6 => if fld w 3 2 = 0 ∧ fld w 16 5 = 0 then
      (Rnd.fromCode? (fld w 0 3)).elim (.error .roundField) fun rnd => .ok (.vrdq (regAt w 21) (lookAt w 12) (Fin.ofNat 4 (fld w 5 2)) rnd)
    else .error .reservedField
  | 7 => if fld w 3 2 = 0 ∧ fld w 16 10 = 0 then
      (Rnd.fromCode? (fld w 0 3)).elim (.error .roundField) fun rnd => .ok (.vclrq (lookAt w 12) (Fin.ofNat 4 (fld w 5 2)) rnd)
    else .error .reservedField
  | 8 => if fld w 5 2 = 0 ∧ fld w 16 5 = 0 then
      (Rnd.fromCode? (fld w 0 3)).elim (.error .roundField) fun rnd => .ok (.vmaxr (regAt w 21) (lookAt w 12) (Fin.ofNat 4 (fld w 3 2)) rnd)
    else .error .reservedField
  | 9 => if fld w 3 4 = 0 then
      (Rnd.fromCode? (fld w 0 3)).elim (.error .roundField) fun rnd => .ok (.vmaxx (regAt w 21) (regAt w 16) (lookAt w 12) rnd)
    else .error .reservedField
  | 10 => if fld w 21 5 = 0 then
      (Rnd.fromCode? (fld w 0 3)).elim (.error .roundField) fun rnd => .ok (.vqnt (regAt w 16) (lookAt w 12) (Fin.ofNat 4 (fld w 5 2)) (Fin.ofNat 4 (fld w 3 2)) rnd)
    else .error .reservedField
  | _ => .error .reservedOp

/-- The majors 0x23–0x2A. -/
def decodeHigh (w : Nat) : Except Reject High :=
  match fld w 26 6 with
  | 35 => .ok (.j (BitVec.ofNat 26 (fld w 0 26)))
  | 36 => .ok (.jal (BitVec.ofNat 26 (fld w 0 26)))
  | 37 => decodeJr w
  | 38 => decodeLoop w
  | 39 => decodeFpu w
  | 40 => decodeFcv w
  | 41 => decodeSys w
  | 42 => decodeCtx w
  | _ => .error .illegalMajor

/-- The other majors. -/
def decodeLow (w : Nat) : Except Reject Instr :=
  match fld w 26 6 with
  | 1 => decodeAlu w
  | 2 => .ok (.addi (regAt w 21) (regAt w 16) (BitVec.ofNat 16 (fld w 0 16)))
  | 3 => .ok (.andi (regAt w 21) (regAt w 16) (BitVec.ofNat 16 (fld w 0 16)))
  | 4 => .ok (.ori (regAt w 21) (regAt w 16) (BitVec.ofNat 16 (fld w 0 16)))
  | 5 => .ok (.xori (regAt w 21) (regAt w 16) (BitVec.ofNat 16 (fld w 0 16)))
  | 6 => .ok (.slti (regAt w 21) (regAt w 16) (BitVec.ofNat 16 (fld w 0 16)))
  | 7 => .ok (.sltzi (regAt w 21) (regAt w 16) (BitVec.ofNat 16 (fld w 0 16)))
  | 8 => decodeShi w
  | 9 => .ok (.li (regAt w 21) (BitVec.ofNat 21 (fld w 0 21)))
  | 10 => .ok (.lsi (regAt w 21) (BitVec.ofNat 21 (fld w 0 21)))
  | 11 => decodePal w
  | 12 => decodeBit w
  | 13 => .ok (.lb (regAt w 21) (regAt w 16) (BitVec.ofNat 12 (fld w 4 12)) (lookAt w 0))
  | 14 => .ok (.lbz (regAt w 21) (regAt w 16) (BitVec.ofNat 12 (fld w 4 12)) (lookAt w 0))
  | 15 => .ok (.lh (regAt w 21) (regAt w 16) (BitVec.ofNat 12 (fld w 4 12)) (lookAt w 0))
  | 16 => .ok (.lhz (regAt w 21) (regAt w 16) (BitVec.ofNat 12 (fld w 4 12)) (lookAt w 0))
  | 17 => .ok (.lw (regAt w 21) (regAt w 16) (BitVec.ofNat 12 (fld w 4 12)) (lookAt w 0))
  | 18 => .ok (.lwz (regAt w 21) (regAt w 16) (BitVec.ofNat 12 (fld w 4 12)) (lookAt w 0))
  | 19 => .ok (.ld (regAt w 21) (regAt w 16) (BitVec.ofNat 12 (fld w 4 12)) (lookAt w 0))
  | 20 => .ok (.sb (regAt w 21) (regAt w 16) (BitVec.ofNat 12 (fld w 4 12)) (lookAt w 0))
  | 21 => .ok (.sh (regAt w 21) (regAt w 16) (BitVec.ofNat 12 (fld w 4 12)) (lookAt w 0))
  | 22 => .ok (.sw (regAt w 21) (regAt w 16) (BitVec.ofNat 12 (fld w 4 12)) (lookAt w 0))
  | 23 => .ok (.sd (regAt w 21) (regAt w 16) (BitVec.ofNat 12 (fld w 4 12)) (lookAt w 0))
  | 24 => .ok (.flw (regAt w 21) (regAt w 16) (BitVec.ofNat 12 (fld w 4 12)) (lookAt w 0))
  | 25 => .ok (.fld (regAt w 21) (regAt w 16) (BitVec.ofNat 12 (fld w 4 12)) (lookAt w 0))
  | 26 => .ok (.fsw (regAt w 21) (regAt w 16) (BitVec.ofNat 12 (fld w 4 12)) (lookAt w 0))
  | 27 => .ok (.fsd (regAt w 21) (regAt w 16) (BitVec.ofNat 12 (fld w 4 12)) (lookAt w 0))
  | 28 => if fld w 8 1 = 0 then
      (Scope.fromCode? (fld w 4 3)).elim (.error .scopeField) fun scope => .ok (.ldo (regAt w 21) (regAt w 16) (regAt w 11) (Fin.ofNat 4 (fld w 9 2)) (bitAt w 7) scope (lookAt w 0))
    else .error .reservedField
  | 29 => if fld w 7 1 = 0 then
      (Scope.fromCode? (fld w 4 3)).elim (.error .scopeField) fun scope => .ok (.sto (regAt w 21) (regAt w 16) (regAt w 11) (Fin.ofNat 4 (fld w 9 2)) (bitAt w 8) scope (lookAt w 0))
    else .error .reservedField
  | 30 => decodeAtw w
  | 31 => decodeAtd w
  | 32 => decodeAtx w
  | 33 => decodeFence w
  | 34 => decodeBr w
  | 43 => decodeSync w
  | 44 => decodeTag w
  | 45 => decodeTile w
  | 46 => decodeVec w
  | 47 => decodeVcf w
  | 48 => decodeMat w
  | 49 => decodeMcf w
  | 50 => decodeCpy w
  | 51 => decodeQrn w
  | 52 => decodeObs w
  | 53 => decodeCol w
  | 54 => decodeGrf w
  | 55 => decodeVir w
  | 56 => decodePwr w
  | 57 => if fld w 11 10 = 0 then
      .ok (.mfc (regAt w 21) (Fin.ofNat 16 (fld w 7 4)) (Fin.ofNat 128 (fld w 0 7)))
    else .error .reservedField
  | 58 => decodeVex w
  | _ => .error .illegalMajor

/-- The word has a major of 0x23–0x2A. -/
def isHigh (w : Nat) : Bool := decide (35 ≤ fld w 26 6) && decide (fld w 26 6 ≤ 42)

/-- The instruction that a word spells, before the checks on operand values that belong to the word. -/
noncomputable def decodeFields (w : Nat) : Except Reject Instr :=
  if isHigh w then (decodeHigh w).map High.toInstr else decodeLow w

/-- The decoder: an instruction word, or the name of its refusal (R58). -/
noncomputable def decodeWord (w : Nat) : Except Reject Instr :=
  if w < 2 ^ 32 then
    match decodeFields w with
    | .ok i => match i.check with | none => .ok i | some r => .error r
    | .error r => .error r
  else .error .notOneWord

/-- What the decoder that runs a program answers. -/
inductive Decoded where
  | low (i : Instr)
  | high (i : High)

/-- The row of the opcode table. -/
noncomputable def Decoded.toInstr : Decoded → Instr
  | .low i => i
  | .high i => i.toInstr

/-- The decoder that runs a program: `decodeWord` in the form that compiled code can build. -/
def decodeRun (w : Nat) : Except Reject Decoded :=
  if w < 2 ^ 32 then
    if isHigh w then
      match decodeHigh w with
      | .ok i => match i.check with | none => .ok (.high i) | some r => .error r
      | .error r => .error r
    else
      match decodeLow w with
      | .ok i => match i.check with | none => .ok (.low i) | some r => .error r
      | .error r => .error r
  else .error .notOneWord

/-- The register fields of formats A, I, M, O, X, B and C, from the highest (R53). -/
def regs (d a b : Reg) : Nat := d.val * 2 ^ 21 + a.val * 2 ^ 16 + b.val * 2 ^ 11


/-- The words of the three-register integer majors (R88–R90). -/
def encodeAlu? : Instr → Option Nat
  | .add d a b => some (0x4000000 + regs d a b)
  | .sub d a b => some (0x4000010 + regs d a b)
  | .mul d a b => some (0x4000020 + regs d a b)
  | .mulh d a b => some (0x4000030 + regs d a b)
  | .mulhz d a b => some (0x4000040 + regs d a b)
  | .div d a b => some (0x4000050 + regs d a b)
  | .divz d a b => some (0x4000060 + regs d a b)
  | .rem d a b => some (0x4000070 + regs d a b)
  | .remz d a b => some (0x4000080 + regs d a b)
  | .and d a b => some (0x4000090 + regs d a b)
  | .or d a b => some (0x40000a0 + regs d a b)
  | .xor d a b => some (0x40000b0 + regs d a b)
  | .andn d a b => some (0x40000c0 + regs d a b)
  | .sll d a b => some (0x40000d0 + regs d a b)
  | .srl d a b => some (0x40000e0 + regs d a b)
  | .sra d a b => some (0x40000f0 + regs d a b)
  | .rol d a b => some (0x4000100 + regs d a b)
  | .ror d a b => some (0x4000110 + regs d a b)
  | .slt d a b => some (0x4000120 + regs d a b)
  | .sltz d a b => some (0x4000130 + regs d a b)
  | .min d a b => some (0x4000140 + regs d a b)
  | .max d a b => some (0x4000150 + regs d a b)
  | .minz d a b => some (0x4000160 + regs d a b)
  | .maxz d a b => some (0x4000170 + regs d a b)
  | .sel d a b => some (0x4000180 + regs d a b)
  | .clz d a => some (0x4000190 + regs d a 0)
  | .ctz d a => some (0x40001a0 + regs d a 0)
  | .ffs d a => some (0x40001b0 + regs d a 0)
  | .popc d a => some (0x40001c0 + regs d a 0)
  | .brev d a => some (0x40001d0 + regs d a 0)
  | .bswap d a => some (0x40001e0 + regs d a 0)
  | .addw d a b => some (0x4000200 + regs d a b)
  | .subw d a b => some (0x4000210 + regs d a b)
  | .mulw d a b => some (0x4000220 + regs d a b)
  | .divw d a b => some (0x4000250 + regs d a b)
  | .divwz d a b => some (0x4000260 + regs d a b)
  | .remw d a b => some (0x4000270 + regs d a b)
  | .remwz d a b => some (0x4000280 + regs d a b)
  | .sllw d a b => some (0x40002d0 + regs d a b)
  | .srlw d a b => some (0x40002e0 + regs d a b)
  | .sraw d a b => some (0x40002f0 + regs d a b)
  | .addi d a imm => some (0x8000000 + regs d a 0 + imm.toNat)
  | .andi d a imm => some (0xc000000 + regs d a 0 + imm.toNat)
  | .ori d a imm => some (0x10000000 + regs d a 0 + imm.toNat)
  | _ => none

/-- The words of the other integer majors (R90–R94). -/
def encodeScalar? : Instr → Option Nat
  | .xori d a imm => some (0x14000000 + regs d a 0 + imm.toNat)
  | .slti d a imm => some (0x18000000 + regs d a 0 + imm.toNat)
  | .sltzi d a imm => some (0x1c000000 + regs d a 0 + imm.toNat)
  | .slli d a amt => some (0x20000000 + regs d a 0 + amt.val)
  | .srli d a amt => some (0x20004000 + regs d a 0 + amt.val)
  | .srai d a amt => some (0x20008000 + regs d a 0 + amt.val)
  | .rori d a amt => some (0x2000c000 + regs d a 0 + amt.val)
  | .slliw d a amt => some (0x20002000 + regs d a 0 + amt.val)
  | .srliw d a amt => some (0x20006000 + regs d a 0 + amt.val)
  | .sraiw d a amt => some (0x2000a000 + regs d a 0 + amt.val)
  | .roriw d a amt => some (0x2000e000 + regs d a 0 + amt.val)
  | .li d imm => some (0x24000000 + regs d 0 0 + imm.toNat)
  | .lsi d imm => some (0x28000000 + regs d 0 0 + imm.toNat)
  | .padd d a b lane => some (0x2c000000 + regs d a b + lane.code * 2 ^ 2)
  | .psub d a b lane => some (0x2c000010 + regs d a b + lane.code * 2 ^ 2)
  | .padds d a b lane z => some (0x2c000020 + regs d a b + lane.code * 2 ^ 2 + z.toNat * 2 ^ 1)
  | .psubs d a b lane z => some (0x2c000030 + regs d a b + lane.code * 2 ^ 2 + z.toNat * 2 ^ 1)
  | .pmul d a b lane => some (0x2c000040 + regs d a b + lane.code * 2 ^ 2)
  | .pmulh d a b lane z => some (0x2c000050 + regs d a b + lane.code * 2 ^ 2 + z.toNat * 2 ^ 1)
  | .pdiv d a b lane z => some (0x2c000060 + regs d a b + lane.code * 2 ^ 2 + z.toNat * 2 ^ 1)
  | .prem d a b lane z => some (0x2c000070 + regs d a b + lane.code * 2 ^ 2 + z.toNat * 2 ^ 1)
  | .pmin d a b lane z => some (0x2c000080 + regs d a b + lane.code * 2 ^ 2 + z.toNat * 2 ^ 1)
  | .pmax d a b lane z => some (0x2c000090 + regs d a b + lane.code * 2 ^ 2 + z.toNat * 2 ^ 1)
  | .pceq d a b lane => some (0x2c0000a0 + regs d a b + lane.code * 2 ^ 2)
  | .pclt d a b lane z => some (0x2c0000b0 + regs d a b + lane.code * 2 ^ 2 + z.toNat * 2 ^ 1)
  | .psll d a b lane => some (0x2c0000c0 + regs d a b + lane.code * 2 ^ 2)
  | .psrl d a b lane => some (0x2c0000d0 + regs d a b + lane.code * 2 ^ 2)
  | .psra d a b lane => some (0x2c0000e0 + regs d a b + lane.code * 2 ^ 2)
  | .pclz d a lane => some (0x2c0000f0 + regs d a 0 + lane.code * 2 ^ 2)
  | .pctz d a lane => some (0x2c000100 + regs d a 0 + lane.code * 2 ^ 2)
  | .pffs d a lane => some (0x2c000110 + regs d a 0 + lane.code * 2 ^ 2)
  | .ppopc d a lane => some (0x2c000120 + regs d a 0 + lane.code * 2 ^ 2)
  | .bextz d a pos len => some (0x30000000 + regs d a 0 + pos.val + len.val % 32 * 2 ^ 11 + len.val / 32 * 2 ^ 6)
  | .bexti d a pos len => some (0x30000200 + regs d a 0 + pos.val + len.val % 32 * 2 ^ 11 + len.val / 32 * 2 ^ 6)
  | .bdep d a pos len => some (0x30000400 + regs d a 0 + pos.val + len.val % 32 * 2 ^ 11 + len.val / 32 * 2 ^ 6)
  | _ => none

/-- The words of the memory and control-flow majors (R113–R142, R179–R183). -/
def encodeMemory? : Instr → Option Nat
  | .lb d base imm look => some (0x34000000 + regs d base 0 + imm.toNat * 2 ^ 4 + look.val)
  | .lbz d base imm look => some (0x38000000 + regs d base 0 + imm.toNat * 2 ^ 4 + look.val)
  | .lh d base imm look => some (0x3c000000 + regs d base 0 + imm.toNat * 2 ^ 4 + look.val)
  | .lhz d base imm look => some (0x40000000 + regs d base 0 + imm.toNat * 2 ^ 4 + look.val)
  | .lw d base imm look => some (0x44000000 + regs d base 0 + imm.toNat * 2 ^ 4 + look.val)
  | .lwz d base imm look => some (0x48000000 + regs d base 0 + imm.toNat * 2 ^ 4 + look.val)
  | .ld d base imm look => some (0x4c000000 + regs d base 0 + imm.toNat * 2 ^ 4 + look.val)
  | .sb d base imm look => some (0x50000000 + regs d base 0 + imm.toNat * 2 ^ 4 + look.val)
  | .sh d base imm look => some (0x54000000 + regs d base 0 + imm.toNat * 2 ^ 4 + look.val)
  | .sw d base imm look => some (0x58000000 + regs d base 0 + imm.toNat * 2 ^ 4 + look.val)
  | .sd d base imm look => some (0x5c000000 + regs d base 0 + imm.toNat * 2 ^ 4 + look.val)
  | .flw d base imm look => some (0x60000000 + regs d base 0 + imm.toNat * 2 ^ 4 + look.val)
  | .fld d base imm look => some (0x64000000 + regs d base 0 + imm.toNat * 2 ^ 4 + look.val)
  | .fsw d base imm look => some (0x68000000 + regs d base 0 + imm.toNat * 2 ^ 4 + look.val)
  | .fsd d base imm look => some (0x6c000000 + regs d base 0 + imm.toNat * 2 ^ 4 + look.val)
  | .ldo d a b size acq scope look => some (0x70000000 + regs d a b + size.val * 2 ^ 9 + acq.toNat * 2 ^ 7 + scope.code * 2 ^ 4 + look.val)
  | .sto d a b size rel scope look => some (0x74000000 + regs d a b + size.val * 2 ^ 9 + rel.toNat * 2 ^ 8 + scope.code * 2 ^ 4 + look.val)
  | .atwadd d a b order scope look => some (0x78000000 + regs d a b + order.code * 2 ^ 6 + scope.code * 2 ^ 4 + look.val)
  | .atwand d a b order scope look => some (0x78000100 + regs d a b + order.code * 2 ^ 6 + scope.code * 2 ^ 4 + look.val)
  | .atwor d a b order scope look => some (0x78000200 + regs d a b + order.code * 2 ^ 6 + scope.code * 2 ^ 4 + look.val)
  | .atwxor d a b order scope look => some (0x78000300 + regs d a b + order.code * 2 ^ 6 + scope.code * 2 ^ 4 + look.val)
  | .atwmax d a b order scope look => some (0x78000400 + regs d a b + order.code * 2 ^ 6 + scope.code * 2 ^ 4 + look.val)
  | .atwmin d a b order scope look => some (0x78000500 + regs d a b + order.code * 2 ^ 6 + scope.code * 2 ^ 4 + look.val)
  | .atwmaxz d a b order scope look => some (0x78000600 + regs d a b + order.code * 2 ^ 6 + scope.code * 2 ^ 4 + look.val)
  | .atwminz d a b order scope look => some (0x78000700 + regs d a b + order.code * 2 ^ 6 + scope.code * 2 ^ 4 + look.val)
  | .atdadd d a b order scope look => some (0x7c000000 + regs d a b + order.code * 2 ^ 6 + scope.code * 2 ^ 4 + look.val)
  | .atdand d a b order scope look => some (0x7c000100 + regs d a b + order.code * 2 ^ 6 + scope.code * 2 ^ 4 + look.val)
  | .atdor d a b order scope look => some (0x7c000200 + regs d a b + order.code * 2 ^ 6 + scope.code * 2 ^ 4 + look.val)
  | .atdxor d a b order scope look => some (0x7c000300 + regs d a b + order.code * 2 ^ 6 + scope.code * 2 ^ 4 + look.val)
  | .atdmax d a b order scope look => some (0x7c000400 + regs d a b + order.code * 2 ^ 6 + scope.code * 2 ^ 4 + look.val)
  | .atdmin d a b order scope look => some (0x7c000500 + regs d a b + order.code * 2 ^ 6 + scope.code * 2 ^ 4 + look.val)
  | .atdmaxz d a b order scope look => some (0x7c000600 + regs d a b + order.code * 2 ^ 6 + scope.code * 2 ^ 4 + look.val)
  | .atdminz d a b order scope look => some (0x7c000700 + regs d a b + order.code * 2 ^ 6 + scope.code * 2 ^ 4 + look.val)
  | .swpw d a b order scope look => some (0x80000000 + regs d a b + order.code * 2 ^ 6 + scope.code * 2 ^ 4 + look.val)
  | .swpd d a b order scope look => some (0x80000100 + regs d a b + order.code * 2 ^ 6 + scope.code * 2 ^ 4 + look.val)
  | .casw d a b order scope look => some (0x80000200 + regs d a b + order.code * 2 ^ 6 + scope.code * 2 ^ 4 + look.val)
  | .casd d a b order scope look => some (0x80000300 + regs d a b + order.code * 2 ^ 6 + scope.code * 2 ^ 4 + look.val)
  | .fence scope => some (0x84000000 + scope.code * 2 ^ 4)
  | .fencea scope => some (0x84000100 + scope.code * 2 ^ 4)
  | .fencer scope => some (0x84000200 + scope.code * 2 ^ 4)
  | .beq a b off => some (0x88000000 + regs a b 0 + off.toNat)
  | .bne a b off => some (0x88002000 + regs a b 0 + off.toNat)
  | .blt a b off => some (0x88004000 + regs a b 0 + off.toNat)
  | .bge a b off => some (0x88006000 + regs a b 0 + off.toNat)
  | .bltz a b off => some (0x88008000 + regs a b 0 + off.toNat)
  | .bgez a b off => some (0x8800a000 + regs a b 0 + off.toNat)
  | .j off => some (0x8c000000 + off.toNat)
  | .jal off => some (0x90000000 + off.toNat)
  | .jr a => some (0x94000000 + regs 0 a 0)
  | .jalr d a => some (0x94000100 + regs d a 0)
  | .loop0 a n => some (0x98000000 + regs 0 a 0 + n.toNat)
  | .loop1 a n => some (0x98001000 + regs 0 a 0 + n.toNat)
  | _ => none

/-- The words of FPU, FCV, SYS, CTX, TAG and MFC. -/
def encodeFloat? : Instr → Option Nat
  | .tglk d a sz => some (0xb0000000 + regs d a 0 + sz.val * 2 ^ 4)
  | .tgset a b sz way => some (0xb0000100 + regs 0 a b + sz.val * 2 ^ 4 + way.val * 2 ^ 2)
  | .tginv d a sz => some (0xb0000200 + regs d a 0 + sz.val * 2 ^ 4)
  | .tgrd d a slotPart => some (0xb0000300 + regs d a 0 + slotPart.toNat * 2 ^ 1)
  | .tgclr => some (0xb0000400)
  | .mfc d unit word => some (0xe4000000 + regs d 0 0 + unit.val * 2 ^ 7 + word.val)
  | .fadd d a b prec rnd => some (0x9c000000 + regs d a b + prec.code * 2 ^ 3 + rnd.code)
  | .fsub d a b prec rnd => some (0x9c000010 + regs d a b + prec.code * 2 ^ 3 + rnd.code)
  | .fmul d a b prec rnd => some (0x9c000020 + regs d a b + prec.code * 2 ^ 3 + rnd.code)
  | .fdiv d a b prec rnd => some (0x9c000030 + regs d a b + prec.code * 2 ^ 3 + rnd.code)
  | .fsqrt d a prec rnd => some (0x9c000040 + regs d a 0 + prec.code * 2 ^ 3 + rnd.code)
  | .fma d a b prec rnd => some (0x9c000050 + regs d a b + prec.code * 2 ^ 3 + rnd.code)
  | .fms d a b prec rnd => some (0x9c000060 + regs d a b + prec.code * 2 ^ 3 + rnd.code)
  | .fnms d a b prec rnd => some (0x9c000070 + regs d a b + prec.code * 2 ^ 3 + rnd.code)
  | .fmin d a b prec => some (0x9c000080 + regs d a b + prec.code * 2 ^ 3)
  | .fmax d a b prec => some (0x9c000090 + regs d a b + prec.code * 2 ^ 3)
  | .fsgn d a b prec => some (0x9c0000a0 + regs d a b + prec.code * 2 ^ 3)
  | .fsgnn d a b prec => some (0x9c0000b0 + regs d a b + prec.code * 2 ^ 3)
  | .fsgnx d a b prec => some (0x9c0000c0 + regs d a b + prec.code * 2 ^ 3)
  | .fdtos d a rnd => some (0xa0000000 + regs d a 0 + rnd.code)
  | .fstod d a => some (0xa0000008 + regs d a 0)
  | .fstoh d a rnd => some (0xa0000010 + regs d a 0 + rnd.code)
  | .fhtos d a => some (0xa0000018 + regs d a 0)
  | .fstob d a rnd => some (0xa0000020 + regs d a 0 + rnd.code)
  | .fbtos d a => some (0xa0000028 + regs d a 0)
  | .ftoi d a prec long z rnd => some (0xa0000040 + regs d a 0 + prec.code * 2 ^ 5 + long.toNat * 2 ^ 4 + z.toNat * 2 ^ 3 + rnd.code)
  | .itof d a prec long z rnd => some (0xa0000080 + regs d a 0 + prec.code * 2 ^ 5 + long.toNat * 2 ^ 4 + z.toNat * 2 ^ 3 + rnd.code)
  | .fmvgf d a => some (0xa00000c0 + regs d a 0)
  | .fmvfg d a => some (0xa00000c8 + regs d a 0)
  | .feq d a b prec => some (0xa0000100 + regs d a b + prec.code * 2 ^ 5)
  | .flt d a b prec => some (0xa0000108 + regs d a b + prec.code * 2 ^ 5)
  | .fle d a b prec => some (0xa0000110 + regs d a b + prec.code * 2 ^ 5)
  | .fclass d a prec => some (0xa0000118 + regs d a 0 + prec.code * 2 ^ 5)
  | .nop => some (0xa4000000)
  | .srr d num => some (0xa4001000 + regs d 0 0 + num.toNat)
  | .srw a num => some (0xa4002000 + regs 0 a 0 + num.toNat)
  | .trap code => some (0xa4003000 + code.toNat)
  | .brk code => some (0xa4004000 + code.toNat)
  | .rte => some (0xa4005000)
  | .hstart d a b => some (0xa8000000 + regs d a b)
  | .hexit a => some (0xa8000040 + regs 0 a 0)
  | .hjoin d a => some (0xa8000080 + regs d a 0)
  | .waitm d a b => some (0xa80000c0 + regs d a b)
  | .yield => some (0xa8000100)
  | .yieldu => some (0xa8000140)
  | _ => none

/-- The words of SYN and TBL. -/
def encodeSync? : Instr → Option Nat
  | .barcfg a look n => some (0xac000000 + regs a 0 0 + look.val * 2 ^ 12 + n.val * 2 ^ 4)
  | .bararv look n => some (0xac000100 + look.val * 2 ^ 12 + n.val * 2 ^ 4)
  | .barwt look n => some (0xac000200 + look.val * 2 ^ 12 + n.val * 2 ^ 4)
  | .armc a look n => some (0xac000300 + regs a 0 0 + look.val * 2 ^ 12 + n.val * 2 ^ 4)
  | .waitc look n => some (0xac000400 + look.val * 2 ^ 12 + n.val * 2 ^ 4)
  | .tbdef a b look entry => some (0xb4000000 + regs a b 0 + look.val * 2 ^ 12 + entry.val)
  | .tbst look entry => some (0xb4000100 + look.val * 2 ^ 12 + entry.val)
  | .tbfree look entry => some (0xb4000200 + look.val * 2 ^ 12 + entry.val)
  | .tbwait look st entry => some (0xb4000300 + look.val * 2 ^ 12 + st.code * 2 ^ 6 + entry.val)
  | .publ look entry => some (0xb4000400 + look.val * 2 ^ 12 + entry.val)
  | _ => none

/-- The words of the vector unit. -/
def encodeVector? : Instr → Option Nat
  | .vcvt look dst src rnd => some (0xb8000000 + look.val * 2 ^ 12 + dst.val * 2 ^ 5 + src.val * 2 ^ 3 + rnd.code)
  | .vadd b look dst src rnd => some (0xb8000080 + regs 0 b 0 + look.val * 2 ^ 12 + dst.val * 2 ^ 5 + src.val * 2 ^ 3 + rnd.code)
  | .vsub b look dst src rnd => some (0xb8000100 + regs 0 b 0 + look.val * 2 ^ 12 + dst.val * 2 ^ 5 + src.val * 2 ^ 3 + rnd.code)
  | .vmul b look dst src rnd => some (0xb8000180 + regs 0 b 0 + look.val * 2 ^ 12 + dst.val * 2 ^ 5 + src.val * 2 ^ 3 + rnd.code)
  | .vfma a b look dst src rnd => some (0xb8000200 + regs a b 0 + look.val * 2 ^ 12 + dst.val * 2 ^ 5 + src.val * 2 ^ 3 + rnd.code)
  | .vmax b look dst src rnd => some (0xb8000280 + regs 0 b 0 + look.val * 2 ^ 12 + dst.val * 2 ^ 5 + src.val * 2 ^ 3 + rnd.code)
  | .vmin b look dst src rnd => some (0xb8000300 + regs 0 b 0 + look.val * 2 ^ 12 + dst.val * 2 ^ 5 + src.val * 2 ^ 3 + rnd.code)
  | .vceq b look dst src rnd => some (0xb8000380 + regs 0 b 0 + look.val * 2 ^ 12 + dst.val * 2 ^ 5 + src.val * 2 ^ 3 + rnd.code)
  | .vclt b look dst src rnd => some (0xb8000400 + regs 0 b 0 + look.val * 2 ^ 12 + dst.val * 2 ^ 5 + src.val * 2 ^ 3 + rnd.code)
  | .vcle b look dst src rnd => some (0xb8000480 + regs 0 b 0 + look.val * 2 ^ 12 + dst.val * 2 ^ 5 + src.val * 2 ^ 3 + rnd.code)
  | .vsel a b look dst src rnd => some (0xb8000500 + regs a b 0 + look.val * 2 ^ 12 + dst.val * 2 ^ 5 + src.val * 2 ^ 3 + rnd.code)
  | .vscale a look dst src rnd => some (0xb8000580 + regs a 0 0 + look.val * 2 ^ 12 + dst.val * 2 ^ 5 + src.val * 2 ^ 3 + rnd.code)
  | .vsbase a b look stream => some (0xbc000000 + regs a b 0 + look.val * 2 ^ 12 + stream.val * 2 ^ 6)
  | .vsdim a b look stream dim => some (0xbc000100 + regs a b 0 + look.val * 2 ^ 12 + stream.val * 2 ^ 6 + dim.val * 2 ^ 4)
  | .vson look stream => some (0xbc000200 + look.val * 2 ^ 12 + stream.val * 2 ^ 6)
  | .vsoff look stream => some (0xbc000300 + look.val * 2 ^ 12 + stream.val * 2 ^ 6)
  | .vsetvl a look => some (0xbc000400 + regs a 0 0 + look.val * 2 ^ 12)
  | .vwait look => some (0xbc000500 + look.val * 2 ^ 12)
  | .vexp2 look dst src rnd => some (0xe8000000 + look.val * 2 ^ 12 + dst.val * 2 ^ 5 + src.val * 2 ^ 3 + rnd.code)
  | .vlog2 look dst src rnd => some (0xe8000080 + look.val * 2 ^ 12 + dst.val * 2 ^ 5 + src.val * 2 ^ 3 + rnd.code)
  | .vrcp look dst src rnd => some (0xe8000100 + look.val * 2 ^ 12 + dst.val * 2 ^ 5 + src.val * 2 ^ 3 + rnd.code)
  | .vrsq look dst src rnd => some (0xe8000180 + look.val * 2 ^ 12 + dst.val * 2 ^ 5 + src.val * 2 ^ 3 + rnd.code)
  | .vsumx look dst src rnd => some (0xe8000200 + look.val * 2 ^ 12 + dst.val * 2 ^ 5 + src.val * 2 ^ 3 + rnd.code)
  | .vdotx b look dst src rnd => some (0xe8000280 + regs 0 b 0 + look.val * 2 ^ 12 + dst.val * 2 ^ 5 + src.val * 2 ^ 3 + rnd.code)
  | .vrdq a look dst rnd => some (0xe8000300 + regs a 0 0 + look.val * 2 ^ 12 + dst.val * 2 ^ 5 + rnd.code)
  | .vclrq look dst rnd => some (0xe8000380 + look.val * 2 ^ 12 + dst.val * 2 ^ 5 + rnd.code)
  | .vmaxr a look src rnd => some (0xe8000400 + regs a 0 0 + look.val * 2 ^ 12 + src.val * 2 ^ 3 + rnd.code)
  | .vmaxx a b look rnd => some (0xe8000480 + regs a b 0 + look.val * 2 ^ 12 + rnd.code)
  | .vqnt b look dst src rnd => some (0xe8000500 + regs 0 b 0 + look.val * 2 ^ 12 + dst.val * 2 ^ 5 + src.val * 2 ^ 3 + rnd.code)
  | _ => none

/-- The words of the matrix, copy and quasi-random units. -/
def encodeUnit? : Instr → Option Nat
  | .mclr look ms k => some (0xc0000000 + look.val * 2 ^ 12 + ms.val * 2 ^ 6 + k.val * 2 ^ 4)
  | .mmaw a b look ms k => some (0xc0000100 + regs a b 0 + look.val * 2 ^ 12 + ms.val * 2 ^ 6 + k.val * 2 ^ 4)
  | .mmah a b look ms k => some (0xc0000200 + regs a b 0 + look.val * 2 ^ 12 + ms.val * 2 ^ 6 + k.val * 2 ^ 4)
  | .mmae a b look ms k => some (0xc0000300 + regs a b 0 + look.val * 2 ^ 12 + ms.val * 2 ^ 6 + k.val * 2 ^ 4)
  | .mmai a b look ms k => some (0xc0000400 + regs a b 0 + look.val * 2 ^ 12 + ms.val * 2 ^ 6 + k.val * 2 ^ 4)
  | .mmas a b look ms k => some (0xc0000500 + regs a b 0 + look.val * 2 ^ 12 + ms.val * 2 ^ 6 + k.val * 2 ^ 4)
  | .mmaq a b look ms k => some (0xc0000600 + regs a b 0 + look.val * 2 ^ 12 + ms.val * 2 ^ 6 + k.val * 2 ^ 4)
  | .mrd a b look ms k rnd => some (0xc0000700 + regs a b 0 + look.val * 2 ^ 12 + ms.val * 2 ^ 6 + k.val * 2 ^ 4 + rnd.code)
  | .mld a b look ms => some (0xc0000800 + regs a b 0 + look.val * 2 ^ 12 + ms.val * 2 ^ 6)
  | .mst a b look ms => some (0xc0000900 + regs a b 0 + look.val * 2 ^ 12 + ms.val * 2 ^ 6)
  | .mwait look mask => some (0xc0000a00 + look.val * 2 ^ 12 + mask.val * 2 ^ 4)
  | .mcfg a look m => some (0xc4000000 + regs a 0 0 + look.val * 2 ^ 12 + m.val * 2 ^ 4)
  | .cshape a b look => some (0xc8000000 + regs a b 0 + look.val * 2 ^ 12)
  | .chl a b look cnt ce => some (0xc8000100 + regs a b 0 + look.val * 2 ^ 12 + cnt.val * 2 ^ 4 + ce.toNat * 2 ^ 3)
  | .clh a b look cnt ce => some (0xc8000200 + regs a b 0 + look.val * 2 ^ 12 + cnt.val * 2 ^ 4 + ce.toNat * 2 ^ 3)
  | .cbb a b look cnt ce rnd => some (0xc8000300 + regs a b 0 + look.val * 2 ^ 12 + cnt.val * 2 ^ 4 + ce.toNat * 2 ^ 3 + rnd.code)
  | .cmc a b look cnt ce rnd => some (0xc8000400 + regs a b 0 + look.val * 2 ^ 12 + cnt.val * 2 ^ 4 + ce.toNat * 2 ^ 3 + rnd.code)
  | .cidx a b look => some (0xc8000500 + regs a b 0 + look.val * 2 ^ 12)
  | .cgath a b look cnt ce => some (0xc8000600 + regs a b 0 + look.val * 2 ^ 12 + cnt.val * 2 ^ 4 + ce.toNat * 2 ^ 3)
  | .cscat a b look cnt ce => some (0xc8000700 + regs a b 0 + look.val * 2 ^ 12 + cnt.val * 2 ^ 4 + ce.toNat * 2 ^ 3)
  | .cwait look => some (0xc8000800 + look.val * 2 ^ 12)
  | .qld a b look => some (0xcc000000 + regs a b 0 + look.val * 2 ^ 12)
  | .qscr a b look => some (0xcc000100 + regs a b 0 + look.val * 2 ^ 12)
  | .qpt a b look gray rnd => some (0xcc000200 + regs a b 0 + look.val * 2 ^ 12 + gray.toNat * 2 ^ 7 + rnd.code)
  | .qseq a b look gray stream rnd => some (0xcc000300 + regs a b 0 + look.val * 2 ^ 12 + gray.toNat * 2 ^ 7 + stream.val * 2 ^ 5 + rnd.code)
  | .qskip a look => some (0xcc000400 + regs a 0 0 + look.val * 2 ^ 12)
  | .qwait look => some (0xcc000500 + look.val * 2 ^ 12)
  | _ => none

/-- The words of OBS, COL and GRF. -/
def encodeAgent? : Instr → Option Nat
  | .objoin a look h => some (0xd0000000 + regs a 0 0 + look.val * 2 ^ 12 + h.val * 2 ^ 6)
  | .obmax a b look h => some (0xd0000100 + regs a b 0 + look.val * 2 ^ 12 + h.val * 2 ^ 6)
  | .obred a b look h rnd => some (0xd0000200 + regs a b 0 + look.val * 2 ^ 12 + h.val * 2 ^ 6 + rnd.code)
  | .obstat a look h => some (0xd0000300 + regs a 0 0 + look.val * 2 ^ 12 + h.val * 2 ^ 6)
  | .obleave look h => some (0xd0000400 + look.val * 2 ^ 12 + h.val * 2 ^ 6)
  | .obcal a look => some (0xd0000500 + regs a 0 0 + look.val * 2 ^ 12)
  | .obwait look => some (0xd0000600 + look.val * 2 ^ 12)
  | .colq a look => some (0xd4000000 + regs a 0 0 + look.val * 2 ^ 12)
  | .colput a b look => some (0xd4000100 + regs a b 0 + look.val * 2 ^ 12)
  | .colgo a look => some (0xd4000200 + regs a 0 0 + look.val * 2 ^ 12)
  | .colwt a b look => some (0xd4000300 + regs a b 0 + look.val * 2 ^ 12)
  | .colcan a b look => some (0xd4000400 + regs a b 0 + look.val * 2 ^ 12)
  | .colsync look => some (0xd4000500 + look.val * 2 ^ 12)
  | .gnode a b look => some (0xd8000000 + regs a b 0 + look.val * 2 ^ 12)
  | .gedge a b look gmb => some (0xd8000100 + regs a b 0 + look.val * 2 ^ 12 + gmb.toNat)
  | .grun a b look phase => some (0xd8000200 + regs a b 0 + look.val * 2 ^ 12 + phase.toNat)
  | .launch a look => some (0xd8000300 + regs a 0 0 + look.val * 2 ^ 12)
  | .shapeAdd a b look fin => some (0xd8000400 + regs a b 0 + look.val * 2 ^ 12 + fin.toNat * 2 ^ 2)
  | .shapeSet a b look fin => some (0xd8000401 + regs a b 0 + look.val * 2 ^ 12 + fin.toNat * 2 ^ 2)
  | .shapeRead a b look => some (0xd8000402 + regs a b 0 + look.val * 2 ^ 12)
  | .confirm a b look => some (0xd8000500 + regs a b 0 + look.val * 2 ^ 12)
  | .cancel a look level => some (0xd8000600 + regs a 0 0 + look.val * 2 ^ 12 + level.code)
  | .compl a look res level => some (0xd8000700 + regs a 0 0 + look.val * 2 ^ 12 + res.toNat * 2 ^ 3 + level.code)
  | .grfwait look => some (0xd8000800 + look.val * 2 ^ 12)
  | _ => none

/-- The words of VIR and PWR. -/
def encodeModule? : Instr → Option Nat
  | .ctxnew a b look => some (0xdc000000 + regs a b 0 + look.val * 2 ^ 12)
  | .grantCores a b look => some (0xdc000100 + regs a b 0 + look.val * 2 ^ 12)
  | .grantMem a b look => some (0xdc000110 + regs a b 0 + look.val * 2 ^ 12)
  | .grantPages a b look => some (0xdc000120 + regs a b 0 + look.val * 2 ^ 12)
  | .grantQueues a b look => some (0xdc000130 + regs a b 0 + look.val * 2 ^ 12)
  | .grantCells a b look => some (0xdc000140 + regs a b 0 + look.val * 2 ^ 12)
  | .grantVf a b look => some (0xdc000150 + regs a b 0 + look.val * 2 ^ 12)
  | .revokeCores a b look => some (0xdc000200 + regs a b 0 + look.val * 2 ^ 12)
  | .revokeMem a b look => some (0xdc000210 + regs a b 0 + look.val * 2 ^ 12)
  | .revokePages a b look => some (0xdc000220 + regs a b 0 + look.val * 2 ^ 12)
  | .revokeQueues a b look => some (0xdc000230 + regs a b 0 + look.val * 2 ^ 12)
  | .revokeCells a b look => some (0xdc000240 + regs a b 0 + look.val * 2 ^ 12)
  | .revokeVf a b look => some (0xdc000250 + regs a b 0 + look.val * 2 ^ 12)
  | .ctxdel a look => some (0xdc000300 + regs a 0 0 + look.val * 2 ^ 12)
  | .ctxbud a b look => some (0xdc000400 + regs a b 0 + look.val * 2 ^ 12)
  | .ctxstat a look => some (0xdc000500 + regs a 0 0 + look.val * 2 ^ 12)
  | .ctxenter a b look => some (0xdc000600 + regs a b 0 + look.val * 2 ^ 12)
  | .reflect a look => some (0xdc000700 + regs a 0 0 + look.val * 2 ^ 12)
  | .virwait look => some (0xdc000800 + look.val * 2 ^ 12)
  | .eleave a look => some (0xe0000000 + regs a 0 0 + look.val * 2 ^ 12)
  | .ebud a b look => some (0xe0000100 + regs a b 0 + look.val * 2 ^ 12)
  | .eread a look => some (0xe0000200 + regs a 0 0 + look.val * 2 ^ 12)
  | .pwait look => some (0xe0000300 + look.val * 2 ^ 12)
  | _ => none

/-- The word of an instruction; none for a row of the table that has no encoding. -/
def encode? (i : Instr) : Option Nat :=
  ((((((((encodeAlu? i).or (encodeScalar? i)).or (encodeMemory? i)).or (encodeFloat? i)).or (encodeSync? i)).or
    (encodeVector? i)).or (encodeUnit? i)).or (encodeAgent? i)).or (encodeModule? i)

/-- The decoder on the words of format C alone, which wait at dispatch (R65): what a unit that accepts a
command makes of its word. -/
def decodeCommand (w : Nat) : Option Instr :=
  let r := match fld w 26 6 with
    | 43 => decodeSync w
    | 45 => decodeTile w
    | 46 => decodeVec w
    | 47 => decodeVcf w
    | 48 => decodeMat w
    | 49 => decodeMcf w
    | 50 => decodeCpy w
    | 51 => decodeQrn w
    | 52 => decodeObs w
    | 53 => decodeCol w
    | 54 => decodeGrf w
    | 55 => decodeVir w
    | 56 => decodePwr w
    | 58 => decodeVex w
    | _ => .error .illegalMajor
  match r with
  | .ok i => match i.check with | none => some i | some _ => none
  | .error _ => none

/-- The word of an instruction, 0 where the row has no encoding. -/
def encode (i : Instr) : Nat := (encode? i).getD 0

/-- The instruction that the decoder reads from bits numbered as the opcode table numbers them. Every
instruction of the GX9 is one 32-bit word, so bits above `nbits` are 0 (R53). -/
noncomputable def decodeTableWord (nbits w : Nat) : Option Instr :=
  match decodeWord (w % 2 ^ nbits) with
  | .ok i => some i
  | .error _ => none

end Sys2Proof
end

