-- ==== Sys2Proof/Machine/Sys.lean ====
section
/-! DEFINITION. SYS: no-operation, system-register moves, TRAP, BRK and RTE (R112, R113, R123–R126), and the
register writes that the table lists as steps of their own (R38, R122, R297, R421). -/

namespace Sys2Proof.Machine

def execNop (s : State) : Out := .next s.retire

/-- ILL of the executing word (R58, R113). -/
def State.illegal (s : State) : Out := .next (s.trap 0x01 s.curWord.toNat)

/-- The LREF of a BFMT number whose bank the unit has not claimed (R36). -/
def bfmtRef (b kind : Nat) : Nat := addrInfo (w64 (b * 0x4000)) kind 1

def execSrr (d : Reg) (num : BitVec 12) (s : State) : Out :=
  let h := s.curCore
  match s.sysRead h s.curTid num.toNat with
  | none => s.illegal
  | some v =>
    match bfmtBank h num.toNat with
    | some b => if (s.core h).claimed b then s.result d v else .next (s.trap 0x0A (bfmtRef b 0))
    | none => s.result d v

def execSrw (a : Reg) (num : BitVec 12) (s : State) : Out :=
  let h := s.curCore
  let n := num.toNat
  let v := s.g a
  if !sysAssigned h n then s.illegal
  else
    match bfmtBank h n with
    | some b =>
      if !(s.core h).claimed b then .next (s.trap 0x0A (bfmtRef b 1))
      else if (s.core h).formattedBusy then .next (s.block (.bfmt b v))
      else .next (s.writeBfmt h b v).retire
    | none => .next (s.sysWrite h s.curTid n v).retire

/-- TRAP at LENDL counts its iteration before it is taken; its epc is where the thread would go on (R125). -/
def execTrap (code : BitVec 12) (s : State) : Out :=
  let h := s.curCore
  let tid := s.curTid
  let s := s.drainPend h tid
  match s.takeRefused h tid with
  | some s => .next s
  | none =>
    let (r, next) := s.cur.r.loopReturn s.cur.r.pc (s.cur.r.pc + 4)
    .next ((s.modCur (fun t => { t with r := r })).trapAt 0x04 code.toNat next)

/-- BRK: a halt at the BRK where HALTEN is 1, else BKPT (R125, R424). -/
def execBrk (code : BitVec 12) (s : State) : Out :=
  if s.cur.t.halten then
    let s := s.drainPend s.curCore s.curTid
    match s.takeRefused s.curCore s.curTid with
    | some s => .next s
    | none => .next (s.modCur fun t => { t with halted := true })
  else .next (s.trap 0x05 code.toNat)

/-- RTE outside a handler traps RTEX (R126). -/
def execRte (s : State) : Out :=
  if s.cur.t.inh then .next (s.modCur returnFromTrap) else .next (s.trap 0x08 0)

/-! ## Register writes as steps -/

/-- An SRW to a bank's format register that waited is performed, and completes (R38). -/
def execBfmtWrite (h tid : Nat) (s : State) : Out :=
  match (s.thread h tid).wait with
  | .bfmt n v =>
    if (s.core h).formattedBusy || (s.thread h tid).deliverable then .next s
    else .next ((s.writeBfmt h n v).modThread h tid Thread.advance)
  | _ => .next s

/-- The write of a core register; a core without a unit has none of these registers (R110). -/
def State.onUnit (s : State) (h : Nat) (f : State → State) : Out :=
  if (s.core h).unit.isNone then .next s else .next (f s)

def execWaymaskWrite (h : Nat) (v : Word) (s : State) : Out := s.onUnit h (·.writeWaymask h v false)

def execWdogWrite (h : Nat) (v : Word) (s : State) : Out := s.onUnit h (·.writeWdog h v)

/-- A nonzero count activates the level (R122). -/
def execLcntWrite (h tid : Nat) (level : Fin 2) (v : Word) (s : State) : Out :=
  if (tget (s.core h).threads tid).isNone then .next s
  else .next (s.modThread h tid (·.setLcnt (level == 1) v))

end Sys2Proof.Machine
end

