-- ==== Sys2Proof/Machine/Mfc.lean ====
section
/-! DEFINITION. MFC: the words of the units (R57, R162, R209, R233, R254, R271, R317, R348, R382, R402). -/

namespace Sys2Proof.Machine

/-- SYNC: SSTAT, the counters and the barrier registers (R254). -/
def State.syncWord (s : State) (n : Nat) : Option Word :=
  let x := (s.core s.curCore).sync
  if n = 0 then some (w64 s.cur.u.sstat)
  else if n ≤ 16 then some ((x.counter (n - 1)).signExtend 64)
  else if n ≤ 24 then
    let b := x.bar (n - 17)
    some (w64 (b.x0 % 64 + b.y0 % 64 * 2 ^ 8 + b.wm1 % 64 * 2 ^ 16 + b.hm1 % 64 * 2 ^ 24 + b2n b.cfg * 2 ^ 31 +
      b2n b.mism * 2 ^ 32 + b.gen % 256 * 2 ^ 40 + b.rgen % 256 * 2 ^ 48))
  else none

/-- VEC and VEX, and VCF with the streams (R209). -/
def State.vecWord (s : State) (n : Nat) : Option Word :=
  let v := (s.core s.curCore).vec
  let busy := v.queue.any (·.tid == s.curTid) || v.vmax.any (·.tid == s.curTid)
  if n = 0 then some (w64 (b2n busy + b2n (!v.queue.isEmpty || !v.vmax.isEmpty) * 2)) else none

/-- The words of unit 4 (R209). DESIGN CHOICE (log 83): a length of 2^32 and more leaves REMAIN its low 32 bits. -/
def State.vcfWord (s : State) (n : Nat) : Option Word :=
  if n = 0 then some (w64 s.cur.u.vcstat)
  else if n ≤ 4 then
    let x := (tget (s.core s.curCore).vec.streams (n - 1)).getD Stream.reset
    some (w64 (b2n x.en + b2n x.write * 2 + x.owner % 16 * 2 ^ 4 + (x.len - x.pos) % 2 ^ 32 * 2 ^ 8))
  else none

def State.vexWord (s : State) (n : Nat) : Option Word :=
  match n with
  | 0 => some s.cur.u.res
  | 1 => some (w64 s.cur.u.vxstat)
  | _ => none

/-- MAT and MCF (R233). -/
def State.matWord (s : State) (n : Nat) : Option Word :=
  let c := s.core s.curCore
  let two (f : Nat → Bool) : Nat := b2n (f 0) + 2 * b2n (f 1)
  let four (f : Nat → Bool) : Nat := (List.range 4).foldl (fun a i => a + b2n (f i) * 2 ^ i) 0
  if n = 0 then
    some (w64 (four (fun i => c.mat.queue.any (fun q => q.op != .mcfg && q.ms == i && q.tid == s.curTid)) +
      four (fun i => c.mat.queue.any (fun q => q.op != .mcfg && q.ms == i)) * 2 ^ 4 + two c.engineBusy * 2 ^ 8 +
      two (fun e => (c.engineLeave e).held) * 2 ^ 10 +
      two (fun e => (c.engineLeave e).held && decide (0 < (s.die (dieOf s.curCore)).thr)) * 2 ^ 12))
  else if 4 ≤ n ∧ n ≤ 7 then
    let k := (tget c.mat.k (n - 4)).getD KTile.clear
    some (w64 (k.n.toNat % 2 ^ 63 + b2n k.ovf * 2 ^ 63))
  else none

def State.mcfWord (s : State) (n : Nat) : Option Word :=
  if n = 0 then some (w64 s.cur.u.mcstat)
  else if 16 ≤ n ∧ n ≤ 31 then
    let m := (tget (s.core s.curCore).mat.m (n - 16)).getD TileReg.reset
    some (w64 (m.code % 16 + b2n m.sat * 2 ^ 4 + (m.rows - 1) % 32 * 2 ^ 8 + (m.cols - 1) % 512 * 2 ^ 16))
  else none

/-- CPY (R254). -/
def State.cpyWord (s : State) (n : Nat) : Option Word :=
  let c := s.core s.curCore
  let mine := (c.cpy.filter (fun q => q.tid == s.curTid && q.unit == s.unitId s.curCore)).length
  match n with
  | 0 => some (w64 (s.cur.u.cstat + b2n s.cur.u.disc * 2 ^ 8 + mine * 2 ^ 16))
  | 1 => some (w64 c.cpy.length)
  | _ => none

/-- QRN (R271). -/
def State.qrnWord (s : State) (n : Nat) : Option Word :=
  let c := s.core s.curCore
  match n with
  | 0 => some (w64 (b2n (c.qrn.queue.any (·.tid == s.curTid)) + b2n (!c.qrn.queue.isEmpty) * 2 + c.qrn.queue.length * 2 ^ 4))
  | 1 => some (s.cur.u.qres.setWidth 64)
  | 2 => some (s.cur.u.qresf.setWidth 64)
  | 3 => some (w64 (s.cur.u.qcur % 2 ^ 48))
  | 4 => some (if c.qrn.owner = some (s.unitId s.curCore) then c.qrn.tab.dim else 0)
  | _ => none

/-- OBS: BSTAT, BRES and the handles (R382). -/
def State.obsWord (s : State) (n : Nat) : Option Word :=
  let u := s.cur.u
  if n = 0 then
    some (w64 (u.bstat + b2n (s.busPend s.curCore s.curTid) * 2 ^ 4 + b2n u.bdisc * 2 ^ 5 + b2n u.bshort * 2 ^ 6))
  else if n = 1 then some u.bres
  else if n ≤ 5 then
    let b := (tget (s.core s.curCore).bus (n - 2)).getD Handle.unbound
    let cells := (b.ops.head?.map (·.lease.total)).getD 0
    some (w64 (b.st + b.port % 4 * 4 + b.gid * 2 ^ 8 + (if b.dom then 0 else b.rank) * 2 ^ 16 + b.nm1 * 2 ^ 20 +
      b2n b.dom * 2 ^ 24 + cells % 128 * 2 ^ 32))
  else none

/-- A command of the thread at a unit has been accepted and not yet performed (R343, R400). -/
def State.unitPend (s : State) (unit : Nat) : Bool :=
  s.cmdPend (s.unitId s.curCore) s.curTid (fun k => k.unit == unit)

/-- A VIR command of the thread has not completed (R317). -/
def State.virBusy (s : State) : Bool :=
  s.cur.virPend.any (fun p => s.drains.any (fun d => d.id == p.1)) || s.unitPend Un.vir

/-- Status words of two-word units. -/
def statusWord (n stat : Nat) (res : Word) : Option Word :=
  match n with
  | 0 => some (w64 stat)
  | 1 => some res
  | _ => none

/-- PWR (R348). -/
def State.pwrWord (s : State) (n : Nat) : Option Word :=
  let c := s.core s.curCore
  let lv := (List.range 3).foldl (fun a i =>
    a + b2n (c.placeHeld i) * 2 ^ i) 0
  statusWord n (s.cur.u.pstat + lv * 2 ^ 4 + s.cur.u.pwait % 8 * 2 ^ 7) s.cur.u.pres

/-- The word that a unit of the core holds; none: the unit is absent, or the number is reserved (R57, R58). -/
def State.unitWord (s : State) (unit n : Nat) : Option Word :=
  let u := s.cur.u
  let comp (w : Option Word) : Option Word := if isService s.curCore then none else w
  match unit with
  | 0 => s.syncWord n
  | 2 => comp (if n = 0 then some u.tstatus else none)
  | 3 => s.vecWord n
  | 4 => s.vcfWord n
  | 5 => comp (s.matWord n)
  | 6 => comp (s.mcfWord n)
  | 7 => s.cpyWord n
  | 8 => comp (s.qrnWord n)
  | 9 => s.obsWord n
  | 10 => statusWord n (u.clstat + b2n (s.unitPend Un.col) * 2 ^ 4 + b2n u.cldisc * 2 ^ 5) u.clres
  | 11 => statusWord n (u.gfstat + b2n (s.unitPend Un.grf) * 2 ^ 4) u.gfres
  | 12 => statusWord n (u.gstat + b2n s.virBusy * 2 ^ 4) u.gres
  | 13 => s.pwrWord n
  | 15 => s.vexWord n
  | _ => none

/-- MFC. A thread whose earlier command waits at dispatch does not issue, so every one has been accepted. -/
def execMfc (d : Reg) (unit : Fin 16) (word : Fin 128) (s : State) : Out :=
  match s.unitWord unit.val word.val with
  | some v => .next (s.setG d v).retire
  | none => s.illegal

end Sys2Proof.Machine
end

