-- ==== Sys2Proof/Machine/Qrn.lean ====
section
/-! DEFINITION. The quasi-random unit: QRN at dispatch and the performance of a command (R255–R271). -/

namespace Sys2Proof.Machine

/-! ## Points (R256–R258) -/

def QrnTables.vWord (t : QrnTables) (d i : Nat) : BitVec 48 :=
  (tget t.v (48 * d + i)).getD (BitVec.ofNat 48 (2 ^ (47 - i)))

def QrnTables.shWord (t : QrnTables) (d : Nat) : BitVec 48 := (tget t.sh d).getD 0

def gray (n : Nat) : Nat := n ^^^ (n / 2)

/-- qpoint(d, n, g) (R257). -/
def QrnTables.point (t : QrnTables) (d n : Nat) (g : Bool) : BitVec 48 :=
  let m := if g then gray n else n
  (setBits 48 m).foldl (fun y i => y ^^^ t.vWord d i) 0 ^^^ t.shWord d

/-- to_unit: in [0, 1) (R258). -/
def toUnit (y : BitVec 48) (f : FFmt) (rnd : Rnd) : Nat × Flags :=
  let (c, fl) := encodeFloat (.exact false y.toNat (-48)) f rnd false
  (if c = codeOf f 1 0 then c - 1 else c, fl)

/-- encode_qrn for a FORMAT; none: the format fault (R264). -/
def encodeQrn (code : Nat) (y : BitVec 48) (rnd : Rnd) : Option (Nat × Flags) :=
  match code with
  | 0 => some (y.toNat / 2 ^ 16, 0)
  | 1 => some (toUnit y .fp32 rnd)
  | 2 => some (toUnit y .bf16 rnd)
  | 3 => some (toUnit y .fp16 rnd)
  | 8 => some (y.toNat / 2 ^ 17, 0)
  | _ => none

/-! ## Dispatch (R265, R267, R270) -/

/-- Commands of a thread in the vector unit that name a stream (R265). -/
def Core.vecNames (c : Core) (tid n : Nat) : Bool := c.vec.queue.any (fun q => q.tid == tid && q.names.contains n)

def State.qrnRoom (s : State) (q : QrnCmd) : Bool :=
  let c := s.core s.curCore
  decide (c.qrn.queue.length < 8) && !(q.op == .qseq && (c.formatPending || c.vecNames s.curTid q.stream))

/-- The tables of a unit that claims the unit's storage: another owner's go to its save area (R270). -/
def Core.claimQrn (c : Core) (u : UnitId) : Core :=
  if c.qrn.owner = some u then c
  else
    { c with
      evicted := c.evicted.map (fun e => if c.qrn.owner = some e.res.id then { e with qrn := some c.qrn.tab } else e)
      qrn := { tab := QrnTables.reset, owner := some u, queue := [] } }

def State.qrnDispatch (s : State) (q : QrnCmd) : Out :=
  s.dispatch Un.qrn (fun s => s.qrnRoom q) fun ply s =>
    let q : QrnCmd := { q with ply := ply, addr := s.cur.r.pc }
    s.modCore s.curCore fun c =>
      let c := c.claimQrn (s.unitId s.curCore)
      { c with qrn := { c.qrn with queue := c.qrn.queue ++ [q] } }

def State.qrnCmd (s : State) (op : QrnOp) (a b : Reg) (gray : Bool) (stream : Nat) (rnd : Rnd) : QrnCmd :=
  { op := op, tid := s.curTid, ply := 0, addr := 0, a := s.g a, b := s.g b, gray := gray, stream := stream, rnd := rnd,
    seq := 0 }

def execQld (a b : Reg) (look : Fin 16) (s : State) : Out :=
  let _ := look
  s.qrnDispatch (s.qrnCmd .qld a b false 0 .rne)
def execQscr (a b : Reg) (look : Fin 16) (s : State) : Out :=
  let _ := look
  s.qrnDispatch (s.qrnCmd .qscr a b false 0 .rne)
def execQpt (a b : Reg) (look : Fin 16) (gray : Bool) (rnd : Rnd) (s : State) : Out :=
  let _ := look
  s.qrnDispatch (s.qrnCmd .qpt a b gray 0 rnd)
def execQseq (a b : Reg) (look : Fin 16) (gray : Bool) (stream : Fin 4) (rnd : Rnd) (s : State) : Out :=
  let _ := look
  s.qrnDispatch (s.qrnCmd .qseq a b gray stream rnd)
def execQskip (a : Reg) (look : Fin 16) (s : State) : Out :=
  let _ := look
  s.qrnDispatch (s.qrnCmd .qskip a 0 false 0 .rne)

/-- QWAIT (R266). -/
def execQwait (look : Fin 16) (s : State) : Out :=
  let _ := look
  s.unitWait Un.qrn 0 (fun s => !(s.core s.curCore).qrn.queue.any (fun q => q.tid == s.curTid))

/-! ## The checks of R268 -/

def dim0 (b : Word) : Nat := bits b.toNat 0 6
def dimN (b : Word) : Nat := bits b.toNat 8 6 + 1

/-- A dimensions operand breaks its layout (R260). -/
def dimsBad (b : Word) : Bool :=
  bits b.toNat 6 2 != 0 || bits b.toNat 14 50 != 0 || decide (64 < dim0 b + dimN b)

/-- Bytes that QLD or QSCR reads. -/
def QrnCmd.readSize (q : QrnCmd) : Nat := (if q.op = .qld then 384 else 8) * dimN q.b

/-- Check 1. -/
def QrnCmd.operandBad (q : QrnCmd) (cur : Nat) : Bool :=
  let a := q.a.toNat
  match q.op with
  | .qld | .qscr => dimsBad q.b || a % 8 != 0 || decide (0x180000 < a + q.readSize)
  | .qpt => bits a 48 16 != 0 || bits q.b.toNat 6 58 != 0
  | .qseq => dimsBad q.b || a == 0 || decide (2 ^ 24 ≤ a) || decide (2 ^ 48 < cur + a)
  | .qskip => bits a 48 16 != 0

/-- The late cause with which a command is not performed. -/
def State.qrnFault (s : State) (h : Nat) (q : QrnCmd) : Option Nat :=
  let c := s.core h
  let a := q.a.toNat
  let st := c.stream q.stream
  let code := (c.streamFmt h st.b0).1
  let n := a * dimN q.b
  if q.operandBad (c.thread q.tid).u.qcur then some Late.qopf
  else
    match q.op with
    | .qld | .qscr =>
      if (banksOf a q.readSize).any (fun b => !c.claimed b || shadowIn c.tiles b) then some Late.bflt else none
    | .qseq =>
      if !st.en || st.owner != q.tid || !st.write || decide (st.len < st.pos + n) then some Late.sflt
      else if c.bankBad h st then some Late.bflt
      else if c.formatsDiffer h st || (encodeQrn code 0 .rne).isNone then some Late.fflt
      else if (st.next n).any (st.outside (streamElems h code)) then some Late.frng
      else none
    | _ => none

/-! ## The commands (R261–R264) -/

/-- The double word at an offset of the core's scratchpad, as a direction or shift word. -/
def State.dword48 (s : State) (h a : Nat) : BitVec 48 := BitVec.ofNat 48 (numOf (s.localBytes h a 8))

def State.modTab (s : State) (h : Nat) (f : QrnTables → QrnTables) : State :=
  s.modCore h fun c => { c with qrn := { c.qrn with tab := f c.qrn.tab } }

/-- QLD. -/
def State.qrnLoad (s : State) (h : Nat) (q : QrnCmd) : State :=
  let a := q.a.toNat
  (List.range (dimN q.b)).foldl (fun s j =>
    s.modTab h fun t =>
      let d := dim0 q.b + j
      { t with
        v := (List.range 48).foldl (fun v i => tput v (48 * d + i) (s.dword48 h (a + 384 * j + 8 * i))) t.v
        dim := t.dim ||| w64 (2 ^ d) }) s

/-- QSCR. -/
def State.qrnShift (s : State) (h : Nat) (q : QrnCmd) : State :=
  (List.range (dimN q.b)).foldl (fun s j =>
    s.modTab h fun t => { t with sh := tput t.sh (dim0 q.b + j) (s.dword48 h (q.a.toNat + 8 * j)) }) s

/-- QPT. -/
def State.qrnPoint (s : State) (h : Nat) (q : QrnCmd) : State × Flags :=
  let y := (s.core h).qrn.tab.point (q.b.toNat % 64) q.a.toNat q.gray
  let (c, fl) := toUnit y .fp32 q.rnd
  (s.wordsAt h q.tid fun u => { u with qres := y, qresf := BitVec.ofNat 32 c }, fl)

/-- QSEQ. DESIGN CHOICE (log 83): where QCUR + C is 2^48 the cursor stays there: MFC reads 0 of its 48 bits, and a QSEQ that
follows is past the end and takes QOPF. -/
def State.qrnSeq (s : State) (h : Nat) (q : QrnCmd) : State × Flags :=
  let c := s.core h
  let st := c.stream q.stream
  let code := (c.streamFmt h st.b0).1
  let k := (c.thread q.tid).u.qcur
  let n := q.a.toNat * dimN q.b
  let rs := (st.next n).zipIdx.map (fun (o, i) =>
    let y := c.qrn.tab.point (dim0 q.b + i % dimN q.b) (k + i / dimN q.b) q.gray
    (o, (encodeQrn code y q.rnd).getD (0, 0)))
  let s := rs.foldl (fun s (o, r) => s.streamWrite h st o r.1) s
  let s := s.advanceStream h q.stream n
  (s.wordsAt h q.tid fun u => { u with qcur := k + q.a.toNat }, rs.foldl (fun fl r => fl ||| r.2.2) 0)

def State.qrnRun (s : State) (h : Nat) (q : QrnCmd) : State × Flags :=
  match q.op with
  | .qld => (s.qrnLoad h q, 0)
  | .qscr => (s.qrnShift h q, 0)
  | .qpt => s.qrnPoint h q
  | .qseq => s.qrnSeq h q
  | .qskip => (s.wordsAt h q.tid fun u => { u with qcur := q.a.toNat }, 0)

def State.qrnReady (s : State) (h : Nat) : Bool :=
  match (s.core h).qrn.queue with
  | q :: _ => !(s.thread h q.tid).halted
  | [] => false

/-- QRN_COMMAND_PERFORM (R267, R268). -/
def execQrnCommandPerform (h : Nat) (s : State) : Out :=
  if !s.qrnReady h then .next s
  else
    match (s.core h).qrn.queue with
    | [] => .next s
    | q :: rest =>
      let pop (s : State) : State := s.modCore h fun c => { c with qrn := { c.qrn with queue := rest } }
      match s.qrnFault h q with
      | some code => .next ((pop s).lateOf h q.tid q.ply q.addr Un.qrn code)
      | none =>
        let (s, fl) := (pop s).qrnRun h q
        .next (s.raiseAt h q.tid fl)

end Sys2Proof.Machine
end

