-- ==== Sys2Proof/Machine/Command.lean ====
section
/-! DEFINITION. Commands that are performed again: what the unit does with a C-format word of a thread that waits for
it at dispatch, or whose page has come (R65, R288). -/

namespace Sys2Proof.Machine

/-- Performs the C-format instruction of the executing thread; any other instruction is none of a unit's. -/
def command (i : Instr) (s : State) : Out :=
  match i with
  | .barcfg a look n => execBarcfg a look n s
  | .bararv look n => execBararv look n s
  | .barwt look n => execBarwt look n s
  | .armc a look n => execArmc a look n s
  | .waitc look n => execWaitc look n s
  | .tbdef a b look entry => execTbdef a b look entry s
  | .tbst look entry => execTbst look entry s
  | .tbfree look entry => execTbfree look entry s
  | .tbwait look st entry => execTbwait look st entry s
  | .publ look entry => execPubl look entry s
  | .vcvt look dst src rnd => execVcvt look dst src rnd s
  | .vadd b look dst src rnd => execVadd b look dst src rnd s
  | .vsub b look dst src rnd => execVsub b look dst src rnd s
  | .vmul b look dst src rnd => execVmul b look dst src rnd s
  | .vfma a b look dst src rnd => execVfma a b look dst src rnd s
  | .vmax b look dst src rnd => execVmax b look dst src rnd s
  | .vmin b look dst src rnd => execVmin b look dst src rnd s
  | .vceq b look dst src rnd => execVceq b look dst src rnd s
  | .vclt b look dst src rnd => execVclt b look dst src rnd s
  | .vcle b look dst src rnd => execVcle b look dst src rnd s
  | .vsel a b look dst src rnd => execVsel a b look dst src rnd s
  | .vscale a look dst src rnd => execVscale a look dst src rnd s
  | .vsbase a b look stream => execVsbase a b look stream s
  | .vsdim a b look stream dim => execVsdim a b look stream dim s
  | .vson look stream => execVson look stream s
  | .vsoff look stream => execVsoff look stream s
  | .vsetvl a look => execVsetvl a look s
  | .vwait look => execVwait look s
  | .mclr look ms k => execMclr look ms k s
  | .mmaw a b look ms k => execMmaw a b look ms k s
  | .mmah a b look ms k => execMmah a b look ms k s
  | .mmae a b look ms k => execMmae a b look ms k s
  | .mmai a b look ms k => execMmai a b look ms k s
  | .mmas a b look ms k => execMmas a b look ms k s
  | .mmaq a b look ms k => execMmaq a b look ms k s
  | .mrd a b look ms k rnd => execMrd a b look ms k rnd s
  | .mld a b look ms => execMld a b look ms s
  | .mst a b look ms => execMst a b look ms s
  | .mwait look mask => execMwait look mask s
  | .mcfg a look m => execMcfg a look m s
  | .cshape a b look => execCshape a b look s
  | .chl a b look cnt ce => execChl a b look cnt ce s
  | .clh a b look cnt ce => execClh a b look cnt ce s
  | .cbb a b look cnt ce rnd => execCbb a b look cnt ce rnd s
  | .cmc a b look cnt ce rnd => execCmc a b look cnt ce rnd s
  | .cidx a b look => execCidx a b look s
  | .cgath a b look cnt ce => execCgath a b look cnt ce s
  | .cscat a b look cnt ce => execCscat a b look cnt ce s
  | .cwait look => execCwait look s
  | .qld a b look => execQld a b look s
  | .qscr a b look => execQscr a b look s
  | .qpt a b look gray rnd => execQpt a b look gray rnd s
  | .qseq a b look gray stream rnd => execQseq a b look gray stream rnd s
  | .qskip a look => execQskip a look s
  | .qwait look => execQwait look s
  | .objoin a look h => execObjoin a look h s
  | .obmax a b look h => execObmax a b look h s
  | .obred a b look h rnd => execObred a b look h rnd s
  | .obstat a look h => execObstat a look h s
  | .obleave look h => execObleave look h s
  | .obcal a look => execObcal a look s
  | .obwait look => execObwait look s
  | .colq a look => execColq a look s
  | .colput a b look => execColput a b look s
  | .colgo a look => execColgo a look s
  | .colwt a b look => execColwt a b look s
  | .colcan a b look => execColcan a b look s
  | .colsync look => execColsync look s
  | .gnode a b look => execGnode a b look s
  | .gedge a b look gmb => execGedge a b look gmb s
  | .grun a b look phase => execGrun a b look phase s
  | .launch a look => execLaunch a look s
  | .shapeAdd a b look fin => execShapeAdd a b look fin s
  | .shapeSet a b look fin => execShapeSet a b look fin s
  | .shapeRead a b look => execShapeRead a b look s
  | .confirm a b look => execConfirm a b look s
  | .cancel a look level => execCancel a look level s
  | .compl a look res level => execCompl a look res level s
  | .grfwait look => execGrfwait look s
  | .ctxnew a b look => execCtxnew a b look s
  | .grantCores a b look => execGrantCores a b look s
  | .grantMem a b look => execGrantMem a b look s
  | .grantPages a b look => execGrantPages a b look s
  | .grantQueues a b look => execGrantQueues a b look s
  | .grantCells a b look => execGrantCells a b look s
  | .grantVf a b look => execGrantVf a b look s
  | .revokeCores a b look => execRevokeCores a b look s
  | .revokeMem a b look => execRevokeMem a b look s
  | .revokePages a b look => execRevokePages a b look s
  | .revokeQueues a b look => execRevokeQueues a b look s
  | .revokeCells a b look => execRevokeCells a b look s
  | .revokeVf a b look => execRevokeVf a b look s
  | .ctxdel a look => execCtxdel a look s
  | .ctxbud a b look => execCtxbud a b look s
  | .ctxstat a look => execCtxstat a look s
  | .ctxenter a b look => execCtxenter a b look s
  | .reflect a look => execReflect a look s
  | .virwait look => execVirwait look s
  | .eleave a look => execEleave a look s
  | .ebud a b look => execEbud a b look s
  | .eread a look => execEread a look s
  | .pwait look => execPwait look s
  | .vexp2 look dst src rnd => execVexp2 look dst src rnd s
  | .vlog2 look dst src rnd => execVlog2 look dst src rnd s
  | .vrcp look dst src rnd => execVrcp look dst src rnd s
  | .vrsq look dst src rnd => execVrsq look dst src rnd s
  | .vsumx look dst src rnd => execVsumx look dst src rnd s
  | .vdotx b look dst src rnd => execVdotx b look dst src rnd s
  | .vrdq a look dst rnd => execVrdq a look dst rnd s
  | .vclrq look dst rnd => execVclrq look dst rnd s
  | .vmaxr a look src rnd => execVmaxr a look src rnd s
  | .vmaxx a b look rnd => execVmaxx a b look rnd s
  | .vqnt b look dst src rnd => execVqnt b look dst src rnd s
  | _ => .next s

end Sys2Proof.Machine
end

