-- ==== Sys2Proof/Machine/Traps.lean ====
section
/-! DEFINITION. Steps of the traps, the page service, the homes and the castling of partitions: posts and replies, late
faults, commands accepted at dispatch, restarted walks, invalidations, the watchdog, synchronised stops
(R65, R163, R287–R291, R406–R408, R412, R413, R417–R423). -/

namespace Sys2Proof.Machine

/-! ## Posts and replies (R287, R288, R412, R413) -/

/-- The post is one of page requests, or of trap messages. -/
def State.isPage (s : State) (n : Nat) (page : Bool) : Bool := s.posts.any (fun p => p.id == n && p.page == page)

/-- TRAP_MESSAGE_POST. -/
def execTrapMessagePost (n : Nat) (s : State) : Out := .next (if s.isPage n false then s.postRecord n else s)

/-- PAGE_REQUEST_POST. -/
def execPageRequestPost (n : Nat) (s : State) : Out := .next (if s.isPage n true then s.postRecord n else s)

/-- A REPLY word at `off` of a mailbox belongs to a posted record of the kind. -/
def State.replyWord (s : State) (h off : Nat) (page : Bool) : Bool :=
  isService h && s.posts.any (fun p => p.page == page && p.copies.any (fun c => c.1 == h && c.2 + 0x28 == off))

/-- TRAP_REPLY_CONSUME: a server writes REPLY at `off`. -/
def execTrapReplyConsume (h off : Nat) (v : Word) (s : State) : Out :=
  .next (if s.replyWord h off false then s.mailboxWrite h off v else s)

/-- PAGE_REPLY_CONSUME: a handler writes REPLY at `off`. -/
def execPageReplyConsume (h off : Nat) (v : Word) (s : State) : Out :=
  .next (if s.replyWord h off true then s.mailboxWrite h off v else s)

/-! ## Late faults (R406–R408) -/

/-- The codes of late causes (R405). -/
def isLateCode (code : Nat) : Bool := decide (0x20 ≤ code) && decide (code ≤ 0x2C)

/-- LATE_FAULT_ARRIVAL; a code that is not one of a late cause is not produced (R405). -/
def execLateFaultArrival (h tid code : Nat) (ply : Word32) (addr : Word) (unit : Nat) (s : State) : Out :=
  if isLateCode code && (tget (s.core h).threads tid).isSome then
    .next (lateFault s h tid { code := code, ply := ply, addr := addr, unit := unit })
  else .next s

def execLateFaultDelivery (h tid : Nat) (s : State) : Out :=
  if s.liveThread h tid && (s.thread h tid).deliverable then .next (s.deliverLate h tid) else .next s

/-! ## Commands and walks that go on (R65, R288, R289) -/

/-- Performs the command of a thread again. -/
def State.again (s : State) (h tid : Nat) (word : Word32) : Out :=
  match decodeCommand word.toNat with
  | some i => command i { s with curCore := h, curTid := tid, curWord := word }
  | none => .next s

/-- The waiting command of a thread is one that its unit would take now; a thread to which a late fault is to be delivered
abandons the wait for it (R407). -/
def State.acceptable (s : State) (h tid key : Nat) : Bool :=
  match (s.thread h tid).wait with
  | .dispatch d => acceptKey d.unit == key && s.liveThread h tid && !(s.thread h tid).deliverable && (match s.again h tid d.word with
    | .next t => (t.thread h tid).wait != .dispatch d
    | _ => true)
  | _ => false

/-- The thread whose command a unit takes: the first in cyclic order after the one whose command it took last (R65). -/
def State.acceptNext (s : State) (h key : Nat) : Option Nat :=
  let from_ := ((tget (s.core h).lastAccept key).getD 10) + 1
  ((List.range 11).map (fun i => (from_ + i) % 11)).find? (fun tid => s.acceptable h tid key)

/-- UNIT_ACCEPT_COMMAND: a unit takes a command that waits at dispatch, if it can and the thread is next (R65). -/
def execUnitAcceptCommand (h tid : Nat) (s : State) : Out :=
  match (s.thread h tid).wait with
  | .dispatch d => if s.acceptNext h (acceptKey d.unit) = some tid then s.again h tid d.word else .next s
  | _ => .next s

/-- WALK_RESTART of a thread's access, unless the thread abandons it for a late fault (R407). -/
def State.restartThread (s : State) (h tid : Nat) : Out :=
  if !s.liveThread h tid || (s.thread h tid).deliverable then .next s
  else
    match (s.thread h tid).wait with
    | .page p va kind => .next (s.wakePage h tid p va kind)
    | _ => .next s

/-- What performs a command that waits. -/
def PendCmd.perform (k : PendCmd) (s : State) : CmdEnd :=
  if k.unit = Un.col then s.colPerform k
  else if k.unit = Un.vir then s.enterJob k
  else s.grfPerform k

/-- WALK_RESTART of a command that has been accepted: it is performed, once no command is before it and its page request
has its reply (R343, R400). -/
def State.restartCmd (s : State) (id : Nat) : State :=
  match s.cmds.find? (fun k => k.id == id) with
  | none => s
  | some k =>
    if s.cmdAhead k || !s.pageClear k.page then s
    else
      match k.perform s with
      | .done s => ({ s with cmds := s.cmds.filter (fun j => j.id != id) } : State).settle
      | .page s p => { s with cmds := s.cmds.map (fun j => if j.id = id then { j with page := p } else j) }

/-- WALK_RESTART of a collective engine: the results that waited for a page are written, unless the partition is castled
out (R398). -/
def State.restartCollective (s : State) (die q : Nat) : State :=
  let out := ((s.colQueue die q).map (fun k => (s.part (s.ctx k.ctx).part).out)).getD true
  match if out then none else (s.colQueue die q).bind ColQ.head? with
  | some o => (o.partials.filter (·.final)).foldl (fun s p => s.colFinish die q o.seq p.chunk) s
  | none => s

/-! ## Homes (R163) -/

/-- HOME_PERFORM_ACCESS: an access in flight, the next write of a copy command, or a store that another module or
the host has sent; the home refuses an outside store to a scratchpad (R140). -/
def execHomePerformAccess (sel : AccessSel) (s : State) : Out :=
  match sel with
  | .inflight n => .next (s.perform n)
  | .copyWrite h n => .next (s.copyStep h n)
  | .external spa size v =>
    match s.normSpa spa with
    | none => .next s
    | some a =>
      match s.locOf outside a with
      | some l => .next (s.storeLoc outside l (bytesOf (min size 8) v.toNat))
      | none => .next s

/-! ## Invalidation (R291) -/

/-- INVALIDATION_REQUEST: a write of INVCTL, at offset `off` of a mailbox. -/
def execInvalidationRequest (h off : Nat) (v : Word) (s : State) : Out :=
  if isService h && off % 0x4000 == 0x10 then .next (s.mailboxWrite h off v) else .next s

/-- Every access of a context whose translation a request drops has been performed. -/
def State.invalDrained (s : State) (c : Nat) : Bool :=
  !s.inflight.any (fun a => a.unit.ctx == c && decide (0x200000 ≤ a.va.toNat))

/-- INVALIDATION_DONE of the `n`-th request under way, the first of its mailbox: INVDONE is written, and the next request of
the mailbox begins. A mailbox that lies in a castle store does nothing (R291, R420). -/
def execInvalidationDone (n : Nat) (s : State) : Out :=
  match s.invals[n]? with
  | none => .next s
  | some i =>
    let first := s.invalOf i.h i && !(s.invals.take n).any (s.invalOf i.h)
    if !first || !(i.bad || s.invalDrained i.ctx) then .next s
    else
      let s : State := { s with invals := s.invals.eraseIdx n }
      let s := s.mailboxWrite i.h (i.off + 0x18) (w64 (bits i.ctl 32 32 + b2n i.bad * 2 ^ 32))
      match s.invals.find? (s.invalOf i.h) with
      | some j => .next (s.startInval j)
      | none => .next s

/-! ## The watchdog (R421–R423) -/

/-- The watchdog of a core has expired and no record is outstanding. -/
def CoreRegs.expired (r : CoreRegs) : Bool := decide (r.wdogLimit * 2 ^ 20 ≤ r.wdogCount) && r.wdtPost.isNone

/-- A thread stops for the watchdog: a refused access among its pending instructions issues again. -/
def Thread.wdtStop (t : Thread) : Thread :=
  match t.wait with
  | .trapReply _ => t
  | _ =>
    let pc := (t.firstRefused.map (·.epc)).getD t.r.pc
    { t with wait := .wdtStop, refused := [], r := { t.r with pc := pc } }

/-- EPC of the WDT record: the stop address of the control context, or the EPC of its outstanding record. -/
def State.wdtEpc (s : State) (h : Nat) : Word :=
  let t := s.thread h 0
  match t.wait with
  | .trapReply id =>
    match s.posts.find? (fun p => p.id == id) with
    | some p => p.body.getD 1 0
    | none => t.r.pc
  | _ => t.r.pc

/-- WATCHDOG_EXPIRE: every thread stops, and the control context posts a WDT record. -/
def execWatchdogExpire (h : Nat) (s : State) : Out :=
  match (s.core h).unit with
  | none => .next s
  | some r =>
    if !(s.core h).regs.expired then .next s
    else
      let live := (s.core h).threads.filter (fun t => t.2.exited.isNone)
      let s := live.foldl (fun s t => (s.drainPend h t.1).modThread h t.1 Thread.wdtStop) s
      let epc := s.wdtEpc h
      let (target, mp) := trapTarget s h r.id.ctx
      let k : Trap :=
        { code := 0x10, info := (s.core h).regs.wdogCount % 2 ^ 48, epc := epc, ply := 0, late := false
          waddr := (s.thread h 0).r.pc, word := s.fetched h (s.thread h 0).r.pc }
      let (id, s) := s.addPost false target mp (trapBody s h 0 k false) (.wdt h r.id) (some r.id)
      .next (s.modCore h fun c => { c with regs := { c.regs with wdtPost := some id } })

/-! ## Castling (R417–R420) -/

/-- The cores of a partition's interval. -/
def Part.interval (p : Part) : List Nat := (List.range p.hlen).map (· + p.hbase)

/-- The memory of a core: its banks, or its mailbox (R418). -/
def memOf (m : Memory) (h : Nat) : Memory :=
  m.filter (fun e => decide (aliasBase h ≤ e.1) && decide (e.1 < aliasBase h + 0x200000))

def memWithout (m : Memory) (hs : List Nat) : Memory :=
  m.filter (fun e => !(decide (spaAlias ≤ e.1) && decide (e.1 < spaAlias + 2 ^ 33) &&
    hs.contains (aliasParts (e.1 - spaAlias)).1))

/-- The vector unit completes what it has accepted. -/
def State.finishVector (s : State) (h : Nat) : Nat → State
  | 0 => s
  | n + 1 =>
    if (s.core h).vec.queue.isEmpty then s
    else
      match execVectorCommandPerform h s with
      | .next s' => State.finishVector s' h n
      | _ => s

/-- The flush of a core: every access of the units that it holds is performed (R419). -/
def State.flushCore (s : State) (h : Nat) : State :=
  (s.inflight.filter (fun a => a.h == h)).foldl (fun s a => s.perform a.id) s

/-- FLUSH_TOKEN_RETURN. -/
def execFlushTokenReturn (h : Nat) (s : State) : Out := .next (s.flushCore h)

/-- In each round from T0 on, B holds the interval first, for SB cycles, and then A, for SA (R445; log 44). -/
def Slice.holdsB (x : Slice) (now : Nat) : Bool := decide ((now - x.t0) % (x.sa + x.sb) < x.sb)

/-- The slice schedule lets a partition hold its interval no longer (R417, R418). -/
def State.sliced (s : State) (p : Nat) : Bool :=
  s.mp.slices.any (fun x => decide (x.t0 ≤ s.now) && (if x.holdsB s.now then x.a == p else x.b == some p))

/-- From a stop to the resume of the next holder of the interval (R418). -/
def castleCycles : Nat := 32000

/-- What stays with a core of the interval: leave belongs to its engines, and ERRCNT to the core (R230, R420). -/
def Core.stays (c : Core) : Core := { Core.reset with leave := c.leave, errcnt := c.errcnt }

/-- CASTLE_STOP: the interval stops, drains and stores the partition's state. -/
def execCastleStop (part : Nat) (s : State) : Out :=
  let p := s.part part
  if (tget s.parts part).isNone || p.out || !s.sliced part then .next s
  else
    let hs := p.interval
    let s := hs.foldl (fun s h => (s.finishVector h (s.core h).vec.queue.length).flushCore h) s
    let x : Castled :=
      { part := part, stopped := s.now, cores := s.cores.filter (fun c => hs.contains c.1)
        mem := s.mem.filter (fun e => decide (spaAlias ≤ e.1) && decide (e.1 < spaAlias + 2 ^ 33) &&
          hs.contains (aliasParts (e.1 - spaAlias)).1) }
    let s : State := { s with
      cores := tmap s.cores (fun h c => if hs.contains h then c.stays else c), mem := memWithout s.mem hs
      castled := s.castled.filter (fun y => y.part != part) ++ [x] }
    .next (s.modPart part fun q => { q with out := true })

/-- The shared buffers drop what they hold for a partition's contexts at its castle-in (R279, R420). -/
def State.dropShared (s : State) (p : Nat) : State :=
  let keep (l : List TlbEntry) : List TlbEntry := l.filter (fun e => (s.ctx e.ctx).part != p)
  { s with clusterTlb := tmap s.clusterTlb (fun _ l => keep l), nestedTlb := tmap s.nestedTlb (fun _ l => keep l) }

/-- A core's state comes back to core `d`: instruction caches and TLBs are dropped (R420). -/
def Core.castleIn (c d : Core) : Core :=
  { c with itlb := [], dtlb := [], icache := [], leave := d.leave, errcnt := d.errcnt }

/-- A stop of the interval is not over (R418). -/
def State.castling (s : State) (p : Part) : Bool :=
  s.castled.any (fun y => decide (s.now < y.stopped + castleCycles) &&
    (let q := s.part y.part
     decide (q.hbase < p.hbase + p.hlen) && decide (p.hbase < q.hbase + q.hlen)))

/-- CASTLE_RESUME: a partition that is castled out, and whose interval nobody holds, runs again when the stop of the
interval is over; bus cells that others have borrowed of it go back (R383, R418). -/
def execCastleResume (part : Nat) (s : State) : Out :=
  let p := s.part part
  let held := s.parts.any (fun q => q.1 != part && !q.2.out && decide (q.2.hbase < p.hbase + p.hlen) &&
    decide (p.hbase < q.2.hbase + q.2.hlen))
  if (tget s.parts part).isNone || !p.out || held || s.castling p then .next s
  else
    match s.castled.find? (fun y => y.part == part) with
    | none => .next ((s.modPart part fun q => { q with out := false }).dropShared part)
    | some x =>
      let cores := x.cores.foldl (fun t c => tput t c.1 (c.2.castleIn (s.core c.1))) s.cores
      let mem := x.mem.foldl (fun m e => memSet m e.1 e.2) s.mem
      let s : State := { s with cores := cores, mem := mem, castled := s.castled.filter (fun y => y.part != part) }
      let s := (s.modPart part fun q => { q with out := false }).dropShared part
      .next (s.segs.foldl (fun s g => s.settleCells g.1) s)

/-! ## The stop at TRIP (R454) -/

/-- MPSTAT.BOOT after a stop at TRIP. -/
def bootTrip : Nat := 0xF0

/-- THERMAL_TRIP: every unit stops as at a synchronised stop, and core power is cut. -/
def execThermalTrip (die : Nat) (s : State) : Out :=
  let _ := die
  let s := s.cores.foldl (fun s c => (s.finishVector c.1 c.2.vec.queue.length).flushCore c.1) s
  .next { s with mp := { s.mp with powerCut := true, boot := bootTrip } }

end Sys2Proof.Machine
end

