-- ==== Sys2Proof/Machine/Errors.lean ====
section
/-! DEFINITION. Errors of the module's storage and links: corrected ones, and those charged to a tenant
(R426–R428, R435). -/

namespace Sys2Proof.Machine

/-- ERRCNT.CORR saturates (R434). -/
def Core.countError (c : Core) : Core := { c with errcnt := min (2 ^ 32 - 1) (c.errcnt + 1) }

/-- An entry with a parity error is invalid: it is filled again under its own rules (R118, R279, R336, R426). -/
def State.dropEntry (s : State) (h : Nat) (place : SoftPlace) : State :=
  match place with
  | .data => s
  | .itlb n => s.modCore h fun c => { c with itlb := c.itlb.eraseIdx n }
  | .dtlb n => s.modCore h fun c => { c with dtlb := c.dtlb.eraseIdx n }
  | .clusterTlb n => { s with clusterTlb := tmod s.clusterTlb (clusterOf h) (·.eraseIdx n) }
  | .nestedTlb n => { s with nestedTlb := tmod s.nestedTlb (clusterOf h) (·.eraseIdx n) }
  | .icache pc => s.modCore h fun c => { c with icache := tdel c.icache pc }
  | .predictor n => { s with preds := tdel s.preds n }

/-- CORRECTABLE_ERROR: what stands there is written back corrected, or the entry is invalidated; the core that holds the
storage counts it, core 0 for HBM and L2 (R426). -/
def execCorrectableError (e : SoftError) (s : State) : Out :=
  .next ((s.dropEntry e.h e.place).modCore e.h Core.countError)

/-- LINK_CRC_ERROR: the flit is resent; nothing that the state holds changes (R426). -/
def execLinkCrcError (h : Nat) (s : State) : Out :=
  let _ := h
  .next s

/-! ## Tenants (R427, R428, R435) -/

def State.chargeAll (s : State) (ts : List Nat) : State := ts.foldl State.charge s

/-- Every tenant of a partition's contexts, or of the module's. -/
def State.tenants (s : State) (p : Option Nat) : List Nat :=
  ((s.ctxs.filter (fun x => p.all (fun n => x.2.part == n))).map (fun x => s.tenantOf x.1)).eraseDups

/-- The tenants whose allocation mask on a die covers a way. -/
def State.tenantsOfWay (s : State) (die way : Nat) : List Nat :=
  (s.vfs.filter (fun v => v.2.part.isSome && bit (v.2.masks.getD die 0) way)).map (·.1) ++
  (s.parts.filter (fun p => bit (p.2.defMask.getD die 0) way)).map (fun p => 512 + p.1)

/-- A location of HBM is poisoned. -/
def State.addPoison (s : State) (spa : Nat) : State :=
  { s with poison := if s.poison.contains (spa / 32) then s.poison else s.poison ++ [spa / 32] }

/-- The owner of a register bank. -/
def State.regOwner (s : State) (h n : Nat) : Option UnitId :=
  match tget (s.core h).regBanks n with
  | some (.live _) => (s.core h).unit.map (·.id)
  | some (.parked u _ _ _) => some u
  | none => none

/-- The tenant of a unit is charged. -/
def State.chargeUnit (s : State) (u : Option UnitId) : State :=
  match u with
  | some u => s.charge (s.tenantOf u.ctx)
  | none => s

/-- An error in what a journal or a host gate holds for a job of a tenant ends the tenant's jobs (R431, R432). -/
def State.loseJobs (s : State) (t : Nat) : State :=
  ((s.ctxs.filter (fun x => s.tenantOf x.1 == t && x.2.job.isSome)).map (·.1)).foldl State.loseJob s

/-- The unit whose state a castle store holds: the one that ran on a core, or an evicted one there. -/
def State.castledUnit (s : State) (part h : Nat) (evicted : Option Nat) : Option UnitId :=
  match (s.castled.find? (fun x => x.part == part)).bind (fun x => tget x.cores h) with
  | some c =>
    match evicted with
    | none => c.unit.map (·.id)
    | some n => (c.evicted[n]?).map (·.res.id)
  | none => none

/-- UNCORRECTABLE_ERROR. -/
def execUncorrectableError (place : ErrPlace) (s : State) : Out :=
  .next <| match place with
    | .unitState h => s.chargeUnit ((s.core h).unit.map (·.id))
    | .bank h n => s.chargeUnit ((s.core h).bank n).owner
    | .regBank h n => s.chargeUnit (s.regOwner h n)
    | .parked h n => s.chargeUnit (((s.core h).evicted[n]?).map (·.res.id))
    | .hbm spa => s.addPoison spa
    | .l2data spa => s.addPoison spa
    | .journal c => if (tget s.ctxs c).isSome then s.loseJobs (s.tenantOf c) else s
    | .castled part h evicted => s.chargeUnit (s.castledUnit part h evicted)
    | .unowned p => s.chargeAll (s.tenants p)

/-- The data of a struck line is lost: free values stand in its place until a rollback restores it (log 61). -/
def State.loseLine (s : State) (spa : Nat) : State :=
  let a := spa / 32 * 32
  { s with mem := memStore s.mem a ((List.range 32).map (fun i => Config.lostByte s.steps (a + i))) }

/-- A die's L2 caches lines of its own two stacks only (R16). -/
def cachedBy (die spa : Nat) : Bool :=
  match homeOf spa with
  | .stack n => n / 2 == die
  | _ => false

/-- A covering tenant has written a page in its current phase: its journal holds the page, or its phase is unprotected, and
its job ends (R430, R432, R435). -/
def State.writtenBy (s : State) (ts : List Nat) (spa : Nat) : Bool :=
  s.parts.any (fun p => p.2.jpages.any (fun j => j.page == spa / 0x10000 && ts.contains (s.tenantOf j.ctx))) ||
  s.ctxs.any (fun x => x.2.job.isSome && !s.protectedJob x.1 && ts.contains (s.tenantOf x.1))

/-- L2_TAG_PARITY_ERROR: the way is fenced, and every tenant whose mask covers it is charged; a line that the way holds is
one of the die's own stacks, and of a page that one of them has written: the data of no other is lost (R16, R435). -/
def execL2TagParityError (die way spa : Nat) (s : State) : Out :=
  let s := if cachedBy die spa && s.writtenBy (s.tenantsOfWay die way) spa then s.loseLine spa else s
  let s := s.modDie die fun d => { d with fenced := d.fenced ||| BitVec.ofNat 16 (2 ^ way) }
  .next (s.chargeAll (s.tenantsOfWay die way))

end Sys2Proof.Machine
end

