-- ==== Sys2Proof/Machine/Flow.lean ====
section
/-! DEFINITION. Control flow: BR, J, JAL, JR, JALR and LOOP (R114–R121). -/

namespace Sys2Proof.Machine

/-- A signed offset in words, in bytes (R114, R115). -/
def wordOff {w : Nat} (o : BitVec w) : Word := (o.signExtend 64) <<< 2

/-- A branch: to its target, which may cancel loop levels, or on (R114, R121). -/
def State.branch (s : State) (off : BitVec 13) (taken : Bool) : Out :=
  if taken then .next (s.jumpTo (s.cur.r.pc + wordOff off) true) else .next s.retire

def execBeq (a b : Reg) (off : BitVec 13) (s : State) : Out := s.branch off (s.g a == s.g b)
def execBne (a b : Reg) (off : BitVec 13) (s : State) : Out := s.branch off (s.g a != s.g b)
def execBlt (a b : Reg) (off : BitVec 13) (s : State) : Out := s.branch off ((s.g a).slt (s.g b))
def execBge (a b : Reg) (off : BitVec 13) (s : State) : Out := s.branch off !((s.g a).slt (s.g b))
def execBltz (a b : Reg) (off : BitVec 13) (s : State) : Out := s.branch off ((s.g a).ult (s.g b))
def execBgez (a b : Reg) (off : BitVec 13) (s : State) : Out := s.branch off !((s.g a).ult (s.g b))

def execJ (off : BitVec 26) (s : State) : Out := .next (s.jumpTo (s.cur.r.pc + wordOff off) true)

/-- JAL: the link is g1; no loop is cancelled (R115, R121). -/
def execJal (off : BitVec 26) (s : State) : Out :=
  let pc := s.cur.r.pc
  .next ((s.setG 1 (pc + 4)).jumpTo (pc + wordOff off) false)

/-- A register target that is no word address traps JMIS (R116). -/
def State.jumpReg (s : State) (target : Word) (k : State → State) (cancels : Bool) : Out :=
  if target.toNat % 4 ≠ 0 then .next (s.trap 0x06 (target.toNat % 2 ^ 56))
  else .next ((k s).jumpTo target cancels)

def execJr (a : Reg) (s : State) : Out := s.jumpReg (s.g a) id true

def execJalr (d a : Reg) (s : State) : Out :=
  s.jumpReg (s.g a) (fun s => s.setG d (s.cur.r.pc + 4)) false

/-- loop_conflict: the level is active, or the bodies do not nest (R120). -/
def Regs.loopConflict (r : Regs) (one : Bool) (p : Word) (n : Nat) : Bool :=
  let last := p + w64 (4 * n)
  if (r.loop one).cnt ≠ 0 then true
  else if one = false ∧ r.loop1.cnt ≠ 0 then true
  else if one ∧ r.loop0.cnt ≠ 0 then
    !(decide (r.loop0.sta.toNat ≤ p.toNat) && decide (last.toNat < r.loop0.lend.toNat))
  else false

/-- LOOP (R120). -/
def State.startLoop (s : State) (one : Bool) (a : Reg) (n : BitVec 12) : Out :=
  let p := s.cur.r.pc
  let last := p + w64 (4 * n.toNat)
  if s.cur.r.loopConflict one p n.toNat then .next (s.trap 0x07 (b2n one))
  else if s.g a = 0 then .next (s.jumpTo (last + 4) false)
  else
    let l : Loop := { cnt := s.g a, sta := p + 4, lend := last }
    .next ((s.modCur (·.modR (·.setLoop one l))).jumpTo (p + 4) false)

def execLoop0 (a : Reg) (n : BitVec 12) (s : State) : Out := s.startLoop false a n
def execLoop1 (a : Reg) (n : BitVec 12) (s : State) : Out := s.startLoop true a n

end Sys2Proof.Machine
end

