-- ==== Sys2Proof/Machine/Hash.lean ====
section
/-! DEFINITION. SHA-256, the digest of the firmware key, of the boot measurements and of attestation reports (R442, R450), as
FIPS 180-4 defines it (log 45). -/

namespace Sys2Proof.Machine

def rotr32 (x : Word32) (n : Nat) : Word32 := x >>> n ||| x <<< (32 - n)

/-- The round constants. -/
def shaK : List Word32 :=
  [0x428a2f98, 0x71374491, 0xb5c0fbcf, 0xe9b5dba5, 0x3956c25b, 0x59f111f1, 0x923f82a4, 0xab1c5ed5,
   0xd807aa98, 0x12835b01, 0x243185be, 0x550c7dc3, 0x72be5d74, 0x80deb1fe, 0x9bdc06a7, 0xc19bf174] ++
  [0xe49b69c1, 0xefbe4786, 0x0fc19dc6, 0x240ca1cc, 0x2de92c6f, 0x4a7484aa, 0x5cb0a9dc, 0x76f988da,
   0x983e5152, 0xa831c66d, 0xb00327c8, 0xbf597fc7, 0xc6e00bf3, 0xd5a79147, 0x06ca6351, 0x14292967] ++
  [0x27b70a85, 0x2e1b2138, 0x4d2c6dfc, 0x53380d13, 0x650a7354, 0x766a0abb, 0x81c2c92e, 0x92722c85,
   0xa2bfe8a1, 0xa81a664b, 0xc24b8b70, 0xc76c51a3, 0xd192e819, 0xd6990624, 0xf40e3585, 0x106aa070] ++
  [0x19a4c116, 0x1e376c08, 0x2748774c, 0x34b0bcb5, 0x391c0cb3, 0x4ed8aa4a, 0x5b9cca4f, 0x682e6ff3,
   0x748f82ee, 0x78a5636f, 0x84c87814, 0x8cc70208, 0x90befffa, 0xa4506ceb, 0xbef9a3f7, 0xc67178f2]

/-- The initial digest. -/
def shaInit : List Word32 :=
  [0x6a09e667, 0xbb67ae85, 0x3c6ef372, 0xa54ff53a, 0x510e527f, 0x9b05688c, 0x1f83d9ab, 0x5be0cd19]

/-- The four bytes of a word, the highest first. -/
def bigEndian (n : Nat) (x : Nat) : List Byte := (bytesOf n x).reverse

/-- A message with its padding and its length in bits. -/
def shaPad (m : List Byte) : List Byte :=
  m ++ [0x80] ++ List.replicate ((119 - m.length % 64) % 64) 0 ++ bigEndian 8 (8 * m.length)

/-- One more word of the message schedule, of which the last 16 are kept, the newest first. -/
def shaNext (w : List Word32) : Word32 :=
  let a := w.getD 14 0
  let b := w.getD 1 0
  (rotr32 b 17 ^^^ rotr32 b 19 ^^^ b >>> 10) + w.getD 6 0 + (rotr32 a 7 ^^^ rotr32 a 18 ^^^ a >>> 3) + w.getD 15 0

/-- A round: the eight working words, and the schedule, from its word of the round on. -/
def shaRound (x : List Word32) (k w : Word32) : List Word32 :=
  match x with
  | [a, b, c, d, e, f, g, h] =>
    let t1 := h + (rotr32 e 6 ^^^ rotr32 e 11 ^^^ rotr32 e 25) + ((e &&& f) ^^^ (~~~e &&& g)) + k + w
    let t2 := (rotr32 a 2 ^^^ rotr32 a 13 ^^^ rotr32 a 22) + ((a &&& b) ^^^ (a &&& c) ^^^ (b &&& c))
    [t1 + t2, a, b, c, d + t1, e, f, g]
  | x => x

/-- The rounds of a block: the first 16 words of the schedule are those of the block. -/
def shaRounds : List Word32 → List Word32 → List Word32 → List Word32 → List Word32
  | [], _, _, x => x
  | k :: ks, m, w, x =>
    match m with
    | y :: m => shaRounds ks m ((y :: w).take 16) (shaRound x k y)
    | [] =>
      let y := shaNext w
      shaRounds ks [] ((y :: w).take 16) (shaRound x k y)

def shaBlock (h : List Word32) (b : List Byte) : List Word32 :=
  let m := (chunks 4 16 b).map (fun c => BitVec.ofNat 32 (numOf c.reverse))
  h.zipWith (· + ·) (shaRounds shaK m [] h)

/-- The digest of a message, 32 bytes. -/
def sha256 (m : List Byte) : List Byte :=
  let p := shaPad m
  ((chunks 64 (p.length / 64) p).foldl shaBlock shaInit).flatMap (fun x => bigEndian 4 x.toNat)

/-- The number that a digest spells, its first byte the highest. -/
def digestNum (d : List Byte) : BitVec 256 := BitVec.ofNat 256 (numOf d.reverse)

end Sys2Proof.Machine
end

