-- ==== Sys2Proof/Machine/Host.lean ====
section
/-! DEFINITION. The host link: the registers of a virtual function, accesses through BAR2, jobs and messages of the
host, resets of a function, boot, and what the management processor serves for a root (R428, R437–R442, R449, R452). -/

namespace Sys2Proof.Machine

/-! ## Registers as the host reads them (R439, R443) -/

/-- A register of VF BAR0; an offset that is not listed reads 0 (R439). -/
def State.vfRead (s : State) (v off : Nat) : Word :=
  let x := s.vfOf v
  match off with
  | 0x000 => w64 (v + x.bound.getD 0 * 2 ^ 9 + b2n x.bound.isSome * 2 ^ 21)
  | 0x008 => x.jobimg
  | 0x010 => x.jobarg
  | 0x020 => w64 (x.jobstat + b2n x.run * 16)
  | 0x028 => x.jobres
  | 0x030 => x.hmsg
  | 0x038 => x.mboxgpa
  | 0x040 => x.intstat.setWidth 64
  | _ => 0

/-- MPSTAT (R443). -/
def State.mpstat (s : State) : Word :=
  w64 (s.mp.boot + b2n (s.mp.job.isSome || !s.mp.queue.isEmpty) * 2 ^ 8 + s.mp.gen.toNat * 2 ^ 32)

/-- The module is in recovery, after a boot that failed: only the PF's BAR0 is enabled (R442). After a stop at TRIP it is
not (R454). -/
def State.recovery (s : State) : Bool := s.mp.boot != 0 && s.mp.boot != bootTrip

/-- Behind what the management processor has not completed. -/
def State.later (s : State) (e : Event) : State := { s with mp := { s.mp with queue := s.mp.queue ++ [e] } }

/-! ## Accesses through stage 2 alone (R438, R441) -/

/-- How a guest-physical access of the host ends: its places with the offset and length of each, or a miss. -/
inductive Guest where
  | ok (places : List (Loc × Nat × Nat))
  | miss (f : PageFault)
  | refused

/-- The places of `n` bytes at a GPA of a context, through its stage 2 at system scope. -/
def State.guest (s : State) (c g n : Nat) (k : AccessKind) : State × Guest :=
  (piecesOf g n).foldl (fun (s, acc) (a, len) =>
    match acc with
    | .ok ls =>
      let (s, r) := s.s2Walk (clusterOf 0) c a k
      match r with
      | .ok spa _ _ =>
        match (s.normSpa spa).bind (s.locOf c) with
        | some l => (s, .ok (ls ++ [(l, a - g, len)]))
        | none => (s, .refused)
      | .access _ => (s, .refused)
      | .poison => (s, .refused)
      | .miss lvl cause =>
        (s, .miss { stage := 1, onwalk := false, s1lvl := 3, s2lvl := lvl, gpa := a, cause := cause })
    | r => (s, r)) (s, .ok [])

/-- Stores bytes at the places of a guest access. They are the host's own writes: no job's journal or gate takes them
(R430, R433). -/
def State.guestStore (s : State) (ls : List (Loc × Nat × Nat)) (bs : List Byte) : State :=
  ls.foldl (fun s p => s.storeLoc outside p.1 ((bs.drop p.2.1).take p.2.2)) s

def State.guestLoad (s : State) (ls : List (Loc × Nat × Nat)) : List Byte := ls.flatMap (fun p => s.readLoc p.1 p.2.2)

/-- The bytes as the host reads them. -/
def State.guestView (s : State) (ls : List (Loc × Nat × Nat)) : List Byte := ls.flatMap (fun p => s.hostView p.1 p.2.2)

def State.guestPoisoned (s : State) (ls : List (Loc × Nat × Nat)) : Bool := ls.any (fun p => s.poisoned p.1 p.2.2)

/-- A read of the host completes. -/
def State.hostRead (s : State) (r : HostRead) : State := { s with mp := { s.mp with hostReads := s.mp.hostReads ++ [r] } }

/-- A BAR2 access that fails: the read is an Unsupported Request, the write is dropped, and ERR is set. -/
def State.bar2Fails (s : State) (v : Nat) (isRead : Bool) : State :=
  let s := s.setInt v 2
  if isRead then s.hostRead .unsupported else s

/-- HOST_BAR2_ACCESS: of at most eight bytes within the window. -/
def execHostBar2Access (vf off size : Nat) (store : Option Word) (s : State) : Out :=
  let n := min size 8
  if s.recovery then .next s
  else if 2 ^ 36 < off + n then .next (s.bar2Fails vf store.isNone)
  else
    match (s.vfOf vf).bound with
    | none => .next (s.bar2Fails vf store.isNone)
    | some c =>
      let (s, r) := s.guest c off n (if store.isSome then .store else .load)
      match r, store with
      | .ok ls, some v => .next (s.guestStore ls (bytesOf n v.toNat))
      | .ok ls, none =>
        if s.guestPoisoned ls then .next (s.hostRead .poisoned)
        else .next (s.hostRead (.data (w64 (numOf (s.guestView ls)))))
      | _, _ => .next (s.bar2Fails vf store.isNone)

/-! ## Jobs of the host (R440) -/

/-- The check of the oldest GO of a VF is decided. -/
def State.goDecided (s : State) (v st : Nat) : State :=
  s.modVf v fun x => { x with gos := x.gos.drop 1, goWait := .none, jobstat := st, run := x.run || st == St.ok }

/-- The oldest GO of a VF is served, with the image and the argument that it found (R440). -/
def State.goServe (s : State) (v : Nat) : State :=
  let x := s.vfOf v
  match x.gos.head?, x.bound.filter (fun c => (s.ctx c).st == .live) with
  | none, _ => s
  | some _, none => s.goDecided v St.noctx
  | some (img, arg), some c =>
    if (s.ctx c).job.isSome then s.goDecided v St.busy
    else if x.goWait = .replied true then s.goDecided v St.imgmap
    else if !s.pageClear x.goWait then s
    else
      let (s, r) := s.beginJob c 0 0 img arg (some v)
      match r with
      | .ok _ => s.goDecided v St.ok
      | .fail st => s.goDecided v st
      | .page p => s.modVf v fun x => { x with goWait := p }

/-- The GOs of a VF are served, until one waits for a page. -/
def State.goServeAll (s : State) (v : Nat) : Nat → State
  | 0 => s
  | n + 1 =>
    let t := s.goServe v
    if (t.vfOf v).gos.length < (s.vfOf v).gos.length then State.goServeAll t v n else t

def State.goes (s : State) (v : Nat) : State := s.goServeAll v (s.vfOf v).gos.length

/-- JOBGO_WRITE: a GO, behind those that have not been served. -/
def execJobgoWrite (vf : Nat) (s : State) : Out :=
  if s.recovery || (s.vfOf vf).resetting.isSome then .next s
  else .next ((s.modVf vf fun x => { x with gos := x.gos ++ [(x.jobimg, x.jobarg)] }).goes vf)

/-! ## Messages of the host (R441) -/

/-- The oldest message of a VF is no longer under way. -/
def Vf.msgOver (x : Vf) : Vf := { x with msgs := x.msgs.drop 1, msgWait := .none, msgStored := false }

/-- The message is dropped. -/
def State.hmsgFails (s : State) (v : Nat) : State := (s.modVf v Vf.msgOver).setInt v 2

/-- An access of a message that does not reach its place: a page request, or the message is dropped. DESIGN CHOICE: the VA
field of the request, for an access that has no VA, is 0 (log 55). -/
def State.msgMisses (s : State) (v c : Nat) (g : Guest) : State :=
  match g with
  | .miss f =>
    let (s, p) := s.pageFault c 0 0 1 0 .copyWrite f
    s.modVf v fun x => { x with msgWait := p }
  | _ => s.hmsgFails v

/-- The second access of a message: the atomic add, as a release. A count that is poisoned gives no data: the tenant is
charged, and the message dropped (R428). -/
def State.countMsg (s : State) (v c g : Nat) : State :=
  let (s, r) := s.guest c (g + 8) 8 .atomic
  match r with
  | .ok l =>
    if s.guestPoisoned l then (s.strike c).hmsgFails v
    else ((s.guestStore l (bytesOf 8 (numOf (s.guestLoad l) + 1))).modVf v Vf.msgOver).setInt v 1
  | r => s.msgMisses v c r

/-- The two accesses of a message: its store, where it has not been performed, then the atomic add. -/
def State.deliverMsg (s : State) (v c : Nat) (msg : Word) : State :=
  let g := (s.vfOf v).mboxgpa.toNat
  if (s.vfOf v).msgStored then s.countMsg v c g
  else
    let (s, r) := s.guest c g 8 .copyWrite
    match r with
    | .ok l => ((s.guestStore l (bytesOf 8 msg.toNat)).modVf v fun x => { x with msgStored := true }).countMsg v c g
    | r => s.msgMisses v c r

/-- The oldest message of a VF is served. -/
def State.msgServe (s : State) (v : Nat) : State :=
  let x := s.vfOf v
  match x.msgs.head?, x.bound with
  | none, _ => s
  | some _, none => s.hmsgFails v
  | some msg, some c =>
    if x.msgWait = .replied true then s.hmsgFails v
    else if !s.pageClear x.msgWait then s
    else s.deliverMsg v c msg

/-- The messages of a VF are served, until one waits for a page. -/
def State.msgServeAll (s : State) (v : Nat) : Nat → State
  | 0 => s
  | n + 1 =>
    let t := s.msgServe v
    if (t.vfOf v).msgs.length < (s.vfOf v).msgs.length then State.msgServeAll t v n else t

def State.messages (s : State) (v : Nat) : State := s.msgServeAll v (s.vfOf v).msgs.length

/-- HMSG_WRITE: a message, behind those that have not been served. -/
def execHmsgWrite (vf : Nat) (v : Word) (s : State) : Out :=
  if s.recovery then .next s
  else .next ((s.modVf vf fun x => { x with hmsg := v, msgs := x.msgs ++ [v] }).messages vf)

/-- WALK_RESTART (R288). -/
def execWalkRestart (agent : WalkAgent) (s : State) : Out :=
  match agent with
  | .thread h tid => s.restartThread h tid
  | .copy h n => .next (s.copyStep h n)
  | .collective die q => .next (s.restartCollective die q)
  | .command id => .next (s.restartCmd id)
  | .go v => .next (s.goes v)
  | .message v => .next (s.messages v)

/-! ## The other registers of BAR0 (R439) -/

/-- A write to a register without an effect beyond itself. -/
def Vf.write (x : Vf) (off : Nat) (v : Word) : Vf :=
  match off with
  | 0x008 => { x with jobimg := v }
  | 0x010 => { x with jobarg := v }
  | 0x038 => { x with mboxgpa := v &&& 0x0000FFFFFFFFFFF0#64 }
  | 0x040 => { x with intstat := x.intstat &&& ~~~(v.setWidth 3) }
  | _ => x

/-- BAR0_REGISTER_WRITE. -/
def execBar0RegisterWrite (vf off : Nat) (v : Word) (s : State) : Out :=
  if s.recovery then .next s
  else if off = 0x018 then (if v.getLsbD 0 then execJobgoWrite vf s else .next s)
  else if off = 0x030 then execHmsgWrite vf v s
  else .next (s.modVf vf fun x => x.write off v)

/-! ## The reset of a VF (R360, R433, R437, R449) -/

/-- A host effect of a context of the reset VF, or a message of the VF itself. -/
def resetGated (cs : List Nat) (v : Nat) : GateEntry → Bool
  | .write c .. => cs.contains c
  | .interrupt c k _ => cs.contains c || k == v

/-- The last frame through which cells are kept back: the rest of the present one and two more (R360). -/
def State.quarantineEnd (s : State) : Nat := s.frame + 3

/-- The cells of a handle's leases are kept back on each of its segments (R360). -/
def State.quarantine (s : State) (i : HandleId) (b : Handle) : State :=
  (s.uses b).foldl (fun s x =>
    let ls := (b.ops.map (fun o => o.leaseOn (s.handleSeg b) x.seg)).filter (fun l => l.cells != 0)
    s.modSeg x.seg fun g =>
      { g with
        quar := g.quar.filter (fun q => decide (s.frame < q.until_)) ++
          ls.map (fun l => { ctx := i.u.ctx, lease := l, until_ := s.quarantineEnd }) }) s

/-- Every operation of a handle ends with ABORT. -/
def State.abortHandle (s : State) (i : HandleId) (n : Nat) : State :=
  (List.range n).foldl (fun s _ => s.endBus i 0 Bst.abort) s

/-- The bus operations of contexts end (R360). -/
def State.abortBus (s : State) (cs : List Nat) : State :=
  s.handles.foldl (fun s (i, b) =>
    if cs.contains i.u.ctx then
      let s := (s.quarantine i b).abortHandle i b.ops.length
      if b.ops.isEmpty then s else (s.uses b).foldl (fun s x => s.netSend (.abort x.seg b.gid)) s
    else s) s

/-- The collective queues of a VF close (R385, R397). -/
def State.closeVfQueues (s : State) (v : Nat) : State :=
  s.dies.foldl (fun s (d, x) =>
    x.col.queues.foldl (fun s (q, k) =>
      if k.vf = v then
        let s := k.ops.foldl (fun s o => s.colFail d q o.seq Bst.abort) s
        s.modCol d fun e => { e with queues := tdel e.queues q }
      else s) s) s

/-- The registers of BAR0 take their reset values; the assignment, the weight and the way masks stay. -/
def Vf.resetRegs (x : Vf) : Vf := { Vf.reset with part := x.part, weight := x.weight, masks := x.masks }

/-- A VF reset begins: its steps in their order. The bus operations end before their units do, so that none ends otherwise
than with ABORT (R360). -/
def State.resetVf (s : State) (v : Nat) : State :=
  if (s.vfOf v).resetting.isSome then s
  else
    let cs := (s.ctxs.filter (fun x => s.tenantOf x.1 == v)).map (·.1)
    let s := s.modVf v fun x => { x with resetting := some cs }
    let s := s.abortBus cs
    let s := cs.foldl (fun s c => (s.modCtx c fun x => { x with jobVf := none }).cancelJob c) s
    let s : State := { s with parts := tmap s.parts (fun _ p => { p with gated := p.gated.filter (fun g => !resetGated cs v g) }) }
    let s := s.closeVfQueues v
    let s := match (s.vfOf v).bound with
      | some c => s.unbindVf c
      | none => s
    (s.modVf v fun x => { x.resetRegs with resetting := some cs }).settle

/-- FUNCTION_LEVEL_RESET. -/
def execFunctionLevelReset (vf : Nat) (s : State) : Out := .next (if vf < 512 then s.resetVf vf else s)

/-- VF_ENABLE_CLEAR: every VF is reset. -/
def execVfEnableClear (s : State) : Out := .next ((List.range 512).foldl State.resetVf s)

/-- What a VF reset began has completed. -/
def State.resetOver (s : State) (cs : List Nat) : Bool :=
  !s.launches.any (fun l => cs.contains l.2.ctx && !l.2.isDone) && !s.inflight.any (fun a => cs.contains a.unit.ctx) &&
  !s.cores.any (fun c => c.2.cpy.any (fun q => cs.contains q.unit.ctx)) &&
  !s.castled.any (fun x => x.cores.any (fun c => c.2.cpy.any (fun q => cs.contains q.unit.ctx))) &&
  !s.segs.any (fun g => g.2.quar.any (fun q => cs.contains q.ctx && decide (s.frame < q.until_)))

/-- The command under way is a VFRESET of the VF. -/
def State.awaitsReset (s : State) (v : Nat) : Bool :=
  match s.mp.job with
  | some (_, cmd) => bits cmd.toNat 0 8 == 0x10 && bits cmd.toNat 64 9 == v
  | none => false

/-- VF_RESET_END. -/
def execVfResetEnd (vf : Nat) (s : State) : Out :=
  match (s.vfOf vf).resetting with
  | some cs =>
    if s.resetOver cs then
      let s := (s.modVf vf fun x => { x with resetting := none }).report (.reset vf) 512
      .next (if s.awaitsReset vf then s.mpDone Ms.ok else s)
    else .next s
  | none => .next s

/-! ## The management processor and a root (R278, R315, R452) -/

/-- The thread of a record has been halted by DEBUG. -/
def State.waiterHalted (s : State) (w : Waiter) : Bool :=
  match w with
  | .trap h tid u => s.unitId h == u && (s.thread h tid).halted
  | .wdt h u => s.unitId h == u && (s.core h).threads.any (·.2.halted)
  | _ => false

/-- MP_SERVE_ROOT_REQUEST: DENY for a page request, KILL for a trap record; a record of a provisional unit has not been
posted yet (R412, R452). -/
def execMpServeRootRequest (n : Nat) (s : State) : Out :=
  match s.posts.find? (fun p => p.id == n) with
  | some p => if p.mp && !s.postHeld p && !s.waiterHalted p.waiter then .next (s.consume p 2 0) else .next s
  | none => .next s

/-! ## Boot (R442) -/

/-- Memory that lies outside the module: the host's, and other modules'. -/
def outsideMem (m : Memory) : Memory :=
  m.filter (fun e => match homeOf e.1 with
    | .host => true
    | .far _ => true
    | _ => false)

/-- The code of the first step of a boot that fails, 0 where none does: the signature of the firmware under the key whose
digest is fused, its version, and what the event says of the later steps (log 45). -/
def bootCode (b : BootImage) : Nat :=
  if digestNum (sha256 b.key) ≠ Config.fusedKeyDigest || !Config.slhDsaVerifies b.key b.signature b.firmware then 1
  else if b.version < Config.fusedVersion then 2
  else b.failing

/-- The measurements of a boot: of the ROM, the firmware and the configuration. -/
def bootMeasured (b : BootImage) : List Byte :=
  (List.range 32).map Config.measurement ++ sha256 b.firmware ++ sha256 b.config

/-- A port at boot: it trains by the assignment that DOMAIN gave it last (R355, R442; log 60). -/
def Port.boot (q : Port) : Port :=
  { Port.reset with
    entry := if q.en then q.entry.orElse fun _ => some { seg := q.seg, midx := q.midx, asked := q.asked, en := true }
      else q.entry }

/-- BOOT: the state after reset, with the memory outside the module as it was; the ports have still to train and their
segments to be calibrated. A step that fails leaves the module in recovery with the step's code (R442). -/
def execBoot (b : BootImage) (s : State) : Out :=
  .next { State.reset with
    mem := outsideMem s.mem, ports := tmap s.ports (fun _ => Port.boot)
    mp := { Mp.reset with boot := bootCode b, measured := if [1, 2, 3].contains (bootCode b) then none else some (bootMeasured b) }
    agenda := s.agenda, defer := s.defer, picks := s.picks, steps := s.steps, nextId := s.nextId }

end Sys2Proof.Machine
end

