-- ==== Sys2Proof/Machine/Operands.lean ====
section
/-! DEFINITION. Operand forms of the scalar memory instructions: addresses, destinations of pending sets, and what an
access asks for by its order and scope (R54, R55, R61, R142, R143, R165, R179–R182). -/

namespace Sys2Proof.Machine

/-- The address of format M: base plus the immediate scaled by the access size (R55, R143). -/
def State.addrM (s : State) (base : Reg) (imm : BitVec 12) (size : Nat) : Word :=
  s.g base + imm.signExtend 64 * w64 size

/-- The pending-set number of a destination: none for g0 (R61). -/
def gDest (d : Reg) : Option Nat := if d = 0 then none else some d.val

def fDest (d : Reg) : Option Nat := some (32 + d.val)

/-- A plain access. Plain order has no scope; `mod` takes the local port inside the local window (R165). -/
def plainReq (va : Word) (size : Nat) (kind : AccKind) (reg : Option Nat) (look : Fin 16) : Req :=
  { va := va, size := size, kind := kind, reg := reg, scope := .mod, acquire := false, release := false
    look := look.val }

/-- The address of the indexed forms: LDO, STO and the atomics (R179, R181). -/
def State.addrX (s : State) (a b : Reg) : Word := s.g a + s.g b

/-- An access of LDO, STO or an atomic (R180, R182). -/
def orderedReq (va : Word) (size : Nat) (kind : AccKind) (reg : Option Nat) (scope : Scope) (acquire release : Bool)
    (look : Fin 16) : Req :=
  { va := va, size := size, kind := kind, reg := reg, scope := scope, acquire := acquire, release := release
    look := look.val }

def acquires : Order → Bool
  | .acquire => true
  | .acqRel => true
  | _ => false

def releases : Order → Bool
  | .release => true
  | .acqRel => true
  | _ => false


end Sys2Proof.Machine
end

