-- ==== Sys2Proof/Machine/LoadStore.lean ====
section
/-! DEFINITION. Scalar memory access: loads and stores, LDO and STO, the atomics, and the fences
(R142–R146, R163–R184). -/

namespace Sys2Proof.Machine

/-! ## Plain loads and stores (R142, R143) -/

def State.plainLoad (s : State) (d base : Reg) (imm : BitVec 12) (size : Nat) (signed : Bool) (look : Fin 16) : Out :=
  .next (s.access (plainReq (s.addrM base imm size) size (.load signed) (gDest d) look))

def State.plainStore (s : State) (d base : Reg) (imm : BitVec 12) (size : Nat) (look : Fin 16) : Out :=
  .next (s.access (plainReq (s.addrM base imm size) size (.store (s.g d)) none look))

def execLb (d base : Reg) (imm : BitVec 12) (look : Fin 16) (s : State) : Out := s.plainLoad d base imm 1 true look
def execLbz (d base : Reg) (imm : BitVec 12) (look : Fin 16) (s : State) : Out := s.plainLoad d base imm 1 false look
def execLh (d base : Reg) (imm : BitVec 12) (look : Fin 16) (s : State) : Out := s.plainLoad d base imm 2 true look
def execLhz (d base : Reg) (imm : BitVec 12) (look : Fin 16) (s : State) : Out := s.plainLoad d base imm 2 false look
def execLw (d base : Reg) (imm : BitVec 12) (look : Fin 16) (s : State) : Out := s.plainLoad d base imm 4 true look
def execLwz (d base : Reg) (imm : BitVec 12) (look : Fin 16) (s : State) : Out := s.plainLoad d base imm 4 false look
def execLd (d base : Reg) (imm : BitVec 12) (look : Fin 16) (s : State) : Out := s.plainLoad d base imm 8 false look
def execSb (d base : Reg) (imm : BitVec 12) (look : Fin 16) (s : State) : Out := s.plainStore d base imm 1 look
def execSh (d base : Reg) (imm : BitVec 12) (look : Fin 16) (s : State) : Out := s.plainStore d base imm 2 look
def execSw (d base : Reg) (imm : BitVec 12) (look : Fin 16) (s : State) : Out := s.plainStore d base imm 4 look
def execSd (d base : Reg) (imm : BitVec 12) (look : Fin 16) (s : State) : Out := s.plainStore d base imm 8 look

/-- FLW and FLD: bits unmodified, the upper half of an FLW result 0 (R79, R142, R143). -/
def State.floatLoad (s : State) (d base : Reg) (imm : BitVec 12) (size : Nat) (look : Fin 16) : Out :=
  s.guardF [d] fun s =>
    .next (s.access (plainReq (s.addrM base imm size) size (.load false) (fDest d) look))

def State.floatStore (s : State) (d base : Reg) (imm : BitVec 12) (size : Nat) (look : Fin 16) : Out :=
  s.guardF [d] fun s =>
    .next (s.access (plainReq (s.addrM base imm size) size (.store (s.f d)) none look))

def execFlw (d base : Reg) (imm : BitVec 12) (look : Fin 16) (s : State) : Out := s.floatLoad d base imm 4 look
def execFld (d base : Reg) (imm : BitVec 12) (look : Fin 16) (s : State) : Out := s.floatLoad d base imm 8 look
def execFsw (d base : Reg) (imm : BitVec 12) (look : Fin 16) (s : State) : Out := s.floatStore d base imm 4 look
def execFsd (d base : Reg) (imm : BitVec 12) (look : Fin 16) (s : State) : Out := s.floatStore d base imm 8 look

/-! ## LDO and STO (R179, R180) -/

def execLdo (d a b : Reg) (size : Fin 4) (acq : Bool) (scope : Scope) (look : Fin 16) (s : State) : Out :=
  .next (s.access (orderedReq (s.addrX a b) (2 ^ size.val) (.load false) (gDest d) scope acq false look))

def execSto (d a b : Reg) (size : Fin 4) (rel : Bool) (scope : Scope) (look : Fin 16) (s : State) : Out :=
  .next (s.access (orderedReq (s.addrX a b) (2 ^ size.val) (.store (s.g d)) none scope false rel look))

/-! ## Atomics (R181, R182) -/

/-- An atomic with its operand from g[d]; `n` is the new value of a CAS (R181). -/
def State.atomic (s : State) (op : AtOp) (size : Nat) (d a b : Reg) (n : Word) (order : Order) (scope : Scope)
    (look : Fin 16) : Out :=
  .next (s.access
    (orderedReq (s.addrX a b) size (.atomic op (s.g d) n) (gDest d) scope (acquires order) (releases order) look))

def execAtwadd (d a b : Reg) (order : Order) (scope : Scope) (look : Fin 16) (s : State) : Out :=
  s.atomic .add 4 d a b 0 order scope look
def execAtwand (d a b : Reg) (order : Order) (scope : Scope) (look : Fin 16) (s : State) : Out :=
  s.atomic .and 4 d a b 0 order scope look
def execAtwor (d a b : Reg) (order : Order) (scope : Scope) (look : Fin 16) (s : State) : Out :=
  s.atomic .or 4 d a b 0 order scope look
def execAtwxor (d a b : Reg) (order : Order) (scope : Scope) (look : Fin 16) (s : State) : Out :=
  s.atomic .xor 4 d a b 0 order scope look
def execAtwmax (d a b : Reg) (order : Order) (scope : Scope) (look : Fin 16) (s : State) : Out :=
  s.atomic .max 4 d a b 0 order scope look
def execAtwmin (d a b : Reg) (order : Order) (scope : Scope) (look : Fin 16) (s : State) : Out :=
  s.atomic .min 4 d a b 0 order scope look
def execAtwmaxz (d a b : Reg) (order : Order) (scope : Scope) (look : Fin 16) (s : State) : Out :=
  s.atomic .maxz 4 d a b 0 order scope look
def execAtwminz (d a b : Reg) (order : Order) (scope : Scope) (look : Fin 16) (s : State) : Out :=
  s.atomic .minz 4 d a b 0 order scope look
def execAtdadd (d a b : Reg) (order : Order) (scope : Scope) (look : Fin 16) (s : State) : Out :=
  s.atomic .add 8 d a b 0 order scope look
def execAtdand (d a b : Reg) (order : Order) (scope : Scope) (look : Fin 16) (s : State) : Out :=
  s.atomic .and 8 d a b 0 order scope look
def execAtdor (d a b : Reg) (order : Order) (scope : Scope) (look : Fin 16) (s : State) : Out :=
  s.atomic .or 8 d a b 0 order scope look
def execAtdxor (d a b : Reg) (order : Order) (scope : Scope) (look : Fin 16) (s : State) : Out :=
  s.atomic .xor 8 d a b 0 order scope look
def execAtdmax (d a b : Reg) (order : Order) (scope : Scope) (look : Fin 16) (s : State) : Out :=
  s.atomic .max 8 d a b 0 order scope look
def execAtdmin (d a b : Reg) (order : Order) (scope : Scope) (look : Fin 16) (s : State) : Out :=
  s.atomic .min 8 d a b 0 order scope look
def execAtdmaxz (d a b : Reg) (order : Order) (scope : Scope) (look : Fin 16) (s : State) : Out :=
  s.atomic .maxz 8 d a b 0 order scope look
def execAtdminz (d a b : Reg) (order : Order) (scope : Scope) (look : Fin 16) (s : State) : Out :=
  s.atomic .minz 8 d a b 0 order scope look
def execSwpw (d a b : Reg) (order : Order) (scope : Scope) (look : Fin 16) (s : State) : Out :=
  s.atomic .swp 4 d a b 0 order scope look
def execSwpd (d a b : Reg) (order : Order) (scope : Scope) (look : Fin 16) (s : State) : Out :=
  s.atomic .swp 8 d a b 0 order scope look

/-- CASW and CASD take the new value from g[d + 1]; a CAS with an odd d or with d = 0 is no instruction (R58,
R181). -/
def execCasw (d a b : Reg) (order : Order) (scope : Scope) (look : Fin 16) (s : State) : Out :=
  s.atomic .cas 4 d a b (s.g (d + 1)) order scope look
def execCasd (d a b : Reg) (order : Order) (scope : Scope) (look : Fin 16) (s : State) : Out :=
  s.atomic .cas 8 d a b (s.g (d + 1)) order scope look

/-! ## Fences (R183, R184) -/

/-- After the accesses that a fence names have been performed: a refusal among them is taken instead. -/
def State.fenced (s : State) (p : Access → Bool) (k : State → State) : Out :=
  let s := s.drain s.curCore s.curTid p
  match s.takeRefused s.curCore s.curTid with
  | some s => .next s
  | none => .next (k s).retire

def execFence (scope : Scope) (s : State) : Out :=
  s.fenced (fun a => inScope scope s.curCore a.home) id

def execFencea (scope : Scope) (s : State) : Out :=
  let _ := scope
  s.fenced (fun a => match a.kind with
    | .store _ => false
    | _ => true) id

/-- FENCER does not hold its thread: the next store or atomic acts as a release (R184). -/
def execFencer (scope : Scope) (s : State) : Out :=
  .next (s.modCur fun t =>
    { t with
      fencer := match t.fencer with
        | some sc => if sc.code < scope.code then some scope else some sc
        | none => some scope }).retire

end Sys2Proof.Machine
end

