-- ==== Sys2Proof/Machine/Mgmt.lean ====
section
/-! DEFINITION. The commands of the management processor (R293, R424, R435, R443–R451, R454). -/

namespace Sys2Proof.Machine

/-! ## Slots and blocks (R443–R445) -/

/-- How a command ends: a status alone; with results and a change of state; with results that only read; or later. -/
inductive McEnd where
  | fail (status : Nat)
  | ok (s : State) (res : List (Nat × Nat × Nat))
  | report (s : State) (res : List (Nat × Nat × Nat))
  | later (s : State)

/-- A field of a slot, by byte offset and bytes. -/
def mc (cmd : BitVec 512) (off n : Nat) : Nat := bits cmd.toNat (8 * off) (8 * n)

/-- A byte that a command does not list is nonzero. -/
def mcBad (cmd : BitVec 512) (used : List (Nat × Nat)) : Bool :=
  (List.range 64).any fun i =>
    i != 0 && i != 1 && !(decide (4 ≤ i) && decide (i < 8)) &&
    !used.any (fun (o, n) => decide (o ≤ i) && decide (i < o + n)) && mc cmd i 1 != 0

/-- A slot that has been submitted and whose command is not over reads STATUS 0xFF, which the host wrote (R444). -/
def State.submitted (s : State) (slot : Nat) (cmd : BitVec 512) : State :=
  { s with mp := { s.mp with slots := tput s.mp.slots slot (putBytes cmd 1 1 0xFF) } }

/-- A command waits: another is under way, or stands before it in doorbell order (R443). -/
def State.mpBusy (s : State) : Bool := s.mp.job.isSome || (!s.mp.queue.isEmpty && !s.mp.serving)

/-- A command: it waits for those before it; a stale EGEN comes first, then the reserved bytes. -/
def State.mcmd (s : State) (slot : Fin 16) (cmd : BitVec 512) (e : Event) (anyGen : Bool) (used : List (Nat × Nat))
    (f : State → McEnd) : Out :=
  let n := slot.val
  if s.recovery then .next s
  else if s.mpBusy then .next ((s.later e).submitted n cmd)
  else
  let s : State := { s with mp := { s.mp with serving := false } }
  if !anyGen && mc cmd 4 4 != s.mp.gen.toNat then .next (s.respond n cmd Ms.stale [])
  else if mcBad cmd used then .next (s.respond n cmd Ms.badarg [])
  else
    match f s with
    | .fail st => .next (s.respond n cmd st [])
    | .ok s res => .next (s.bumpGen.respond n cmd Ms.ok res)
    | .report s res => .next (s.respond n cmd Ms.ok res)
    | .later s => .next { s.submitted n cmd with mp := { (s.submitted n cmd).mp with job := some (n, cmd) } }

/-- Runs the checks in their order, then the effect. -/
def mcChecked (checks : List (Bool × Nat)) (k : McEnd) : McEnd :=
  match firstFail checks with
  | some st => .fail st
  | none => k

/-- A PBUF that is no 64-byte-aligned address; `n` bytes there that do not all lie in the host's memory fail on the link. -/
def pbufChecks (a n : Nat) : List (Bool × Nat) := [(a % 64 != 0, Ms.badarg), (decide (2 ^ 48 < a + n), Ms.hosterr)]

/-- Bytes of host memory, as the PF reads and writes them. -/
def State.hostBytes (s : State) (a n : Nat) : Nat := memRead s.mem (spaHost + a) n

def State.hostStore (s : State) (a : Nat) (bs : List Byte) : State := s.hostPut s.nextId (spaHost + a) bs

/-! ## MODNUM, PCREATE, PDESTROY (R292, R443–R446) -/

/-- A module number, with its own bit of the PRESENT map. -/
def Mp.renumber (m : Mp) (n : Nat) : Mp :=
  { m with modnum := n, present := (m.present &&& ~~~(BitVec.ofNat 448 (2 ^ m.modnum))) ||| BitVec.ofNat 448 (2 ^ n) }

def execModnum (slot : Fin 16) (cmd : BitVec 512) (s : State) : Out :=
  s.mcmd slot cmd (.modnum slot cmd) false [(8, 2)] fun s =>
    let m := mc cmd 8 2
    mcChecked [(decide (432 ≤ m), Ms.badarg), (!s.parts.isEmpty, Ms.busy)]
      (.ok { s with mp := s.mp.renumber m } [])

/-- The block of PCREATE (R446). -/
structure PBlock where
  weight : Nat
  queues : Nat
  energy : Nat
  ways : List Nat
  save : Region
  journal : Region
  gate : Region
  tpool : Region
  exts : List Extent
  bad : Bool

/-- Pages from `p` on that are backed, or not, alike and in one stretch: up to the end of the module's HBM, of host memory,
or of what a core backs (R15, R273). -/
def stretchEnd (p : Nat) : Nat :=
  let a := p * 0x10000
  if a < spaHost then (p / 2 ^ 25 + 1) * 2 ^ 25
  else if a < spaHost + 2 ^ 48 then (spaHost + 2 ^ 48) / 0x10000
  else if p % 32 < 24 then p / 32 * 32 + 24
  else p / 32 * 32 + 32

/-- `n` pages from SPA page `p` on, as runs of pages at canonical addresses; none where a page has no backing (R273). -/
def State.spaRuns (s : State) : Nat → Nat → Nat → Option (List (Nat × Nat))
  | 0, _, n => if n = 0 then some [] else none
  | fuel + 1, p, n =>
    if n = 0 then some []
    else
      (s.normSpa (p * 0x10000)).bind fun a =>
        let k := min n (stretchEnd p - p)
        (State.spaRuns s fuel (p + k) (n - k)).map ((a / 0x10000, k) :: ·)

def Extent.runs (s : State) (x : Extent) : Option (List (Nat × Nat)) := s.spaRuns x.npages x.ppage x.npages

/-- An extent entry and whether it is ill formed: each of its pages has backing (R446). -/
def extentOf (s : State) (a : Nat) : Extent × Bool :=
  let g := s.hostBytes a 8
  let v := s.hostBytes (a + 8) 8
  let n := bits v 36 24 + 1
  let x : Extent := { cpage := g, npages := n, ppage := bits v 0 36, r := bit v 60, w := bit v 61, x := bit v 62 }
  (x, decide (2 ^ 32 < g + n) || bit v 63 || (x.runs s).isNone)

def State.pblock (s : State) (a : Nat) : PBlock :=
  let n := s.hostBytes (a + 4) 2
  let region (o : Nat) : Region := { base := s.hostBytes (a + o) 8, size := s.hostBytes (a + o + 8) 8 }
  let off (r : Region) : Bool :=
    r.base % 0x10000 != 0 || r.size % 0x10000 != 0 || decide (2 ^ 41 < r.base + r.size)
  let ways := (List.range 16).map (fun d => s.hostBytes (a + 0x10 + 2 * d) 2)
  let exts := (List.range (min n 64)).map (fun i => extentOf s (a + 0x80 + 16 * i))
  let regs := [region 0x30, region 0x40, region 0x50, region 0x60]
  { weight := s.hostBytes a 2, queues := s.hostBytes (a + 2) 2, energy := s.hostBytes (a + 8) 8, ways := ways
    save := region 0x30, journal := region 0x40, gate := region 0x50, tpool := region 0x60
    exts := exts.map (·.1)
    bad := n == 0 || decide (64 < n) || s.hostBytes (a + 6) 2 != 0 || s.hostBytes (a + 0x70) 16 != 0 ||
      ways.contains 0 || regs.any off || (region 0x30).size % saveArea != 0 || exts.any (·.2) }

def PBlock.regions (b : PBlock) : List Region := [b.save, b.journal, b.gate, b.tpool]

def Part.regions (p : Part) : List Region := [p.save, p.journal, p.gate, p.tpool]

/-- The pages of a region; none where it is empty. -/
def Region.runs (r : Region) : List (Nat × Nat) := if r.size = 0 then [] else [(r.base / 0x10000, r.size / 0x10000)]

def runsMeet (a b : List (Nat × Nat)) : Bool := a.any (fun x => b.any (fun y => meets x.1 x.2 y.1 y.2))

def anyMeet : List (List (Nat × Nat)) → Bool
  | [] => false
  | a :: l => l.any (runsMeet a) || anyMeet l

/-- The pages that regions and extents of partitions hold (R444, R446). -/
def State.pagesUsed (s : State) : List (Nat × Nat) :=
  s.parts.flatMap (fun p =>
    p.2.regions.flatMap Region.runs ++ (s.ctx p.2.root).extents.flatMap (fun x => (x.runs s).getD []))

/-- A region or an extent of a block meets one already in use, two regions of it meet, or an extent would let a context write
the partition's table pool (R278, R295, R444, R446). -/
def State.blockUsed (s : State) (b : PBlock) : Bool :=
  let regs := b.regions.map Region.runs
  anyMeet regs || runsMeet regs.flatten s.pagesUsed ||
  b.exts.any (fun x =>
    let l := (x.runs s).getD []
    runsMeet l s.pagesUsed || (x.w && runsMeet l b.tpool.runs))

/-- Two extents of a list hold a common guest page. -/
def extentsClash : List Extent → Bool
  | [] => false
  | x :: xs => xs.any (fun y => y.meets x.cpage x.npages) || extentsClash xs

/-- An interval meets one that a partition holds, or is to hold by a layout that is prepared (R292, R293). -/
def State.intervalUsed (s : State) (base n : Nat) : Bool :=
  s.parts.any fun p => !p.2.out && (meets base n p.2.hbase p.2.hlen ||
    (p.2.prepared.map (fun l => meets base n l.1 l.2)).getD false)

/-- Maps the pages of one 512 MiB block of a root's extent: one leaf where both ranges are aligned (R446). -/
def State.mapRoot (s : State) (p ttb : Nat) (x : Extent) (lo hi : Nat) : Option State :=
  let spa := x.ppage + (lo - x.cpage)
  (s.childTable p ttb (lo / 2 ^ 26)).bind fun (l1, s) =>
    let i := lo / bigPages % bigPages
    if lo % bigPages = 0 ∧ hi = lo + bigPages ∧ spa % bigPages = 0 then
      some (s.setEntry l1 i (leafEntry (spa * 0x10000) x.perm))
    else
      (s.childTable p l1 i).map fun (l2, s) =>
        (List.range (hi - lo)).foldl
          (fun s k => s.setEntry l2 ((lo + k) % bigPages) (leafEntry ((spa + k) * 0x10000) x.perm)) s

/-- Every extent of a root. -/
def State.mapRoots (s : State) (p ttb : Nat) (xs : List Extent) : Option State :=
  xs.foldl (fun (s : Option State) x =>
    (blocksOf x.cpage (x.cpage + x.npages)).foldl (fun s b => s.bind (fun s => s.mapRoot p ttb x b.1 b.2)) s) (some s)

/-- The compute cores of an interval, in Hilbert order. -/
def computeIn (base n : Nat) : List Nat := ((List.range n).map (· + base)).filter (fun h => !isService h)

/-- The lowest service core of an interval (R296). -/
def serviceIn (base n : Nat) : Nat := (((List.range n).map (· + base)).find? isService).getD base

/-- A root at its creation: LIVE, with the whole interval (R292, R296, R333). DESIGN CHOICE: no rule gives the offset of a
root's areas in its mailbox, for R297 speaks of CTXNEW; it is 0 (log 65). -/
def rootCtx (p c base n : Nat) (det : Bool) (b : PBlock) (ttb2 : Nat) : Ctx :=
  { Ctx.blank with
    part := p, parent := c, st := .live, ttb2 := ttb2, psaValid := true, svch := serviceIn base n
    coreBase := base, coreLen := n, extents := b.exts, energy := (b.energy : Int), queues := b.queues
    queuesGot := b.queues, cells := b.weight, cellsGot := b.weight
    remap := if det then computeIn base n else [] }

def partOf (base n c : Nat) (pdet : Nat) (b : PBlock) : Part :=
  { Part.blank with
    hbase := base, hlen := n, root := c, det := bit pdet 0, cken := bit pdet 1, weight := b.weight, pways := b.ways
    defMask := b.ways, save := b.save, journal := b.journal, gate := b.gate, tpool := b.tpool }

/-- The mailbox areas of a root begin as zeros. -/
def State.zeroAreas (s : State) (h : Nat) : State :=
  let a := aliasBase h
  { s with mem := s.mem.filter (fun e => !(decide (a ≤ e.1) && decide (e.1 < a + 0x8000))) }

/-- The partition, its root and the root's stage 2. -/
def State.makePart (s : State) (p c base n pdet : Nat) (b : PBlock) : Option State :=
  let s : State := { s with parts := tput s.parts p (partOf base n c pdet b) }
  (s.allocTable p).bind fun (t, s) =>
    let s : State := { s with ctxs := tput s.ctxs c (rootCtx p c base n (bit pdet 0) b t) }
    ((s.zeroAreas (serviceIn base n)).mapRoots p t b.exts)

def execPcreate (slot : Fin 16) (cmd : BitVec 512) (s : State) : Out :=
  s.mcmd slot cmd (.pcreate slot cmd) false [(8, 1), (0x0A, 2), (0x0C, 2), (0x0E, 1), (0x10, 8)] fun s =>
    let p := mc cmd 8 1
    let base := mc cmd 0x0A 2
    let n := mc cmd 0x0C 2
    let pdet := mc cmd 0x0E 1
    let a := mc cmd 0x10 8
    let b := s.pblock a
    let c := tfree s.ctxs 0 4096
    let made := c.bind (fun c => s.makePart p c base n pdet b)
    mcChecked
      ([(decide (48 ≤ p) || decide (n < 16) || decide (4096 < base + n) || decide (4 ≤ pdet), Ms.badarg)] ++
       pbufChecks a (0x80 + 16 * s.hostBytes (a + 4) 2) ++ [(b.bad, Ms.badarg), (decide (48 ≤ s.parts.length), Ms.nores), ((tget s.parts p).isSome, Ms.inuse),
        (s.intervalUsed base n || s.blockUsed b || extentsClash b.exts, Ms.overlap), (made.isNone, Ms.nores)])
      (match made with
        | some s => .ok s [(8, 8, c.getD 0)]
        | none => .fail Ms.nores)

def execPdestroy (slot : Fin 16) (cmd : BitVec 512) (s : State) : Out :=
  s.mcmd slot cmd (.pdestroy slot cmd) false [(8, 1)] fun s =>
    match tget s.parts (mc cmd 8 1) with
    | none => .fail Ms.noctx
    | some p =>
      let covers := s.translated (s.subtree p.root)
      let (id, s) := (s.deleteCtx p.root).fresh
      .later { s with drains := s.drains ++ [{ id := id, kind := .delete p.root p.root, covers := covers }] }

/-! ## PREPARE, COMMIT, ABORT (R293) -/

/-- An entry of PREPARE: partition, new HBASE, new HLEN; none where a bit beyond them is set. -/
def layoutOf (v : Nat) : Option (Nat × Nat × Nat) :=
  if bits v 6 10 != 0 || bits v 28 4 != 0 || bits v 45 19 != 0 then none else some (bits v 0 6, bits v 16 12, bits v 32 13)

/-- The intervals that a partition's cores leave. -/
def leavingRuns (p : Part) (base n : Nat) : List (Nat × Nat) :=
  [(p.hbase, min (p.hbase + p.hlen) base - p.hbase), (Nat.max p.hbase (base + n), p.hbase + p.hlen - Nat.max p.hbase (base + n))]

/-- A core that leaves lies in the core grant of a context below the root. -/
def State.leavesGrant (s : State) (q base n : Nat) : Bool :=
  s.ctxs.any fun x => x.2.part == q && x.2.level != 0 && decide (0 < x.2.coreLen) &&
    (leavingRuns (s.part q) base n).any (fun r => meets r.1 r.2 x.2.coreBase x.2.coreLen && decide (0 < r.2))

/-- The interval of a partition under a new layout. -/
def State.newInterval (s : State) (ls : List (Nat × Nat × Nat)) (q : Nat) : Nat × Nat :=
  match ls.find? (fun l => l.1 == q) with
  | some (_, b, n) => (b, n)
  | none => ((s.part q).hbase, (s.part q).hlen)

/-- The new interval of a partition meets another's; a partition that is castled out holds none (R293, R417). -/
def State.layoutClash (s : State) (ls : List (Nat × Nat × Nat)) (q base n : Nat) : Bool :=
  !(s.part q).out && s.parts.any fun p => p.1 != q && !p.2.out && (let (b, m) := s.newInterval ls p.1; meets base n b m)

/-- The layout that is prepared. -/
def State.preparedLayout (s : State) : List (Nat × Nat × Nat) :=
  s.parts.filterMap (fun p => p.2.prepared.map (fun l => (p.1, l.1, l.2)))

def State.startPrepare (s : State) (ls : List (Nat × Nat × Nat)) : State :=
  let s := ls.foldl (fun s (q, b, n) => s.modPart q fun p => { p with prepared := some (b, n) }) s
  let s := ls.foldl (fun s (q, b, n) =>
    (leavingRuns (s.part q) b n).foldl (fun s r => s.stopOn (s.subtree (s.part q).root) r.1 r.2) s) s
  { s with mp := { s.mp with preparing := true, prepared := false } }

def execPrepare (slot : Fin 16) (cmd : BitVec 512) (s : State) : Out :=
  s.mcmd slot cmd (.prepare slot cmd) false [(8, 8), (0x10, 8)] fun s =>
    let k := mc cmd 8 8
    let a := mc cmd 0x10 8
    let raw := (List.range (min k 48)).map (fun i => layoutOf (s.hostBytes (a + 8 * i) 8))
    let ls := raw.filterMap id
    let names := ls.map (·.1)
    mcChecked
      ([(k == 0 || decide (48 < k), Ms.badarg)] ++ pbufChecks a (8 * k) ++
       [(raw.any (·.isNone) || names.eraseDups.length != names.length || ls.any (fun l => decide (4096 < l.2.1 + l.2.2)),
          Ms.badarg),
        (names.any (fun q => (tget s.parts q).isNone), Ms.noctx),
        (s.mp.preparing, Ms.busy),
        (ls.any (fun l => decide (l.2.2 < 16) || s.leavesGrant l.1 l.2.1 l.2.2 || s.layoutClash ls l.1 l.2.1 l.2.2),
          Ms.inuse)])
      (.ok (s.startPrepare ls) [])

/-- No unit is left on a core that leaves its partition. -/
def State.prepareDrained (s : State) : Bool :=
  s.parts.all fun (q, p) =>
    match p.prepared with
    | some (b, n) => (leavingRuns p b n).all (fun r => !s.unitsOn r.1 r.2 (fun c => (s.ctx c).part == q))
    | none => true

/-- PREPARE_DRAIN_DONE. -/
def execPrepareDrainDone (s : State) : Out :=
  .next (if s.mp.preparing && s.prepareDrained then { s with mp := { s.mp with prepared := true } } else s)

/-- The new interval of a partition, its root's core grant, and the logical cores of cores that leave it: they go to those
that remain or, where none does, to those of the new interval (R333). -/
def State.commitPart (s : State) (q base n : Nat) : State :=
  let c := (s.part q).root
  let kept := (computeIn base n).filter (s.ownCore c)
  let left := if kept.isEmpty then computeIn base n else kept
  let s := s.modCtx c fun x =>
    (x.remapOut (fun h => !(decide (base ≤ h) && decide (h < base + n))) left)
  let s := s.modCtx c fun x => { x with coreBase := base, coreLen := n }
  s.modPart q fun p => { p with hbase := base, hlen := n, prepared := none }

/-- COMMIT, once PREPARE has drained. Where a partition has come back from its castle store meanwhile, onto cores that the new
layout gives away, it waits: no two partitions may hold a core (R292, R417; log 66). -/
def execCommit (slot : Fin 16) (cmd : BitVec 512) (s : State) : Out :=
  s.mcmd slot cmd (.commit slot cmd) false [] fun s =>
    let ls := s.preparedLayout
    if !s.mp.prepared || ls.any (fun l => s.layoutClash ls l.1 l.2.1 l.2.2) then .fail Ms.busy
    else
      let s := s.parts.foldl (fun s (q, p) => match p.prepared with
        | some (b, n) => s.commitPart q b n
        | none => s) s
      .ok { s with mp := { s.mp with preparing := false, prepared := false } } []

def execAbort (slot : Fin 16) (cmd : BitVec 512) (s : State) : Out :=
  s.mcmd slot cmd (.abort slot cmd) false [] fun s =>
    if !s.mp.preparing then .fail Ms.busy
    else
      .ok { s with
        parts := tmap s.parts (fun _ p => { p with prepared := none })
        mp := { s.mp with preparing := false, prepared := false } } []

/-! ## VFASSIGN, VFRESET (R297, R385, R445, R449) -/

def execVfassign (slot : Fin 16) (cmd : BitVec 512) (s : State) : Out :=
  s.mcmd slot cmd (.vfassign slot cmd) false [(8, 2), (0x0A, 2), (0x0C, 1), (0x0D, 1)] fun s =>
    let first := mc cmd 8 2
    let n := mc cmd 0x0A 2 + 1
    let p := mc cmd 0x0C 1
    let w := mc cmd 0x0D 1
    let vs := (List.range (min n 512)).map (· + first)
    if p = 0xFF then
      mcChecked
        [(decide (512 < first + n), Ms.badarg), (vs.any (fun v => (s.vfOf v).resetting.isSome), Ms.busy),
         (vs.any (fun v => (s.vfOf v).bound.isSome), Ms.inuse)]
        (.ok (vs.foldl (fun s v => s.modVf v fun x => { x with part := none, weight := 1, masks := [] }) s) [])
    else
      mcChecked
        [(decide (512 < first + n) || w == 0, Ms.badarg), ((tget s.parts p).isNone, Ms.noctx),
         (vs.any (fun v => (s.vfOf v).resetting.isSome), Ms.busy),
         (vs.any (fun v => ((s.vfOf v).part.map (fun q => q != p)).getD false), Ms.inuse)]
        (.ok (vs.foldl (fun s v => s.modVf v fun x =>
          { x with part := some p, weight := w, masks := if x.part.isSome then x.masks else (s.part p).pways }) s) [])

def execVfreset (slot : Fin 16) (cmd : BitVec 512) (s : State) : Out :=
  let cmd := putBytes cmd 0 1 0x10
  s.mcmd slot cmd (.vfreset slot cmd) false [(8, 2)] fun s =>
    let v := mc cmd 8 2
    mcChecked [(decide (512 ≤ v), Ms.badarg)] (.later (s.resetVf v))

/-! ## SLICE (R417, R418) -/

/-- A slice setting replaces those that name its partitions. -/
def State.setSlice (s : State) (x : Slice) : State :=
  let names (p : Nat) : Bool := p == x.a || x.b == some p
  let old := s.mp.slices.filter (fun y => names y.a || (y.b.map names).getD false)
  let loose (p : Nat) : Bool := old.any (fun y => y.a == p || y.b == some p)
  { s with
    parts := tmap s.parts (fun p q =>
      { q with partner :=
          if p = x.a then x.b else if x.b = some p then some x.a else if loose p then none else q.partner })
    mp := { s.mp with slices := s.mp.slices.filter (fun y => !(names y.a || (y.b.map names).getD false)) ++ [x] } }

def execSlice (slot : Fin 16) (cmd : BitVec 512) (s : State) : Out :=
  s.mcmd slot cmd (.slice slot cmd) false [(8, 1), (9, 1), (0x0C, 4), (0x10, 4), (0x18, 8)] fun s =>
    let a := mc cmd 8 1
    let b := mc cmd 9 1
    let partner := if b = 0xFF then none else some b
    let t0 := mc cmd 0x18 8
    let pa := s.part a
    let pb := s.part b
    mcChecked
      [((tget s.parts a).isNone || (partner.isSome && (tget s.parts b).isNone), Ms.noctx),
       (partner == some a || (partner.isSome && !(pa.hbase == pb.hbase && pa.hlen == pb.hlen)) || decide (t0 < s.now + 4096),
         Ms.badarg)]
      (.ok (s.setSlice { a := a, b := partner, sa := mc cmd 0x0C 4, sb := mc cmd 0x10 4, t0 := t0 }) [])

/-! ## LEAVECAP, UNFENCE (R435, R454) -/

def execLeavecap (slot : Fin 16) (cmd : BitVec 512) (s : State) : Out :=
  s.mcmd slot cmd (.leavecap slot cmd) false [(8, 1), (0x0A, 2)] fun s =>
    let d := mc cmd 8 1
    let n := mc cmd 0x0A 2
    mcChecked [(decide (16 ≤ d) || decide (1024 < n), Ms.badarg)] (.ok (s.modDie d fun x => { x with cap := n }) [])

def execUnfence (slot : Fin 16) (cmd : BitVec 512) (s : State) : Out :=
  s.mcmd slot cmd (.unfence slot cmd) false [(8, 1), (9, 1)] fun s =>
    let d := mc cmd 8 1
    let w := mc cmd 9 1
    mcChecked [(decide (16 ≤ d) || decide (16 ≤ w), Ms.badarg)]
      (.ok (s.modDie d fun x => { x with fenced := x.fenced &&& ~~~(BitVec.ofNat 16 (2 ^ w)) }) [])

/-! ## DEBUG (R409, R424, R425) -/

/-- The parameter bytes of DEBUG. -/
def dbgUsed : List (Nat × Nat) := [(8, 1), (0x0A, 2), (0x0C, 1), (0x0D, 1), (0x0E, 1), (0x10, 8), (0x18, 8)]

def dbgCore (cmd : BitVec 512) : Nat := mc cmd 0x0A 2
def dbgTid (cmd : BitVec 512) : Nat := mc cmd 0x0C 1
def dbgUnit (cmd : BitVec 512) : Bool := bit (mc cmd 0x0D 1) 0

/-- A live thread of a resident unit. -/
def State.hasThread (s : State) (h tid : Nat) : Bool :=
  (s.core h).unit.isSome && ((tget (s.core h).threads tid).map (·.exited.isNone)).getD false

/-- The threads that a command names: one, or every one of the unit. -/
def State.dbgThreads (s : State) (cmd : BitVec 512) : List Nat :=
  if dbgUnit cmd then ((s.core (dbgCore cmd)).threads.filter (fun t => t.2.exited.isNone)).map (·.1) else [dbgTid cmd]

/-- The state in which a debugger reads a thread: of the resident unit or, where that has no such thread, of the unit evicted
there earliest that has it, as if it had returned (R416). -/
def State.dbgView (s : State) (h tid : Nat) : Option State :=
  if s.hasThread h tid then some s
  else ((s.core h).evicted.map (fun e => s.returnUnit e.res.id.lnum e.res.id.index h e.res.raised)).find?
    (fun t => t.hasThread h tid)

/-- What HALT and RESUME name is not there: a thread, or with UNIT a unit (R445). -/
def dbgGone (cmd : BitVec 512) (s : State) : Bool :=
  if dbgUnit cmd then (s.core (dbgCore cmd)).unit.isNone else !s.hasThread (dbgCore cmd) (dbgTid cmd)

/-- The resident thread that a command names is not there. -/
def dbgAbsent (cmd : BitVec 512) (s : State) : Bool := !s.hasThread (dbgCore cmd) (dbgTid cmd)

/-- The thread that is to be read is not there. -/
def dbgUnseen (cmd : BitVec 512) (s : State) : Bool := (s.dbgView (dbgCore cmd) (dbgTid cmd)).isNone

/-- A resident thread that is not halted is not read; one of an evicted unit runs nowhere (R416, R445; log 76). -/
def State.dbgRuns (s : State) (h tid : Nat) : Bool := s.hasThread h tid && !(s.thread h tid).halted

/-- A command of the debugger on what it finds there. -/
def State.debug (s : State) (slot : Fin 16) (cmd : BitVec 512) (e : Event) (gone : State → Bool)
    (f : State → Nat → Nat → McEnd) : Out :=
  s.mcmd slot cmd e false dbgUsed fun s =>
    let h := dbgCore cmd
    mcChecked
      [(decide (4096 ≤ h) || decide (2 ≤ mc cmd 0x0D 1) || decide (2 ≤ mc cmd 0x0E 1), Ms.badarg), (gone s, Ms.noctx)]
      (f s h (dbgTid cmd))

/-- A thread halts at an instruction boundary: its pending instructions complete (R424). -/
def State.haltThread (s : State) (h tid : Nat) : State :=
  let s := s.drainPend h tid
  let s := (s.takeRefused h tid).getD s
  s.modThread h tid fun t => { t with halted := true, stepping := false }

def execDebugHalt (slot : Fin 16) (cmd : BitVec 512) (s : State) : Out :=
  s.debug slot cmd (.debugHalt slot cmd) (dbgGone cmd) fun s h _ =>
    .ok ((s.dbgThreads cmd).foldl (fun s tid => s.haltThread h tid) s) []

def execDebugStep (slot : Fin 16) (cmd : BitVec 512) (s : State) : Out :=
  s.debug slot cmd (.debugStep slot cmd) (dbgAbsent cmd) fun s h tid =>
    if !(s.thread h tid).halted then .fail Ms.busy
    else .ok (s.modThread h tid fun t => { t with halted := false, stepping := true }) []

def execDebugResume (slot : Fin 16) (cmd : BitVec 512) (s : State) : Out :=
  s.debug slot cmd (.debugResume slot cmd) (dbgGone cmd) fun s h _ =>
    .ok ((s.dbgThreads cmd).foldl (fun s tid =>
      s.modThread h tid fun t => { t with halted := false, stepping := false }) s) []

def execDebugHalten (slot : Fin 16) (cmd : BitVec 512) (s : State) : Out :=
  s.debug slot cmd (.debugHalten slot cmd) (dbgAbsent cmd) fun s h tid =>
    .ok (s.modThread h tid fun t => { t with t := { t.t with halten := bit (mc cmd 0x0E 1) 0 } }) []

/-- A register of a thread by SEL (R445). A BFMT number reads the bank's register whether or not the unit of the halted
thread has claimed the bank: R36 speaks of SRR and SRW only (DESIGN CHOICE, log 76). -/
def State.dbgRead (s : State) (h tid sel : Nat) : Option Word :=
  let r := (s.thread h tid).r
  if sel < 32 then some (r.readG (Fin.ofNat 32 sel))
  else if sel < 64 then some (r.readF (Fin.ofNat 32 sel))
  else if sel = 64 then some r.pc
  else if 0x1000 ≤ sel ∧ sel < 0x2000 ∧ sysAssigned h (sel - 0x1000) then s.sysRead h tid (sel - 0x1000)
  else none

/-- A write by SEL (R445). One of a BFMT number does not wait as R38 makes an SRW wait (DESIGN CHOICE, log 76); one of
WAYMASK is the management processor's own (R4). -/
def State.dbgWrite (s : State) (h tid sel : Nat) (v : Word) : State :=
  if sel < 64 then s.modThread h tid (·.modR (·.writeN sel v))
  else if sel = 64 then s.modThread h tid (·.modR (fun r => { r with pc := v &&& ~~~3#64 }))
  else if sel = 0x10A1 then s.writeWaymask h v true
  else s.sysWrite h tid (sel - 0x1000) v

def execDebugRead (slot : Fin 16) (cmd : BitVec 512) (s : State) : Out :=
  s.debug slot cmd (.debugRead slot cmd) (dbgUnseen cmd) fun s h tid =>
    match ((s.dbgView h tid).getD s).dbgRead h tid (mc cmd 0x10 8) with
    | none => .fail Ms.badarg
    | some v => if s.dbgRuns h tid then .fail Ms.busy else .report s [(8, 8, v.toNat)]

def execDebugWrite (slot : Fin 16) (cmd : BitVec 512) (s : State) : Out :=
  s.debug slot cmd (.debugWrite slot cmd) (dbgAbsent cmd) fun s h tid =>
    let sel := mc cmd 0x10 8
    if (s.dbgRead h tid sel).isNone then .fail Ms.badarg
    else if !(s.thread h tid).halted then .fail Ms.busy
    else .ok (s.dbgWrite h tid sel (w64 (mc cmd 0x18 8))) []

/-- An entry of the ring: ply number, word address, word. -/
def PlyEntry.bytes (e : PlyEntry) : List Byte := bytesOf 4 e.ply.toNat ++ bytesOf 8 e.addr.toNat ++ bytesOf 4 e.word.toNat

/-- The 64 entries, oldest first; entries that no dispatch has filled are zeros. -/
def Thread.ringBytes (t : Thread) : List Byte :=
  List.replicate (16 * (64 - t.ring.length)) 0 ++ t.ring.flatMap PlyEntry.bytes

def execDebugRing (slot : Fin 16) (cmd : BitVec 512) (s : State) : Out :=
  s.debug slot cmd (.debugRing slot cmd) (dbgUnseen cmd) fun s h tid =>
    let a := mc cmd 0x18 8
    mcChecked (pbufChecks a 1024 ++ [(s.dbgRuns h tid, Ms.busy)])
      (.report (s.hostStore a (((s.dbgView h tid).getD s).thread h tid).ringBytes) [])

/-! ## ATTEST, SUMMARY (R450, R451) -/

/-- A report to a buffer: too small a buffer gives BADARG. -/
def State.writeReport (s : State) (a room : Nat) (bs : List Byte) (clear : State → State) : McEnd :=
  mcChecked (pbufChecks a 1 ++ [(decide (room < bs.length), Ms.badarg), (decide (2 ^ 48 < a + bs.length), Ms.hosterr)])
    (.report (clear (s.hostStore a bs)) [(8, 8, bs.length)])

/-- A partition's layout and PDET in a report. -/
def partBytes (n : Nat) (p : Part) : List Byte :=
  bytesOf 2 n ++ bytesOf 2 p.hbase ++ bytesOf 2 p.hlen ++ bytesOf 2 (b2n p.det + 2 * b2n p.cken)

/-- What an attestation states: nonce, the three measurements, GEN, layouts. -/
def State.attestBody (s : State) (cmd : BitVec 512) : List Byte :=
  bytesOf 32 (mc cmd 8 32) ++ s.mp.measured.getD ((List.range 96).map Config.measurement) ++ bytesOf 4 s.mp.gen.toNat ++
  bytesOf 4 s.parts.length ++ s.parts.flatMap (fun p => partBytes p.1 p.2)

/-- ATTEST: the report, and the signature over its digest. -/
def execAttest (slot : Fin 16) (cmd : BitVec 512) (s : State) : Out :=
  s.mcmd slot cmd (.attest slot cmd) false [(8, 32), (0x28, 8), (0x30, 8)] fun s =>
    let body := s.attestBody cmd
    let sig := (List.range 16224).map (Config.attestSignature (digestNum (sha256 body)))
    s.writeReport (mc cmd 0x28 8) (mc cmd 0x30 8) (body ++ sig) id

def Report.bytes : Report → List Byte
  | .charge t => bytesOf 4 0 ++ bytesOf 4 t
  | .loss c => bytesOf 4 1 ++ bytesOf 4 c
  | .reset v => bytesOf 4 2 ++ bytesOf 4 v
  | .portExcluded p => bytesOf 4 3 ++ bytesOf 4 p
  | .shortGuarantee p n => bytesOf 4 4 ++ bytesOf 2 p ++ bytesOf 2 n

def maskBytes (ms : List Nat) : List Byte := (List.range 16).flatMap (fun d => bytesOf 2 (ms.getD d 0))

def Slice.bytes (x : Slice) : List Byte :=
  bytesOf 2 x.a ++ bytesOf 2 (x.b.getD 0xFF) ++ bytesOf 4 x.sa ++ bytesOf 4 x.sb ++ bytesOf 4 0 ++ bytesOf 8 x.t0

def State.summaryBytes (s : State) : List Byte :=
  let part (p : Nat × Part) : List Byte :=
    partBytes p.1 p.2 ++ bytesOf 4 p.2.root ++ bytesOf 2 (p.2.prepared.getD (0xFFFF, 0xFFFF)).1 ++
    bytesOf 2 (p.2.prepared.getD (0xFFFF, 0xFFFF)).2 ++ maskBytes p.2.pways ++ maskBytes p.2.defMask
  let vf (v : Nat × Vf) : List Byte :=
    bytesOf 2 v.1 ++ bytesOf 2 (v.2.part.getD 0xFF) ++ bytesOf 2 (v.2.bound.getD 0xFFFF) ++ bytesOf 2 v.2.weight ++
    maskBytes v.2.masks
  let die (d : Nat) : List Byte := bytesOf 2 (s.die d).fenced.toNat ++ bytesOf 2 (s.die d).cap
  bytesOf 4 s.mp.gen.toNat ++ bytesOf 4 s.mp.modnum ++ bytesOf 4 s.parts.length ++ bytesOf 4 s.vfs.length ++
  bytesOf 4 s.mp.slices.length ++ bytesOf 4 s.mp.reports.length ++ s.parts.flatMap part ++ s.vfs.flatMap vf ++
  (List.range 16).flatMap die ++ s.mp.slices.flatMap Slice.bytes ++ s.mp.reports.flatMap Report.bytes

/-- SUMMARY; a buffer that is too small leaves the size needed in 0x10. -/
def execSummary (slot : Fin 16) (cmd : BitVec 512) (s : State) : Out :=
  let bs := s.summaryBytes
  let room := mc cmd 0x10 8
  if !s.mpBusy && !s.recovery && !mcBad cmd [(8, 8), (0x10, 8)] && (firstFail (pbufChecks (mc cmd 8 8) 1)).isNone &&
     decide (room < bs.length) then
    .next ({ s with mp := { s.mp with serving := false } : State }.respond slot.val cmd Ms.badarg [(0x10, 8, bs.length)])
  else
    s.mcmd slot cmd (.summary slot cmd) true [(8, 8), (0x10, 8)] fun s =>
      s.writeReport (mc cmd 8 8) room bs fun s => { s with mp := { s.mp with reports := [] } }

/-! ## DOMAIN, GROUPTAB (R447, R448) -/

/-- A port entry of DOMAIN. -/
def portEntry (v : Nat) : PortEntry := { seg := bits v 0 16, midx := bits v 16 4, asked := bits v 20 2, en := bit v 22 }

/-- The port assignments: each waits for the training of its port, which the command starts (R447). -/
def State.setPorts (s : State) (vs : List Nat) : State :=
  { s with
    ports := vs.zipIdx.foldl (fun t (v, p) =>
      let e := portEntry v
      match tget t p with
      | some q => tput t p { q with entry := some e }
      | none => if e.en then tput t p { Port.reset with entry := some e } else t) s.ports }

def execDomain (slot : Fin 16) (cmd : BitVec 512) (s : State) : Out :=
  s.mcmd slot cmd (.domain slot cmd) false [(8, 8)] fun s =>
    let a := mc cmd 8 8
    let flags := s.hostBytes a 8
    let map := s.hostBytes (a + 8) 56
    let vs := (List.range 64).map (fun p => s.hostBytes (a + 0x40 + 8 * p) 8)
    let bad (v : Nat) : Bool := bits v 20 2 == 3 || decide (2 ^ 23 ≤ v)
    mcChecked
      (pbufChecks a 0x240 ++ [(decide (4 ≤ flags) || decide (2 ^ 432 ≤ map) || vs.any bad, Ms.badarg),
        (bit flags 0 && !s.parts.isEmpty, Ms.busy)])
      (let s : State :=
        if bit flags 1 then
          { s with mp := { s.mp with present := BitVec.ofNat 448 map ||| BitVec.ofNat 448 (2 ^ s.mp.modnum) } }
        else s
       .ok (if bit flags 0 then s.setPorts vs else s) [])

/-- An entry of GROUPTAB. -/
def groupEntry (v w : Nat) : GroupEnt :=
  { gid := bits v 0 8, ng := bits v 8 5, j := bits v 16 4, g := bits v 20 5, l1seg := bits v 32 16, l1port := bits v 48 6
    rsega := bits w 0 16, rporta := bits w 16 6, ina := bit w 22, rsegb := bits w 32 16, rportb := bits w 48 6
    inb := bit w 54, bridge := bit w 55 }

/-- The bits of an entry outside its fields. -/
def groupReserved (v w : Nat) : Bool :=
  bits v 13 3 != 0 || bits v 25 7 != 0 || bits v 54 10 != 0 || bits w 23 9 != 0 || bits w 56 8 != 0

/-- A port of this module is on a segment, by what DOMAIN said of it last. -/
def State.portOn (s : State) (p n : Nat) : Bool :=
  let q := (s.port p).enter
  q.en && q.seg == n

/-- The fields of an entry that is written are outside their limits. -/
def State.groupBad (s : State) (e : GroupEnt) : Bool :=
  decide (27 < e.ng) || decide (e.ng ≤ e.g) || !s.portOn e.l1port e.l1seg || (e.ina && !s.portOn e.rporta e.rsega) ||
  (e.inb && !s.portOn e.rportb e.rsegb) || (decide (e.ng ≤ 14) && (e.rsegb != 0 || e.inb))

/-- The segments of an entry. -/
def GroupEnt.segs (e : GroupEnt) : List Nat :=
  [e.l1seg] ++ (if e.ina then [e.rsega] else []) ++ (if e.inb then [e.rsegb] else [])

/-- A handle of this module is bound to a domain group. -/
def State.groupBound (s : State) (gid : Nat) : Bool := s.handles.any (fun x => x.2.dom && x.2.gid == gid)

def State.setGroup (s : State) (e : GroupEnt) : State :=
  let rest := s.mp.groups.filter (fun x => x.gid != e.gid)
  { s with mp := { s.mp with groups := if e.ng = 0 then rest else rest ++ [e] } }

def execGrouptab (slot : Fin 16) (cmd : BitVec 512) (s : State) : Out :=
  s.mcmd slot cmd (.grouptab slot cmd) false [(8, 8), (0x10, 8)] fun s =>
    let a := mc cmd 8 8
    let n := mc cmd 0x10 8
    let raw := (List.range (min n 256)).map (fun i => (s.hostBytes (a + 16 * i) 8, s.hostBytes (a + 16 * i + 8) 8))
    let es := raw.map (fun r => groupEntry r.1 r.2)
    let written := es.filter (fun e => e.ng != 0)
    mcChecked
      ([(n == 0 || decide (256 < n), Ms.badarg)] ++ pbufChecks a (16 * n) ++
       [(raw.any (fun r => groupReserved r.1 r.2) || written.any s.groupBad, Ms.badarg),
        (written.any (fun e => e.segs.any (fun k => (tget (s.seg k).groups e.gid).isSome)), Ms.inuse),
        (es.any (fun e => e.ng == 0 && s.groupBound e.gid), Ms.busy)])
      (.ok (es.foldl State.setGroup s) [])

/-! ## An OP that is not listed (R443) -/

def execMcmdReservedOp (slot : Fin 16) (cmd : BitVec 512) (s : State) : Out :=
  s.mcmd slot cmd (.mcmdReservedOp slot cmd) false [(8, 56), (2, 2)] fun _ => .fail Ms.badarg

end Sys2Proof.Machine
end

