-- ==== Sys2Proof/Machine/Tag.lean ====
section
/-! DEFINITION. The tag table: TGLK, TGSET, TGINV, TGRD and TGCLR (R147–R151). -/

namespace Sys2Proof.Machine

/-- The block number, the set and the offset of a key (R148). -/
def tagBlk (k : Word) (sz : Nat) : Nat := k.toNat / 2 ^ (7 + sz)
def tagSet (k : Word) (sz : Nat) : Nat := tagBlk k sz % 64
def tagOff (k : Word) (sz : Nat) : Nat := k.toNat % 2 ^ (7 + sz)

def TagEntry.blank : TagEntry := { v := false, sz := 0, blk := 0, slot := 0 }

/-- Entry of a set and way; four ways to a set. DESIGN CHOICE: one that nothing has written since the unit started reads
as zeros (R150; log 80). -/
def Core.tag (c : Core) (set way : Nat) : TagEntry := (tget c.tags (4 * set + way)).getD TagEntry.blank

def TagEntry.hits (e : TagEntry) (sz blk : Nat) : Bool := e.v && e.sz == sz && e.blk == blk

/-- slot_backed (R150). -/
def State.slotBacked (s : State) (h x n : Nat) : Bool :=
  if isService h then decide (x + n ≤ 0x200000)
  else decide (x + n ≤ 0x180000) &&
    (List.range ((x + n - 1) / 0x4000 - x / 0x4000 + 1)).all (fun i => (s.core h).claimed (x / 0x4000 + i))

def execTglk (d a : Reg) (sz : Fin 8) (s : State) : Out :=
  let k := s.g a
  let c := s.core s.curCore
  match (List.range 4).find? (fun w => (c.tag (tagSet k sz) w).hits sz (tagBlk k sz)) with
  | some w => s.result d (w64 ((c.tag (tagSet k sz) w).slot + tagOff k sz))
  | none => s.result d (w64 0xFFFFFFFFFFFFFFFF)

def execTgset (a b : Reg) (sz : Fin 8) (way : Fin 4) (s : State) : Out :=
  let k := s.g a
  let slot := (s.g b).toNat
  let n := 2 ^ (7 + sz.val)
  if slot % n ≠ 0 ∨ !s.slotBacked s.curCore slot n then .next (s.trap 0x0C (addrInfo (s.g b) 0 0))
  else
    let e : TagEntry := { v := true, sz := sz, blk := tagBlk k sz, slot := slot % 2 ^ 21 }
    .next (s.modCore s.curCore fun c => { c with tags := tput c.tags (4 * tagSet k sz + way) e }).retire

def execTginv (d a : Reg) (sz : Fin 8) (s : State) : Out :=
  let k := s.g a
  let hit (i : Nat) (e : TagEntry) : Bool := i / 4 == tagSet k sz && e.hits sz (tagBlk k sz)
  let n := ((List.range 4).filter (fun w => ((s.core s.curCore).tag (tagSet k sz) w).hits sz (tagBlk k sz))).length
  (s.modCore s.curCore fun c =>
    { c with tags := tmap c.tags (fun i e => if hit i e then { e with v := false } else e) }).result d (w64 n)

def execTgrd (d a : Reg) (slotPart : Bool) (s : State) : Out :=
  let k := (s.g a).toNat
  let e := (s.core s.curCore).tag (bits k 0 6) (bits k 6 2)
  if slotPart then s.result d (w64 e.slot)
  else s.result d (w64 (e.blk * 2 ^ (7 + e.sz) ||| e.sz * 2 ||| b2n e.v))

def execTgclr (s : State) : Out :=
  .next (s.modCore s.curCore fun c => { c with tags := tmap c.tags (fun _ e => { e with v := false }) }).retire

end Sys2Proof.Machine
end

