-- ==== Sys2Proof/Machine/Dispatch.lean ====
section
/-! DEFINITION. The dispatch: one arm per instruction, each a call of its meaning. -/

namespace Sys2Proof.Machine

def exec (i : Instr) (s : State) : Host.Outcome State Fault Refusal :=
  match i with
  | .add d a b => Sys2Proof.Machine.execAdd d a b s
  | .sub d a b => Sys2Proof.Machine.execSub d a b s
  | .mul d a b => Sys2Proof.Machine.execMul d a b s
  | .mulh d a b => Sys2Proof.Machine.execMulh d a b s
  | .mulhz d a b => Sys2Proof.Machine.execMulhz d a b s
  | .div d a b => Sys2Proof.Machine.execDiv d a b s
  | .divz d a b => Sys2Proof.Machine.execDivz d a b s
  | .rem d a b => Sys2Proof.Machine.execRem d a b s
  | .remz d a b => Sys2Proof.Machine.execRemz d a b s
  | .and d a b => Sys2Proof.Machine.execAnd d a b s
  | .or d a b => Sys2Proof.Machine.execOr d a b s
  | .xor d a b => Sys2Proof.Machine.execXor d a b s
  | .andn d a b => Sys2Proof.Machine.execAndn d a b s
  | .sll d a b => Sys2Proof.Machine.execSll d a b s
  | .srl d a b => Sys2Proof.Machine.execSrl d a b s
  | .sra d a b => Sys2Proof.Machine.execSra d a b s
  | .rol d a b => Sys2Proof.Machine.execRol d a b s
  | .ror d a b => Sys2Proof.Machine.execRor d a b s
  | .slt d a b => Sys2Proof.Machine.execSlt d a b s
  | .sltz d a b => Sys2Proof.Machine.execSltz d a b s
  | .min d a b => Sys2Proof.Machine.execMin d a b s
  | .max d a b => Sys2Proof.Machine.execMax d a b s
  | .minz d a b => Sys2Proof.Machine.execMinz d a b s
  | .maxz d a b => Sys2Proof.Machine.execMaxz d a b s
  | .sel d a b => Sys2Proof.Machine.execSel d a b s
  | .clz d a => Sys2Proof.Machine.execClz d a s
  | .ctz d a => Sys2Proof.Machine.execCtz d a s
  | .ffs d a => Sys2Proof.Machine.execFfs d a s
  | .popc d a => Sys2Proof.Machine.execPopc d a s
  | .brev d a => Sys2Proof.Machine.execBrev d a s
  | .bswap d a => Sys2Proof.Machine.execBswap d a s
  | .addw d a b => Sys2Proof.Machine.execAddw d a b s
  | .subw d a b => Sys2Proof.Machine.execSubw d a b s
  | .mulw d a b => Sys2Proof.Machine.execMulw d a b s
  | .divw d a b => Sys2Proof.Machine.execDivw d a b s
  | .divwz d a b => Sys2Proof.Machine.execDivwz d a b s
  | .remw d a b => Sys2Proof.Machine.execRemw d a b s
  | .remwz d a b => Sys2Proof.Machine.execRemwz d a b s
  | .sllw d a b => Sys2Proof.Machine.execSllw d a b s
  | .srlw d a b => Sys2Proof.Machine.execSrlw d a b s
  | .sraw d a b => Sys2Proof.Machine.execSraw d a b s
  | .addi d a imm => Sys2Proof.Machine.execAddi d a imm s
  | .andi d a imm => Sys2Proof.Machine.execAndi d a imm s
  | .ori d a imm => Sys2Proof.Machine.execOri d a imm s
  | .xori d a imm => Sys2Proof.Machine.execXori d a imm s
  | .slti d a imm => Sys2Proof.Machine.execSlti d a imm s
  | .sltzi d a imm => Sys2Proof.Machine.execSltzi d a imm s
  | .slli d a amt => Sys2Proof.Machine.execSlli d a amt s
  | .srli d a amt => Sys2Proof.Machine.execSrli d a amt s
  | .srai d a amt => Sys2Proof.Machine.execSrai d a amt s
  | .rori d a amt => Sys2Proof.Machine.execRori d a amt s
  | .slliw d a amt => Sys2Proof.Machine.execSlliw d a amt s
  | .srliw d a amt => Sys2Proof.Machine.execSrliw d a amt s
  | .sraiw d a amt => Sys2Proof.Machine.execSraiw d a amt s
  | .roriw d a amt => Sys2Proof.Machine.execRoriw d a amt s
  | .li d imm => Sys2Proof.Machine.execLi d imm s
  | .lsi d imm => Sys2Proof.Machine.execLsi d imm s
  | .padd d a b lane => Sys2Proof.Machine.execPadd d a b lane s
  | .psub d a b lane => Sys2Proof.Machine.execPsub d a b lane s
  | .padds d a b lane z => Sys2Proof.Machine.execPadds d a b lane z s
  | .psubs d a b lane z => Sys2Proof.Machine.execPsubs d a b lane z s
  | .pmul d a b lane => Sys2Proof.Machine.execPmul d a b lane s
  | .pmulh d a b lane z => Sys2Proof.Machine.execPmulh d a b lane z s
  | .pdiv d a b lane z => Sys2Proof.Machine.execPdiv d a b lane z s
  | .prem d a b lane z => Sys2Proof.Machine.execPrem d a b lane z s
  | .pmin d a b lane z => Sys2Proof.Machine.execPmin d a b lane z s
  | .pmax d a b lane z => Sys2Proof.Machine.execPmax d a b lane z s
  | .pceq d a b lane => Sys2Proof.Machine.execPceq d a b lane s
  | .pclt d a b lane z => Sys2Proof.Machine.execPclt d a b lane z s
  | .psll d a b lane => Sys2Proof.Machine.execPsll d a b lane s
  | .psrl d a b lane => Sys2Proof.Machine.execPsrl d a b lane s
  | .psra d a b lane => Sys2Proof.Machine.execPsra d a b lane s
  | .pclz d a lane => Sys2Proof.Machine.execPclz d a lane s
  | .pctz d a lane => Sys2Proof.Machine.execPctz d a lane s
  | .pffs d a lane => Sys2Proof.Machine.execPffs d a lane s
  | .ppopc d a lane => Sys2Proof.Machine.execPpopc d a lane s
  | .bextz d a pos len => Sys2Proof.Machine.execBextz d a pos len s
  | .bexti d a pos len => Sys2Proof.Machine.execBexti d a pos len s
  | .bdep d a pos len => Sys2Proof.Machine.execBdep d a pos len s
  | .lb d base imm look => Sys2Proof.Machine.execLb d base imm look s
  | .lbz d base imm look => Sys2Proof.Machine.execLbz d base imm look s
  | .lh d base imm look => Sys2Proof.Machine.execLh d base imm look s
  | .lhz d base imm look => Sys2Proof.Machine.execLhz d base imm look s
  | .lw d base imm look => Sys2Proof.Machine.execLw d base imm look s
  | .lwz d base imm look => Sys2Proof.Machine.execLwz d base imm look s
  | .ld d base imm look => Sys2Proof.Machine.execLd d base imm look s
  | .sb d base imm look => Sys2Proof.Machine.execSb d base imm look s
  | .sh d base imm look => Sys2Proof.Machine.execSh d base imm look s
  | .sw d base imm look => Sys2Proof.Machine.execSw d base imm look s
  | .sd d base imm look => Sys2Proof.Machine.execSd d base imm look s
  | .flw d base imm look => Sys2Proof.Machine.execFlw d base imm look s
  | .fld d base imm look => Sys2Proof.Machine.execFld d base imm look s
  | .fsw d base imm look => Sys2Proof.Machine.execFsw d base imm look s
  | .fsd d base imm look => Sys2Proof.Machine.execFsd d base imm look s
  | .ldo d a b size acq scope look => Sys2Proof.Machine.execLdo d a b size acq scope look s
  | .sto d a b size rel scope look => Sys2Proof.Machine.execSto d a b size rel scope look s
  | .atwadd d a b order scope look => Sys2Proof.Machine.execAtwadd d a b order scope look s
  | .atwand d a b order scope look => Sys2Proof.Machine.execAtwand d a b order scope look s
  | .atwor d a b order scope look => Sys2Proof.Machine.execAtwor d a b order scope look s
  | .atwxor d a b order scope look => Sys2Proof.Machine.execAtwxor d a b order scope look s
  | .atwmax d a b order scope look => Sys2Proof.Machine.execAtwmax d a b order scope look s
  | .atwmin d a b order scope look => Sys2Proof.Machine.execAtwmin d a b order scope look s
  | .atwmaxz d a b order scope look => Sys2Proof.Machine.execAtwmaxz d a b order scope look s
  | .atwminz d a b order scope look => Sys2Proof.Machine.execAtwminz d a b order scope look s
  | .atdadd d a b order scope look => Sys2Proof.Machine.execAtdadd d a b order scope look s
  | .atdand d a b order scope look => Sys2Proof.Machine.execAtdand d a b order scope look s
  | .atdor d a b order scope look => Sys2Proof.Machine.execAtdor d a b order scope look s
  | .atdxor d a b order scope look => Sys2Proof.Machine.execAtdxor d a b order scope look s
  | .atdmax d a b order scope look => Sys2Proof.Machine.execAtdmax d a b order scope look s
  | .atdmin d a b order scope look => Sys2Proof.Machine.execAtdmin d a b order scope look s
  | .atdmaxz d a b order scope look => Sys2Proof.Machine.execAtdmaxz d a b order scope look s
  | .atdminz d a b order scope look => Sys2Proof.Machine.execAtdminz d a b order scope look s
  | .swpw d a b order scope look => Sys2Proof.Machine.execSwpw d a b order scope look s
  | .swpd d a b order scope look => Sys2Proof.Machine.execSwpd d a b order scope look s
  | .casw d a b order scope look => Sys2Proof.Machine.execCasw d a b order scope look s
  | .casd d a b order scope look => Sys2Proof.Machine.execCasd d a b order scope look s
  | .barcfg a look n => Sys2Proof.Machine.execBarcfg a look n s
  | .bararv look n => Sys2Proof.Machine.execBararv look n s
  | .barwt look n => Sys2Proof.Machine.execBarwt look n s
  | .armc a look n => Sys2Proof.Machine.execArmc a look n s
  | .waitc look n => Sys2Proof.Machine.execWaitc look n s
  | .tglk d a sz => Sys2Proof.Machine.execTglk d a sz s
  | .tgset a b sz way => Sys2Proof.Machine.execTgset a b sz way s
  | .tginv d a sz => Sys2Proof.Machine.execTginv d a sz s
  | .tgrd d a slotPart => Sys2Proof.Machine.execTgrd d a slotPart s
  | .tgclr => Sys2Proof.Machine.execTgclr s
  | .tbdef a b look entry => Sys2Proof.Machine.execTbdef a b look entry s
  | .tbst look entry => Sys2Proof.Machine.execTbst look entry s
  | .tbfree look entry => Sys2Proof.Machine.execTbfree look entry s
  | .tbwait look st entry => Sys2Proof.Machine.execTbwait look st entry s
  | .publ look entry => Sys2Proof.Machine.execPubl look entry s
  | .vcvt look dst src rnd => Sys2Proof.Machine.execVcvt look dst src rnd s
  | .vadd b look dst src rnd => Sys2Proof.Machine.execVadd b look dst src rnd s
  | .vsub b look dst src rnd => Sys2Proof.Machine.execVsub b look dst src rnd s
  | .vmul b look dst src rnd => Sys2Proof.Machine.execVmul b look dst src rnd s
  | .vfma a b look dst src rnd => Sys2Proof.Machine.execVfma a b look dst src rnd s
  | .vmax b look dst src rnd => Sys2Proof.Machine.execVmax b look dst src rnd s
  | .vmin b look dst src rnd => Sys2Proof.Machine.execVmin b look dst src rnd s
  | .vceq b look dst src rnd => Sys2Proof.Machine.execVceq b look dst src rnd s
  | .vclt b look dst src rnd => Sys2Proof.Machine.execVclt b look dst src rnd s
  | .vcle b look dst src rnd => Sys2Proof.Machine.execVcle b look dst src rnd s
  | .vsel a b look dst src rnd => Sys2Proof.Machine.execVsel a b look dst src rnd s
  | .vscale a look dst src rnd => Sys2Proof.Machine.execVscale a look dst src rnd s
  | .vsbase a b look stream => Sys2Proof.Machine.execVsbase a b look stream s
  | .vsdim a b look stream dim => Sys2Proof.Machine.execVsdim a b look stream dim s
  | .vson look stream => Sys2Proof.Machine.execVson look stream s
  | .vsoff look stream => Sys2Proof.Machine.execVsoff look stream s
  | .vsetvl a look => Sys2Proof.Machine.execVsetvl a look s
  | .vwait look => Sys2Proof.Machine.execVwait look s
  | .mclr look ms k => Sys2Proof.Machine.execMclr look ms k s
  | .mmaw a b look ms k => Sys2Proof.Machine.execMmaw a b look ms k s
  | .mmah a b look ms k => Sys2Proof.Machine.execMmah a b look ms k s
  | .mmae a b look ms k => Sys2Proof.Machine.execMmae a b look ms k s
  | .mmai a b look ms k => Sys2Proof.Machine.execMmai a b look ms k s
  | .mmas a b look ms k => Sys2Proof.Machine.execMmas a b look ms k s
  | .mmaq a b look ms k => Sys2Proof.Machine.execMmaq a b look ms k s
  | .mrd a b look ms k rnd => Sys2Proof.Machine.execMrd a b look ms k rnd s
  | .mld a b look ms => Sys2Proof.Machine.execMld a b look ms s
  | .mst a b look ms => Sys2Proof.Machine.execMst a b look ms s
  | .mwait look mask => Sys2Proof.Machine.execMwait look mask s
  | .mcfg a look m => Sys2Proof.Machine.execMcfg a look m s
  | .cshape a b look => Sys2Proof.Machine.execCshape a b look s
  | .chl a b look cnt ce => Sys2Proof.Machine.execChl a b look cnt ce s
  | .clh a b look cnt ce => Sys2Proof.Machine.execClh a b look cnt ce s
  | .cbb a b look cnt ce rnd => Sys2Proof.Machine.execCbb a b look cnt ce rnd s
  | .cmc a b look cnt ce rnd => Sys2Proof.Machine.execCmc a b look cnt ce rnd s
  | .cidx a b look => Sys2Proof.Machine.execCidx a b look s
  | .cgath a b look cnt ce => Sys2Proof.Machine.execCgath a b look cnt ce s
  | .cscat a b look cnt ce => Sys2Proof.Machine.execCscat a b look cnt ce s
  | .cwait look => Sys2Proof.Machine.execCwait look s
  | .qld a b look => Sys2Proof.Machine.execQld a b look s
  | .qscr a b look => Sys2Proof.Machine.execQscr a b look s
  | .qpt a b look gray rnd => Sys2Proof.Machine.execQpt a b look gray rnd s
  | .qseq a b look gray stream rnd => Sys2Proof.Machine.execQseq a b look gray stream rnd s
  | .qskip a look => Sys2Proof.Machine.execQskip a look s
  | .qwait look => Sys2Proof.Machine.execQwait look s
  | .objoin a look h => Sys2Proof.Machine.execObjoin a look h s
  | .obmax a b look h => Sys2Proof.Machine.execObmax a b look h s
  | .obred a b look h rnd => Sys2Proof.Machine.execObred a b look h rnd s
  | .obstat a look h => Sys2Proof.Machine.execObstat a look h s
  | .obleave look h => Sys2Proof.Machine.execObleave look h s
  | .obcal a look => Sys2Proof.Machine.execObcal a look s
  | .obwait look => Sys2Proof.Machine.execObwait look s
  | .colq a look => Sys2Proof.Machine.execColq a look s
  | .colput a b look => Sys2Proof.Machine.execColput a b look s
  | .colgo a look => Sys2Proof.Machine.execColgo a look s
  | .colwt a b look => Sys2Proof.Machine.execColwt a b look s
  | .colcan a b look => Sys2Proof.Machine.execColcan a b look s
  | .colsync look => Sys2Proof.Machine.execColsync look s
  | .gnode a b look => Sys2Proof.Machine.execGnode a b look s
  | .gedge a b look gmb => Sys2Proof.Machine.execGedge a b look gmb s
  | .grun a b look phase => Sys2Proof.Machine.execGrun a b look phase s
  | .launch a look => Sys2Proof.Machine.execLaunch a look s
  | .shapeAdd a b look fin => Sys2Proof.Machine.execShapeAdd a b look fin s
  | .shapeSet a b look fin => Sys2Proof.Machine.execShapeSet a b look fin s
  | .shapeRead a b look => Sys2Proof.Machine.execShapeRead a b look s
  | .confirm a b look => Sys2Proof.Machine.execConfirm a b look s
  | .cancel a look level => Sys2Proof.Machine.execCancel a look level s
  | .compl a look res level => Sys2Proof.Machine.execCompl a look res level s
  | .grfwait look => Sys2Proof.Machine.execGrfwait look s
  | .ctxnew a b look => Sys2Proof.Machine.execCtxnew a b look s
  | .grantCores a b look => Sys2Proof.Machine.execGrantCores a b look s
  | .grantMem a b look => Sys2Proof.Machine.execGrantMem a b look s
  | .grantPages a b look => Sys2Proof.Machine.execGrantPages a b look s
  | .grantQueues a b look => Sys2Proof.Machine.execGrantQueues a b look s
  | .grantCells a b look => Sys2Proof.Machine.execGrantCells a b look s
  | .grantVf a b look => Sys2Proof.Machine.execGrantVf a b look s
  | .revokeCores a b look => Sys2Proof.Machine.execRevokeCores a b look s
  | .revokeMem a b look => Sys2Proof.Machine.execRevokeMem a b look s
  | .revokePages a b look => Sys2Proof.Machine.execRevokePages a b look s
  | .revokeQueues a b look => Sys2Proof.Machine.execRevokeQueues a b look s
  | .revokeCells a b look => Sys2Proof.Machine.execRevokeCells a b look s
  | .revokeVf a b look => Sys2Proof.Machine.execRevokeVf a b look s
  | .ctxdel a look => Sys2Proof.Machine.execCtxdel a look s
  | .ctxbud a b look => Sys2Proof.Machine.execCtxbud a b look s
  | .ctxstat a look => Sys2Proof.Machine.execCtxstat a look s
  | .ctxenter a b look => Sys2Proof.Machine.execCtxenter a b look s
  | .reflect a look => Sys2Proof.Machine.execReflect a look s
  | .virwait look => Sys2Proof.Machine.execVirwait look s
  | .eleave a look => Sys2Proof.Machine.execEleave a look s
  | .ebud a b look => Sys2Proof.Machine.execEbud a b look s
  | .eread a look => Sys2Proof.Machine.execEread a look s
  | .pwait look => Sys2Proof.Machine.execPwait look s
  | .mfc d unit word => Sys2Proof.Machine.execMfc d unit word s
  | .vexp2 look dst src rnd => Sys2Proof.Machine.execVexp2 look dst src rnd s
  | .vlog2 look dst src rnd => Sys2Proof.Machine.execVlog2 look dst src rnd s
  | .vrcp look dst src rnd => Sys2Proof.Machine.execVrcp look dst src rnd s
  | .vrsq look dst src rnd => Sys2Proof.Machine.execVrsq look dst src rnd s
  | .vsumx look dst src rnd => Sys2Proof.Machine.execVsumx look dst src rnd s
  | .vdotx b look dst src rnd => Sys2Proof.Machine.execVdotx b look dst src rnd s
  | .vrdq a look dst rnd => Sys2Proof.Machine.execVrdq a look dst rnd s
  | .vclrq look dst rnd => Sys2Proof.Machine.execVclrq look dst rnd s
  | .vmaxr a look src rnd => Sys2Proof.Machine.execVmaxr a look src rnd s
  | .vmaxx a b look rnd => Sys2Proof.Machine.execVmaxx a b look rnd s
  | .vqnt b look dst src rnd => Sys2Proof.Machine.execVqnt b look dst src rnd s
  | .fence scope => Sys2Proof.Machine.execFence scope s
  | .fencea scope => Sys2Proof.Machine.execFencea scope s
  | .fencer scope => Sys2Proof.Machine.execFencer scope s
  | .beq a b off => Sys2Proof.Machine.execBeq a b off s
  | .bne a b off => Sys2Proof.Machine.execBne a b off s
  | .blt a b off => Sys2Proof.Machine.execBlt a b off s
  | .bge a b off => Sys2Proof.Machine.execBge a b off s
  | .bltz a b off => Sys2Proof.Machine.execBltz a b off s
  | .bgez a b off => Sys2Proof.Machine.execBgez a b off s
  | .j off => Sys2Proof.Machine.execJ off s
  | .jal off => Sys2Proof.Machine.execJal off s
  | .jr a => Sys2Proof.Machine.execJr a s
  | .jalr d a => Sys2Proof.Machine.execJalr d a s
  | .loop0 a n => Sys2Proof.Machine.execLoop0 a n s
  | .loop1 a n => Sys2Proof.Machine.execLoop1 a n s
  | .fadd d a b prec rnd => Sys2Proof.Machine.execFadd d a b prec rnd s
  | .fsub d a b prec rnd => Sys2Proof.Machine.execFsub d a b prec rnd s
  | .fmul d a b prec rnd => Sys2Proof.Machine.execFmul d a b prec rnd s
  | .fdiv d a b prec rnd => Sys2Proof.Machine.execFdiv d a b prec rnd s
  | .fsqrt d a prec rnd => Sys2Proof.Machine.execFsqrt d a prec rnd s
  | .fma d a b prec rnd => Sys2Proof.Machine.execFma d a b prec rnd s
  | .fms d a b prec rnd => Sys2Proof.Machine.execFms d a b prec rnd s
  | .fnms d a b prec rnd => Sys2Proof.Machine.execFnms d a b prec rnd s
  | .fmin d a b prec => Sys2Proof.Machine.execFmin d a b prec s
  | .fmax d a b prec => Sys2Proof.Machine.execFmax d a b prec s
  | .fsgn d a b prec => Sys2Proof.Machine.execFsgn d a b prec s
  | .fsgnn d a b prec => Sys2Proof.Machine.execFsgnn d a b prec s
  | .fsgnx d a b prec => Sys2Proof.Machine.execFsgnx d a b prec s
  | .fdtos d a rnd => Sys2Proof.Machine.execFdtos d a rnd s
  | .fstod d a => Sys2Proof.Machine.execFstod d a s
  | .fstoh d a rnd => Sys2Proof.Machine.execFstoh d a rnd s
  | .fhtos d a => Sys2Proof.Machine.execFhtos d a s
  | .fstob d a rnd => Sys2Proof.Machine.execFstob d a rnd s
  | .fbtos d a => Sys2Proof.Machine.execFbtos d a s
  | .ftoi d a prec long z rnd => Sys2Proof.Machine.execFtoi d a prec long z rnd s
  | .itof d a prec long z rnd => Sys2Proof.Machine.execItof d a prec long z rnd s
  | .fmvgf d a => Sys2Proof.Machine.execFmvgf d a s
  | .fmvfg d a => Sys2Proof.Machine.execFmvfg d a s
  | .feq d a b prec => Sys2Proof.Machine.execFeq d a b prec s
  | .flt d a b prec => Sys2Proof.Machine.execFlt d a b prec s
  | .fle d a b prec => Sys2Proof.Machine.execFle d a b prec s
  | .fclass d a prec => Sys2Proof.Machine.execFclass d a prec s
  | .nop => Sys2Proof.Machine.execNop s
  | .srr d num => Sys2Proof.Machine.execSrr d num s
  | .srw a num => Sys2Proof.Machine.execSrw a num s
  | .trap code => Sys2Proof.Machine.execTrap code s
  | .brk code => Sys2Proof.Machine.execBrk code s
  | .rte => Sys2Proof.Machine.execRte s
  | .hstart d a b => Sys2Proof.Machine.execHstart d a b s
  | .hexit a => Sys2Proof.Machine.execHexit a s
  | .hjoin d a => Sys2Proof.Machine.execHjoin d a s
  | .waitm d a b => Sys2Proof.Machine.execWaitm d a b s
  | .yield => Sys2Proof.Machine.execYield s
  | .yieldu => Sys2Proof.Machine.execYieldu s
  | .bfmtWrite h tid => Sys2Proof.Machine.execBfmtWrite h tid s
  | .waymaskWrite h v => Sys2Proof.Machine.execWaymaskWrite h v s
  | .wdogWrite h v => Sys2Proof.Machine.execWdogWrite h v s
  | .lcntWrite h tid level v => Sys2Proof.Machine.execLcntWrite h tid level v s
  | .trapMessagePost n => Sys2Proof.Machine.execTrapMessagePost n s
  | .trapReplyConsume h off v => Sys2Proof.Machine.execTrapReplyConsume h off v s
  | .lateFaultArrival h tid code ply addr unit => Sys2Proof.Machine.execLateFaultArrival h tid code ply addr unit s
  | .lateFaultDelivery h tid => Sys2Proof.Machine.execLateFaultDelivery h tid s
  | .threadWake h tid => Sys2Proof.Machine.execThreadWake h tid s
  | .unitAcceptCommand h tid => Sys2Proof.Machine.execUnitAcceptCommand h tid s
  | .homePerformAccess sel => Sys2Proof.Machine.execHomePerformAccess sel s
  | .tileDrainEnd h e => Sys2Proof.Machine.execTileDrainEnd h e s
  | .pageRequestPost n => Sys2Proof.Machine.execPageRequestPost n s
  | .pageReplyConsume h off v => Sys2Proof.Machine.execPageReplyConsume h off v s
  | .walkRestart agent => Sys2Proof.Machine.execWalkRestart agent s
  | .invalidationRequest h off v => Sys2Proof.Machine.execInvalidationRequest h off v s
  | .invalidationDone n => Sys2Proof.Machine.execInvalidationDone n s
  | .unitPlacement part => Sys2Proof.Machine.execUnitPlacement part s
  | .unitEvict h => Sys2Proof.Machine.execUnitEvict h s
  | .unitAging lnum index => Sys2Proof.Machine.execUnitAging lnum index s
  | .unitComplete h => Sys2Proof.Machine.execUnitComplete h s
  | .phaseCommit ctx graph => Sys2Proof.Machine.execPhaseCommit ctx graph s
  | .energyMeter lnum nj => Sys2Proof.Machine.execEnergyMeter lnum nj s
  | .leaveGrant die => Sys2Proof.Machine.execLeaveGrant die s
  | .leaveRelease h engine => Sys2Proof.Machine.execLeaveRelease h engine s
  | .thermalThrottle die level => Sys2Proof.Machine.execThermalThrottle die level s
  | .thermalTrip die => Sys2Proof.Machine.execThermalTrip die s
  | .watchdogExpire h => Sys2Proof.Machine.execWatchdogExpire h s
  | .forcedUnitStop h => Sys2Proof.Machine.execForcedUnitStop h s
  | .vmaxxContribution n => Sys2Proof.Machine.execVmaxxContribution n s
  | .vmaxxTimeout h seq => Sys2Proof.Machine.execVmaxxTimeout h seq s
  | .barrierArrival n => Sys2Proof.Machine.execBarrierArrival n s
  | .barrierRelease n => Sys2Proof.Machine.execBarrierRelease n s
  | .vectorCommandPerform h => Sys2Proof.Machine.execVectorCommandPerform h s
  | .matrixEngineStep h ms => Sys2Proof.Machine.execMatrixEngineStep h ms s
  | .matrixCommandComplete h ms => Sys2Proof.Machine.execMatrixCommandComplete h ms s
  | .copyCommandStart h n => Sys2Proof.Machine.execCopyCommandStart h n s
  | .copyCommandComplete h n => Sys2Proof.Machine.execCopyCommandComplete h n s
  | .qrnCommandPerform h => Sys2Proof.Machine.execQrnCommandPerform h s
  | .collectiveChunkStep die => Sys2Proof.Machine.execCollectiveChunkStep die s
  | .collectivePacketReceive die p => Sys2Proof.Machine.execCollectivePacketReceive die p s
  | .collectiveTimeout die queue seq => Sys2Proof.Machine.execCollectiveTimeout die queue seq s
  | .busFrame h handle rx => Sys2Proof.Machine.execBusFrame h handle rx s
  | .calibration seg wlim excluded => Sys2Proof.Machine.execCalibration seg wlim excluded s
  | .portTrainingDone port rate ok => Sys2Proof.Machine.execPortTrainingDone port rate ok s
  | .leaseRequest h handle lent pool => Sys2Proof.Machine.execLeaseRequest h handle lent pool s
  | .groupJoinCheck h handle => Sys2Proof.Machine.execGroupJoinCheck h handle s
  | .busOpTimeout h handle => Sys2Proof.Machine.execBusOpTimeout h handle s
  | .castleStop part => Sys2Proof.Machine.execCastleStop part s
  | .castleResume part => Sys2Proof.Machine.execCastleResume part s
  | .flushTokenReturn h => Sys2Proof.Machine.execFlushTokenReturn h s
  | .correctableError e => Sys2Proof.Machine.execCorrectableError e s
  | .linkCrcError h => Sys2Proof.Machine.execLinkCrcError h s
  | .uncorrectableError place => Sys2Proof.Machine.execUncorrectableError place s
  | .l2TagParityError die way spa => Sys2Proof.Machine.execL2TagParityError die way spa s
  | .coreGrantComplete ctx => Sys2Proof.Machine.execCoreGrantComplete ctx s
  | .revocationComplete n => Sys2Proof.Machine.execRevocationComplete n s
  | .contextDeleteComplete ctx => Sys2Proof.Machine.execContextDeleteComplete ctx s
  | .prepareDrainDone => Sys2Proof.Machine.execPrepareDrainDone s
  | .hostBar2Access vf off size store => Sys2Proof.Machine.execHostBar2Access vf off size store s
  | .jobgoWrite vf => Sys2Proof.Machine.execJobgoWrite vf s
  | .hmsgWrite vf v => Sys2Proof.Machine.execHmsgWrite vf v s
  | .bar0RegisterWrite vf off v => Sys2Proof.Machine.execBar0RegisterWrite vf off v s
  | .functionLevelReset vf => Sys2Proof.Machine.execFunctionLevelReset vf s
  | .vfEnableClear => Sys2Proof.Machine.execVfEnableClear s
  | .vfResetEnd vf => Sys2Proof.Machine.execVfResetEnd vf s
  | .mpServeRootRequest n => Sys2Proof.Machine.execMpServeRootRequest n s
  | .boot b => Sys2Proof.Machine.execBoot b s
  | .modnum slot cmd => Sys2Proof.Machine.execModnum slot cmd s
  | .pcreate slot cmd => Sys2Proof.Machine.execPcreate slot cmd s
  | .pdestroy slot cmd => Sys2Proof.Machine.execPdestroy slot cmd s
  | .prepare slot cmd => Sys2Proof.Machine.execPrepare slot cmd s
  | .commit slot cmd => Sys2Proof.Machine.execCommit slot cmd s
  | .abort slot cmd => Sys2Proof.Machine.execAbort slot cmd s
  | .vfassign slot cmd => Sys2Proof.Machine.execVfassign slot cmd s
  | .slice slot cmd => Sys2Proof.Machine.execSlice slot cmd s
  | .leavecap slot cmd => Sys2Proof.Machine.execLeavecap slot cmd s
  | .debugHalt slot cmd => Sys2Proof.Machine.execDebugHalt slot cmd s
  | .debugStep slot cmd => Sys2Proof.Machine.execDebugStep slot cmd s
  | .debugResume slot cmd => Sys2Proof.Machine.execDebugResume slot cmd s
  | .debugHalten slot cmd => Sys2Proof.Machine.execDebugHalten slot cmd s
  | .debugRead slot cmd => Sys2Proof.Machine.execDebugRead slot cmd s
  | .debugWrite slot cmd => Sys2Proof.Machine.execDebugWrite slot cmd s
  | .debugRing slot cmd => Sys2Proof.Machine.execDebugRing slot cmd s
  | .attest slot cmd => Sys2Proof.Machine.execAttest slot cmd s
  | .summary slot cmd => Sys2Proof.Machine.execSummary slot cmd s
  | .unfence slot cmd => Sys2Proof.Machine.execUnfence slot cmd s
  | .domain slot cmd => Sys2Proof.Machine.execDomain slot cmd s
  | .grouptab slot cmd => Sys2Proof.Machine.execGrouptab slot cmd s
  | .vfreset slot cmd => Sys2Proof.Machine.execVfreset slot cmd s
  | .mcmdReservedOp slot cmd => Sys2Proof.Machine.execMcmdReservedOp slot cmd s
  | .managementNetworkMessage m => Sys2Proof.Machine.execManagementNetworkMessage m s
  | .dieClockGating die gated => Sys2Proof.Machine.execDieClockGating die gated s

end Sys2Proof.Machine
end

