-- ==== Sys2Proof/Machine/Issue.lean ====
section
/-! DEFINITION. Issue: the word at a thread's program counter, the windows and the lookahead check before it executes
(R53, R58, R60–R64, R104, R117, R118, R282), and which thread, or which step of the module, goes next (log 2). -/

namespace Sys2Proof.Machine

/-! ## Registers that a word names (R61, R63) -/

/-- Registers by pending-set number: g fields, then f fields. -/
def gF (w lo : Nat) : Nat := fld w lo 5
def fF (w lo : Nat) : Nat := 32 + fld w lo 5

/-- The registers of an FCV word: which of d and a are f registers depends on the conversion (R98). -/
def fcvRegs (w : Nat) : List Nat :=
  match fld w 6 5 with
  | 1 => [gF w 21, fF w 16]
  | 2 => [fF w 21, gF w 16]
  | 3 => if fld w 3 3 = 0 then [gF w 21, fF w 16] else [fF w 21, gF w 16]
  | 4 => if fld w 3 2 = 3 then [gF w 21, fF w 16] else [gF w 21, fF w 16, fF w 11]
  | _ => [fF w 21, fF w 16]

/-- Field b of a vector word: an f register, unless it names a stream (R195, R197). -/
def vecB (w : Nat) (reads : Bool) : List Nat := if reads && decide (fld w 16 5 < 28) then [fF w 16] else []

/-- Every register that a legal word reads or writes. A reserved register field names g0, which no set holds. -/
def wordRegs (w : Nat) : List Nat :=
  let m := fld w 26 6
  if m = 1 ∨ m = 11 ∨ m = 28 ∨ m = 29 ∨ m = 30 ∨ m = 31 ∨ m = 42 ∨ m = 44 then [gF w 21, gF w 16, gF w 11]
  else if m = 32 then
    [gF w 21, gF w 16, gF w 11] ++ (if 2 ≤ fld w 8 3 then [(gF w 21 + 1) % 32] else [])
  else if (2 ≤ m ∧ m ≤ 8) ∨ m = 12 ∨ (13 ≤ m ∧ m ≤ 23) ∨ m = 34 ∨ m = 37 then [gF w 21, gF w 16]
  else if m = 9 ∨ m = 10 ∨ m = 57 then [gF w 21]
  else if 24 ≤ m ∧ m ≤ 27 then [fF w 21, gF w 16]
  else if m = 36 then [1]
  else if m = 38 then [gF w 16]
  else if m = 39 then (if fld w 4 7 = 4 then [fF w 21, fF w 16] else [fF w 21, fF w 16, fF w 11])
  else if m = 40 then fcvRegs w
  else if m = 41 then (if fld w 12 4 = 1 ∨ fld w 12 4 = 2 then [gF w 21, gF w 16] else [])
  else if m = 46 then gF w 21 :: vecB w (decide (1 ≤ fld w 7 5) && decide (fld w 7 5 ≤ 10))
  else if m = 58 then gF w 21 :: vecB w (fld w 7 5 == 5 || fld w 7 5 == 9 || fld w 7 5 == 10)
  else if 43 ≤ m ∧ m ≤ 56 then [gF w 21, gF w 16]
  else []

/-- INFO of a lookahead violation (R63). DESIGN CHOICE (log 83): where the word meets the pending sets of several open windows,
INFO shows the register and the position of the window that opened first; the pseudocode of R63 gives no order. -/
def Thread.violation (t : Thread) (w : Nat) : Option Nat :=
  t.pend.findSome? fun p =>
    match p.reg with
    | some r => if r ≠ 0 ∧ (wordRegs w).contains r then some (r + (p.since + 1) % 16 * 64) else none
    | none => none

/-! ## Fetch (R53, R117, R118, R282, R289) -/

/-- What an attempt to issue comes to: a step that is already decided, or an instruction to execute. -/
inductive Issue where
  | done (s : State)
  | word (w : Word32) (s : State)

/-- Words that an instruction cache of 64 KiB holds (R14). -/
def icacheWords : Nat := 0x4000

/-- Adds a word to an instruction cache; a full one gives up a word (R14, R118; log 12). -/
def icacheFill (steps : Nat) (l : Table Word32) (pc : Nat) (w : Word32) : Table Word32 :=
  if l.length < icacheWords then tput l pc w
  else tput (l.eraseIdx (Config.icacheVictim steps % l.length)) pc w

/-- The word at an address of instruction memory, through the instruction cache; the fetch of one that another module holds
waits while no port leads there (R118, R353). -/
def State.fetchAt (s : State) (h : Nat) (pc : Word) (spa : Nat) : Issue :=
  match tget (s.core h).icache pc.toNat with
  | some w => .word w s
  | none =>
    if !s.routeOpen spa then .done s
    else
    match s.locOf s.curCtx spa with
    | none => .done (s.trap 0x0A (addrInfo pc 3 2))
    | some l =>
      if s.poisoned l 4 then .done (s.charge (s.tenantOf s.curCtx))
      else
        let w := BitVec.ofNat 32 (numOf (s.readLoc l 4))
        .word w (s.modCore h fun c => { c with icache := icacheFill s.steps c.icache pc.toNat w })

/-- The next word of the executing thread. -/
def State.fetch (s : State) : Issue :=
  let h := s.curCore
  let pc := s.cur.r.pc
  let (s, r) := s.translate h s.curCtx pc .fetch
  match r with
  | .access sub => .done (s.trap 0x0E (addrInfo pc 3 sub))
  | .page f =>
    let (s, p) := s.pageFault s.curCtx h s.curTid 0 pc .fetch f
    .done (s.blockAt (.page p pc 3))
  | .ok spa => s.fetchAt h pc (s.canon spa)

/-- A thread takes the issue slot of its core (R104). -/
def State.take (s : State) (h tid : Nat) : State :=
  ({ s with curCore := h, curTid := tid, turn := some (s.ctxAt h, h) }).modCore h fun c => { c with lastTid := tid }

/-- Accesses whose windows are used up reach their completion point before the next instruction issues (R62). -/
def State.closeWindows (s : State) : State :=
  (s.cur.pend.filter (fun p => decide (p.look ≤ p.since))).foldl (fun s p => s.perform p.access) s

/-- The word names what its core does not have: a service core's majors and MFC words of the tile tables, the matrix
engines and the quasi-random unit, and system register numbers that are not assigned there (R14, R58, R60, R113). -/
def lacking (h : Nat) (w : Nat) : Bool :=
  let m := fld w 26 6
  (isService h && ([45, 48, 49, 51].contains m || (m == 57 && [2, 5, 6, 8].contains (fld w 7 4)))) ||
  (m == 41 && [1, 2].contains (fld w 12 4) && !sysAssigned h (fld w 0 12))

/-- The next instruction of a thread: a late fault goes first, then a refusal, then the fetch (R407, R144, R62). -/
def State.issue (s : State) (h tid : Nat) : Issue :=
  let s := s.take h tid
  if (s.thread h tid).deliverable then .done (s.deliverLate h tid)
  else
    let s := s.closeWindows
    match s.takeRefused h tid with
    | some s => .done s
    | none => s.fetch

/-- The checks on a fetched word before it executes, in the order of R60. -/
def State.checkWord (s : State) (w : Word32) (legal : Bool) : Option State :=
  let s : State := { s with curWord := w }
  if !legal || lacking s.curCore w.toNat then some (s.trap 0x01 w.toNat)
  else (s.cur.violation w.toNat).map (fun info => s.trap 0x02 info)

/-- A thread that the debugger steps halts after one instruction (R424). -/
def State.afterStep (stepping : Bool) (h tid : Nat) (o : Out) : Out :=
  match o with
  | .next s => if stepping && s.hasThread h tid then .next (s.haltThread h tid) else .next s
  | o => o

/-! ## Time (R111, R421, R422) -/

/-- WDOG counts while a unit is resident, no thread is halted and no record is outstanding. -/
def Core.watch (c : Core) (n : Nat) : Core :=
  if c.unit.isNone || c.regs.wdtPost.isSome || c.threads.any (fun t => t.2.halted) then c
  else { c with regs := { c.regs with wdogCount := c.regs.wdogCount + n } }

/-- The tenants of contexts that have read poison are charged (R428). -/
def State.chargeStruck (s : State) : State :=
  ((s.struck.map s.tenantOf).eraseDups).foldl State.charge { s with struck := [] }

/-- A step begins: what the step before it owes to a tenant is charged. -/
def State.tick (s : State) : State :=
  let s := s.chargeStruck
  { s with steps := s.steps + 1 }

/-- Cycles pass, at least one (log 3). -/
def State.advance (s : State) : State :=
  let n := 1 + Config.freeCycles s.steps
  { s with cycle := s.cycle + BitVec.ofNat 64 n, cores := tmap s.cores (fun _ c => c.watch n) }

/-! ## Steps of the module that are due -/

/-- A step of the module, as its meaning performs it; used to ask whether it would do anything. -/
def State.trial (s : State) (e : Event) : Out :=
  match e with
  | .bfmtWrite h tid => execBfmtWrite h tid s
  | .trapMessagePost n => execTrapMessagePost n s
  | .pageRequestPost n => execPageRequestPost n s
  | .lateFaultDelivery h tid => execLateFaultDelivery h tid s
  | .threadWake h tid => execThreadWake h tid s
  | .unitAcceptCommand h tid => execUnitAcceptCommand h tid s
  | .homePerformAccess sel => execHomePerformAccess sel s
  | .tileDrainEnd h e => execTileDrainEnd h e s
  | .walkRestart a => execWalkRestart a s
  | .invalidationDone n => execInvalidationDone n s
  | .unitPlacement p => execUnitPlacement p s
  | .unitAging l i => execUnitAging l i s
  | .unitComplete h => execUnitComplete h s
  | .phaseCommit c g => execPhaseCommit c g s
  | .leaveGrant d => execLeaveGrant d s
  | .leaveRelease h e => execLeaveRelease h e s
  | .watchdogExpire h => execWatchdogExpire h s
  | .forcedUnitStop h => execForcedUnitStop h s
  | .vmaxxContribution n => execVmaxxContribution n s
  | .vmaxxTimeout h q => execVmaxxTimeout h q s
  | .barrierArrival n => execBarrierArrival n s
  | .barrierRelease n => execBarrierRelease n s
  | .vectorCommandPerform h => execVectorCommandPerform h s
  | .matrixEngineStep h ms => execMatrixEngineStep h ms s
  | .matrixCommandComplete h ms => execMatrixCommandComplete h ms s
  | .copyCommandStart h n => execCopyCommandStart h n s
  | .copyCommandComplete h n => execCopyCommandComplete h n s
  | .qrnCommandPerform h => execQrnCommandPerform h s
  | .collectiveChunkStep d => execCollectiveChunkStep d s
  | .collectivePacketReceive d p => execCollectivePacketReceive d p s
  | .collectiveTimeout d q n => execCollectiveTimeout d q n s
  | .leaseRequest h n l p => execLeaseRequest h n l p s
  | .groupJoinCheck h n => execGroupJoinCheck h n s
  | .busOpTimeout h n => execBusOpTimeout h n s
  | .castleStop p => execCastleStop p s
  | .castleResume p => execCastleResume p s
  | .coreGrantComplete c => execCoreGrantComplete c s
  | .revocationComplete n => execRevocationComplete n s
  | .contextDeleteComplete c => execContextDeleteComplete c s
  | .prepareDrainDone => execPrepareDrainDone s
  | .vfResetEnd v => execVfResetEnd v s
  | .mpServeRootRequest n => execMpServeRootRequest n s
  | _ => .next s

/-- The step would change the state. -/
def State.due (s : State) (e : Event) : Bool :=
  match s.trial e with
  | .next s' => s' != s
  | _ => true

/-- What may end the wait of a thread. -/
def Thread.wakers (t : Thread) (h tid : Nat) : List Event :=
  if t.halted || t.exited.isSome then []
  else
    (if t.wait != .none && t.deliverable then [.lateFaultDelivery h tid] else []) ++
    match t.wait with
    | .none => []
    | .unitDone .. => []
    | .trapReply _ => []
    | .wdtStop => []
    | .dispatch _ => [.unitAcceptCommand h tid]
    | .page .. => [.walkRestart (.thread h tid)]
    | .bfmt .. => [.bfmtWrite h tid]
    | _ => [.threadWake h tid]

/-- What the units of a core may do. -/
def Core.doings (c : Core) (h : Nat) : List Event :=
  (if c.vec.queue.isEmpty then [] else [.vectorCommandPerform h]) ++ c.vec.vmax.map (fun q => .vmaxxTimeout h q.seq) ++
  (if c.mat.queue.isEmpty then []
   else (List.range 5).flatMap (fun m => [.matrixEngineStep h m, .matrixCommandComplete h m])) ++
  c.cpy.flatMap (fun q => [.copyCommandStart h q.id, .homePerformAccess (.copyWrite h q.id), .copyCommandComplete h q.id]) ++
  (if c.qrn.queue.isEmpty then [] else [.qrnCommandPerform h]) ++
  (c.tiles.filter (fun t => t.2.publ || t.2.freeing)).map (fun t => .tileDrainEnd h t.1) ++
  (c.evicted.flatMap (fun e => (e.tiles.filter (fun t => t.2.publ || t.2.freeing)).map (fun t => .tileDrainEnd h t.1))) ++
  (c.bus ++ (c.evicted.zipIdx.flatMap (fun e => e.1.bus.map (fun b => (4 * (e.2 + 1) + b.1, b.2))))).flatMap (fun b =>
    (if b.2.asking then [.groupJoinCheck h b.1] else []) ++
    (if b.2.ops.isEmpty then [] else [.leaseRequest h b.1 0 0, .busOpTimeout h b.1])) ++
  (match c.unit with
   | some r =>
     (if r.exit0.isSome then [.unitComplete h] else []) ++ (if r.stop.isSome then [.forcedUnitStop h] else []) ++
     (if c.regs.expired then [.watchdogExpire h] else [])
   | none => []) ++
  (if c.leave.isEmpty then [] else [.leaveRelease h 0, .leaveRelease h 1])

/-- What a die may do. -/
def Die.doings (d : Die) (n : Nat) : List Event :=
  (if d.waiting.isEmpty then [] else [.leaveGrant n]) ++
  (if d.col.queues.any (fun q => q.2.ops.any (·.running)) then [.collectiveChunkStep n] else []) ++
  d.col.queues.flatMap (fun q =>
    q.2.ops.flatMap (fun o =>
      (if o.running then [.collectiveTimeout n q.1 o.seq] else []) ++
      (if o.pages.isEmpty then [] else [.walkRestart (.collective n q.1)]))) ++
  (d.col.leave.filter (fun l => l.2.held)).map (fun l => .leaveRelease (n * 256) (2 + l.1))

/-- What a message on its way may do. -/
def State.delivery (s : State) (m : Msg) (n : Nat) : List Event :=
  match m with
  | .bar b => if b.release then [.barrierRelease n] else [.barrierArrival n]
  | .vmax _ => [.vmaxxContribution n]
  | .col _ node p => if node / 16 = s.mp.modnum then [.collectivePacketReceive (node % 16) p] else []

/-- What a drain may do. -/
def Drain.doing (d : Drain) : Event :=
  match d.kind with
  | .coreGrant c _ _ => .coreGrantComplete c
  | .delete _ c => .contextDeleteComplete c
  | _ => .revocationComplete d.id

/-- The partition that a slice setting lets hold an interval now, and the one that then does not (R417, R445). -/
def Slice.turns (x : Slice) (now : Nat) : List Event :=
  if now < x.t0 then []
  else
    match x.b with
    | some b => if x.holdsB now then [.castleStop x.a, .castleResume b] else [.castleStop b, .castleResume x.a]
    | none => if x.holdsB now then [.castleStop x.a] else [.castleResume x.a]

/-- What the registers of a VF may do: the oldest GO or message goes on, a reset ends. -/
def State.vfDoings (s : State) (v : Nat) (x : Vf) : List Event :=
  (if !x.gos.isEmpty && s.pageClear x.goWait then [.walkRestart (.go v)] else []) ++
  (if !x.msgs.isEmpty && s.pageClear x.msgWait then [.walkRestart (.message v)] else []) ++
  (if x.resetting.isSome then [.vfResetEnd v] else [])

/-- A launch has a unit that waits for a core. -/
def Launch.waits (l : Launch) : Bool :=
  !l.isDone && l.units.any (fun u => match u.2 with
    | .waiting .. => true
    | .evicted .. => true
    | _ => false)

/-- The steps of the module that may be due, in a fixed order. -/
def State.doings (s : State) : List Event :=
  (s.parts.filter (fun p => s.launches.any (fun l => l.2.waits && (s.ctx l.2.ctx).part == p.1))).map (fun p => .unitPlacement p.1) ++
  s.cores.flatMap (fun c => c.2.threads.flatMap (fun t => t.2.wakers c.1 t.1)) ++
  s.cores.flatMap (fun c => c.2.doings c.1) ++
  s.posts.map (fun p => if p.mp then .mpServeRootRequest p.id
    else if p.page then .pageRequestPost p.id else .trapMessagePost p.id) ++
  (s.cmds.filter (fun k => s.pageClear k.page && !s.cmdAhead k)).map (fun k => .walkRestart (.command k.id)) ++
  s.msgs.zipIdx.flatMap (fun m => s.delivery m.1 m.2) ++ s.drains.map Drain.doing ++
  (List.range s.invals.length).map (fun n => .invalidationDone n) ++
  s.vfs.flatMap (fun v => s.vfDoings v.1 v.2) ++
  (if s.mp.preparing && !s.mp.prepared then [.prepareDrainDone] else []) ++
  s.mp.slices.flatMap (fun x => x.turns s.now) ++
  s.ctxs.flatMap (fun c => (c.2.graphs.filter (fun g => g.2.waiting)).map (fun g => .phaseCommit c.1 g.1)) ++
  s.launches.flatMap (fun l =>
    if l.2.waits then (l.2.units.filter (fun u => !u.2.ended)).map (fun u => .unitAging l.1 u.1) else []) ++
  s.dies.flatMap (fun d => d.2.doings d.1)

/-- The first of them that is due. -/
def State.nextDoing (s : State) : Option Event := s.doings.find? s.due

/-! ## Which thread issues (R104) -/

/-- A unit wait that would end now. -/
def State.unitWaitOver (s : State) (h tid : Nat) (t : Thread) : Bool :=
  match decodeCommand (s.fetched h t.r.pc).toNat with
  | some i =>
    match command i { s with curCore := h, curTid := tid, curWord := s.fetched h t.r.pc } with
    | .next s' => (s'.thread h tid).wait != t.wait
    | _ => true
  | none => true

/-- The thread can issue. -/
def State.readyThread (s : State) (h tid : Nat) : Bool :=
  match tget (s.core h).threads tid with
  | none => false
  | some t =>
    t.exited.isNone && !t.halted && (s.core h).unit.isSome &&
    (match t.wait with
      | .none => true
      | .unitDone .. => s.unitWaitOver h tid t
      | _ => false)

/-- The thread of a core that comes first in cyclic order after the one that issued last. -/
def State.readyOn (s : State) (h : Nat) : Option Nat :=
  ((List.range 11).map (fun i => ((s.core h).lastTid + 1 + i) % 11)).find? (s.readyThread h)

/-- One core comes before another within a cycle: by the number of the context whose unit it runs, then by its Hilbert
index (R21). -/
def keyBefore (a b : Nat × Nat) : Bool := decide (a.1 < b.1) || (a.1 == b.1 && decide (a.2 < b.2))

/-- The core issues in the cycle of the last issue, after it; else a new cycle begins (R21, R104). -/
def State.sameCycle (s : State) (h : Nat) : Bool := (s.turn.map (fun k => keyBefore k (s.ctxAt h, h))).getD false

/-- The first of the cores that are ready, in the order of a cycle. -/
def State.firstReady (s : State) (l : List (Nat × Nat)) : Option (Nat × Nat) :=
  l.foldl (fun best p =>
    match best with
    | some b => if keyBefore (s.ctxAt p.1, p.1) (s.ctxAt b.1, b.1) then some p else best
    | none => some p) none

/-- The core and thread that issue: in each cycle every core with a ready thread, once (R104). -/
def State.readyThread? (s : State) : Option (Nat × Nat) :=
  let l := s.cores.filterMap (fun c => (s.readyOn c.1).map (fun tid => (c.1, tid)))
  (s.firstReady (l.filter (fun p => s.sameCycle p.1))).orElse fun _ => s.firstReady l

/-! ## What goes next (log 2) -/

/-- An access whose thread has issued three instructions since, or whose unit has ended, or any, where nothing else goes on. -/
def State.ripeAccess (s : State) (any : Bool) : Option Event :=
  (s.inflight.find? (fun a => any || s.unitOver a.unit || (s.thread a.h a.tid).pend.any (fun p => p.access == a.id && decide (3 ≤ p.since)))).map
    (fun a => .homePerformAccess (.inflight a.id))

inductive Action where
  | event (e : Event)
  | issue (h tid : Nat)
  | idle

/-- A command that waits at dispatch and that its unit takes now: it goes before a command that has not been issued
(R65). -/
def State.acceptance (s : State) : Option Event :=
  (s.cores.flatMap (fun c => c.2.threads.filterMap (fun t => match t.2.wait with
    | .dispatch _ => some (.unitAcceptCommand c.1 t.1)
    | _ => none))).find? s.due

/-- A step of the module, or a thread, or nothing: what waits at dispatch goes first, then the module's own steps and the
threads take turns. -/
def State.choose (s : State) : Action :=
  let step : Option Action := s.nextDoing.map .event
  let thread : Option Action := s.readyThread?.map (fun p => .issue p.1 p.2)
  let ripe : Option Action := (s.ripeAccess false).map .event
  let last : Option Action := (s.ripeAccess true).map .event
  let taken : Option Action := s.acceptance.map .event
  let first := if s.steps % 2 = 1 then (ripe.orElse fun _ => thread).orElse (fun _ => step)
    else (step.orElse fun _ => ripe).orElse (fun _ => thread)
  ((taken.orElse fun _ => first).orElse fun _ => last).getD .idle

/-- The event is one of the host link, the management processor or its network: it needs no core power (R454). -/
def offCore : Event → Bool
  | .boot _ | .hostBar2Access .. | .jobgoWrite _ | .hmsgWrite .. | .bar0RegisterWrite .. | .functionLevelReset _ => true
  | .vfEnableClear | .vfResetEnd _ | .mpServeRootRequest _ | .prepareDrainDone | .managementNetworkMessage _ => true
  | .modnum .. | .pcreate .. | .pdestroy .. | .prepare .. | .commit .. | .abort .. | .vfassign .. | .slice .. => true
  | .leavecap .. | .attest .. | .summary .. | .unfence .. | .domain .. | .grouptab .. | .vfreset .. => true
  | .mcmdReservedOp .. => true
  | _ => false

/-- What the model itself chooses. Without core power only the management processor goes on (R454). -/
def State.ownChoice (s : State) : Action :=
  if s.mp.powerCut then (((s.doings.filter offCore).find? s.due).map .event).getD .idle else s.choose

/-- What the next step is: the event that the agenda chooses, the oldest command that waits for the management processor, or a
choice of the model's own. -/
def State.nextAction (s : State) : Action × State :=
  match s.agenda, s.mp.queue with
  | e :: es, _ => (.event e, { s with agenda := es })
  | [], e :: es =>
    if s.mp.job.isNone then (.event e, { s with mp := { s.mp with queue := es, serving := true } }) else (s.ownChoice, s)
  | [], [] => (s.ownChoice, s)

/-- Time passes with every step but that of a core which issues in the cycle of the last issue (R21, R104; log 3). -/
def State.pass (s : State) (a : Action) : State :=
  match a with
  | .issue h _ => if s.sameCycle h then s else s.advance
  | _ => s.advance

/-- The next step, with the state in which it is taken. -/
def State.turnOf (s : State) : Action × State :=
  let (a, t) := s.tick.nextAction
  (a, t.pass a)

/-- Core power is cut, and what is to come next needs it (R454). -/
def State.unpowered (s : State) : Bool :=
  s.mp.powerCut && (match s.agenda with
    | e :: _ => !offCore e
    | [] => false)

end Sys2Proof.Machine
end

