-- ==== Sys2Proof/Machine/Run.lean ====
section
/-! DEFINITION. The meanings of the module's own steps and of the words of majors 0x23–0x2A, by the inductives that
compiled code can build; `Step` proves them equal to `exec` on the rows of the opcode table. -/

namespace Sys2Proof.Machine

/-- The meaning of a step of the module. -/
def runEvent (e : Event) (s : State) : Out :=
  match e with
  | .bfmtWrite h tid => execBfmtWrite h tid s
  | .waymaskWrite h v => execWaymaskWrite h v s
  | .wdogWrite h v => execWdogWrite h v s
  | .lcntWrite h tid level v => execLcntWrite h tid level v s
  | .trapMessagePost n => execTrapMessagePost n s
  | .trapReplyConsume h off v => execTrapReplyConsume h off v s
  | .lateFaultArrival h tid code ply addr unit => execLateFaultArrival h tid code ply addr unit s
  | .lateFaultDelivery h tid => execLateFaultDelivery h tid s
  | .threadWake h tid => execThreadWake h tid s
  | .unitAcceptCommand h tid => execUnitAcceptCommand h tid s
  | .homePerformAccess sel => execHomePerformAccess sel s
  | .tileDrainEnd h e => execTileDrainEnd h e s
  | .pageRequestPost n => execPageRequestPost n s
  | .pageReplyConsume h off v => execPageReplyConsume h off v s
  | .walkRestart agent => execWalkRestart agent s
  | .invalidationRequest h off v => execInvalidationRequest h off v s
  | .invalidationDone n => execInvalidationDone n s
  | .unitPlacement part => execUnitPlacement part s
  | .unitEvict h => execUnitEvict h s
  | .unitAging lnum index => execUnitAging lnum index s
  | .unitComplete h => execUnitComplete h s
  | .phaseCommit ctx graph => execPhaseCommit ctx graph s
  | .energyMeter lnum nj => execEnergyMeter lnum nj s
  | .leaveGrant die => execLeaveGrant die s
  | .leaveRelease h engine => execLeaveRelease h engine s
  | .thermalThrottle die level => execThermalThrottle die level s
  | .thermalTrip die => execThermalTrip die s
  | .watchdogExpire h => execWatchdogExpire h s
  | .forcedUnitStop h => execForcedUnitStop h s
  | .vmaxxContribution n => execVmaxxContribution n s
  | .vmaxxTimeout h seq => execVmaxxTimeout h seq s
  | .barrierArrival n => execBarrierArrival n s
  | .barrierRelease n => execBarrierRelease n s
  | .vectorCommandPerform h => execVectorCommandPerform h s
  | .matrixEngineStep h ms => execMatrixEngineStep h ms s
  | .matrixCommandComplete h ms => execMatrixCommandComplete h ms s
  | .copyCommandStart h n => execCopyCommandStart h n s
  | .copyCommandComplete h n => execCopyCommandComplete h n s
  | .qrnCommandPerform h => execQrnCommandPerform h s
  | .collectiveChunkStep die => execCollectiveChunkStep die s
  | .collectivePacketReceive die p => execCollectivePacketReceive die p s
  | .collectiveTimeout die queue seq => execCollectiveTimeout die queue seq s
  | .busFrame h handle rx => execBusFrame h handle rx s
  | .calibration seg wlim excluded => execCalibration seg wlim excluded s
  | .portTrainingDone port rate ok => execPortTrainingDone port rate ok s
  | .leaseRequest h handle lent pool => execLeaseRequest h handle lent pool s
  | .groupJoinCheck h handle => execGroupJoinCheck h handle s
  | .busOpTimeout h handle => execBusOpTimeout h handle s
  | .castleStop part => execCastleStop part s
  | .castleResume part => execCastleResume part s
  | .flushTokenReturn h => execFlushTokenReturn h s
  | .correctableError e => execCorrectableError e s
  | .linkCrcError h => execLinkCrcError h s
  | .uncorrectableError place => execUncorrectableError place s
  | .l2TagParityError die way spa => execL2TagParityError die way spa s
  | .coreGrantComplete ctx => execCoreGrantComplete ctx s
  | .revocationComplete n => execRevocationComplete n s
  | .contextDeleteComplete ctx => execContextDeleteComplete ctx s
  | .prepareDrainDone => execPrepareDrainDone s
  | .hostBar2Access vf off size store => execHostBar2Access vf off size store s
  | .jobgoWrite vf => execJobgoWrite vf s
  | .hmsgWrite vf v => execHmsgWrite vf v s
  | .bar0RegisterWrite vf off v => execBar0RegisterWrite vf off v s
  | .functionLevelReset vf => execFunctionLevelReset vf s
  | .vfEnableClear => execVfEnableClear s
  | .vfResetEnd vf => execVfResetEnd vf s
  | .mpServeRootRequest n => execMpServeRootRequest n s
  | .boot b => execBoot b s
  | .modnum slot cmd => execModnum slot cmd s
  | .pcreate slot cmd => execPcreate slot cmd s
  | .pdestroy slot cmd => execPdestroy slot cmd s
  | .prepare slot cmd => execPrepare slot cmd s
  | .commit slot cmd => execCommit slot cmd s
  | .abort slot cmd => execAbort slot cmd s
  | .vfassign slot cmd => execVfassign slot cmd s
  | .slice slot cmd => execSlice slot cmd s
  | .leavecap slot cmd => execLeavecap slot cmd s
  | .debugHalt slot cmd => execDebugHalt slot cmd s
  | .debugStep slot cmd => execDebugStep slot cmd s
  | .debugResume slot cmd => execDebugResume slot cmd s
  | .debugHalten slot cmd => execDebugHalten slot cmd s
  | .debugRead slot cmd => execDebugRead slot cmd s
  | .debugWrite slot cmd => execDebugWrite slot cmd s
  | .debugRing slot cmd => execDebugRing slot cmd s
  | .attest slot cmd => execAttest slot cmd s
  | .summary slot cmd => execSummary slot cmd s
  | .unfence slot cmd => execUnfence slot cmd s
  | .domain slot cmd => execDomain slot cmd s
  | .grouptab slot cmd => execGrouptab slot cmd s
  | .vfreset slot cmd => execVfreset slot cmd s
  | .mcmdReservedOp slot cmd => execMcmdReservedOp slot cmd s
  | .managementNetworkMessage m => execManagementNetworkMessage m s
  | .dieClockGating die gated => execDieClockGating die gated s

/-- The meaning of a word of majors 0x23–0x2A. -/
def runHigh (i : High) (s : State) : Out :=
  match i with
  | .j off => execJ off s
  | .jal off => execJal off s
  | .jr a => execJr a s
  | .jalr d a => execJalr d a s
  | .loop0 a n => execLoop0 a n s
  | .loop1 a n => execLoop1 a n s
  | .fadd d a b prec rnd => execFadd d a b prec rnd s
  | .fsub d a b prec rnd => execFsub d a b prec rnd s
  | .fmul d a b prec rnd => execFmul d a b prec rnd s
  | .fdiv d a b prec rnd => execFdiv d a b prec rnd s
  | .fsqrt d a prec rnd => execFsqrt d a prec rnd s
  | .fma d a b prec rnd => execFma d a b prec rnd s
  | .fms d a b prec rnd => execFms d a b prec rnd s
  | .fnms d a b prec rnd => execFnms d a b prec rnd s
  | .fmin d a b prec => execFmin d a b prec s
  | .fmax d a b prec => execFmax d a b prec s
  | .fsgn d a b prec => execFsgn d a b prec s
  | .fsgnn d a b prec => execFsgnn d a b prec s
  | .fsgnx d a b prec => execFsgnx d a b prec s
  | .fdtos d a rnd => execFdtos d a rnd s
  | .fstod d a => execFstod d a s
  | .fstoh d a rnd => execFstoh d a rnd s
  | .fhtos d a => execFhtos d a s
  | .fstob d a rnd => execFstob d a rnd s
  | .fbtos d a => execFbtos d a s
  | .ftoi d a prec long z rnd => execFtoi d a prec long z rnd s
  | .itof d a prec long z rnd => execItof d a prec long z rnd s
  | .fmvgf d a => execFmvgf d a s
  | .fmvfg d a => execFmvfg d a s
  | .feq d a b prec => execFeq d a b prec s
  | .flt d a b prec => execFlt d a b prec s
  | .fle d a b prec => execFle d a b prec s
  | .fclass d a prec => execFclass d a prec s
  | .nop => execNop s
  | .srr d num => execSrr d num s
  | .srw a num => execSrw a num s
  | .trap code => execTrap code s
  | .brk code => execBrk code s
  | .rte => execRte s
  | .hstart d a b => execHstart d a b s
  | .hexit a => execHexit a s
  | .hjoin d a => execHjoin d a s
  | .waitm d a b => execWaitm d a b s
  | .yield => execYield s
  | .yieldu => execYieldu s

/-- The meaning of a word as the decoder that runs a program answers it. -/
def runDecoded (d : Decoded) (s : State) : Out :=
  match d with
  | .low i => exec i s
  | .high i => runHigh i s

theorem runEvent_eq (e : Event) (s : State) : exec e.toInstr s = runEvent e s := by
  cases e <;> rfl

theorem runHigh_eq (i : High) (s : State) : exec i.toInstr s = runHigh i s := by
  cases i <;> rfl

theorem high_check (i : High) : i.toInstr.check = i.check := by
  cases i <;> rfl

theorem runDecoded_eq (d : Decoded) (s : State) : exec d.toInstr s = runDecoded d s := by
  cases d with
  | low i => rfl
  | high i => exact runHigh_eq i s

/-- The decoder that runs a program is the decoder. -/
theorem decodeWord_eq (w : Nat) : decodeWord w = (decodeRun w).map Decoded.toInstr := by
  unfold decodeWord decodeRun decodeFields
  split
  · cases isHigh w
    · cases h : decodeLow w with
      | error r => simp [Except.map]
      | ok i => cases hc : i.check <;> simp [hc, Except.map, Decoded.toInstr]
    · cases h : decodeHigh w with
      | error r => simp [Except.map]
      | ok i => cases hc : i.check <;> simp [Except.map, high_check, hc, Decoded.toInstr]
  · rfl

/-! ## One step of the module -/

/-- A word executes as the instruction that it decodes to, unless a check stops it first (R60). -/
noncomputable def State.runWord (s : State) (h tid : Nat) (w : Word32) : Out :=
  let stepping := (s.thread h tid).stepping
  match decodeWord w.toNat with
  | .error _ => afterStep stepping h tid (.next ((s.checkWord w false).getD s))
  | .ok i =>
    afterStep stepping h tid
      (match s.checkWord w true with
        | some t => .next t
        | none => exec i { s with curWord := w })

/-- A thread issues its next instruction. -/
noncomputable def State.runIssue (s : State) (h tid : Nat) : Out :=
  match s.issue h tid with
  | .done t => .next t
  | .word w t => t.runWord h tid w

/-- One step of the module: an event, an instruction, or nothing but time (log 2). An event that needs core power does not
happen without it (R454). -/
noncomputable def State.oneStep (s : State) : Out :=
  if s.unpowered then .fault .powerCut
  else
    match s.turnOf with
    | (.event e, t) => exec e.toInstr t
    | (.issue h tid, t) => t.runIssue h tid
    | (.idle, t) => .next t

/-! The same in the form that compiled code can build. -/

def State.runWordC (s : State) (h tid : Nat) (w : Word32) : Out :=
  let stepping := (s.thread h tid).stepping
  match decodeRun w.toNat with
  | .error _ => afterStep stepping h tid (.next ((s.checkWord w false).getD s))
  | .ok i =>
    afterStep stepping h tid
      (match s.checkWord w true with
        | some t => .next t
        | none => runDecoded i { s with curWord := w })

def State.runIssueC (s : State) (h tid : Nat) : Out :=
  match s.issue h tid with
  | .done t => .next t
  | .word w t => t.runWordC h tid w

def State.oneStepC (s : State) : Out :=
  if s.unpowered then .fault .powerCut
  else
    match s.turnOf with
    | (.event e, t) => runEvent e t
    | (.issue h tid, t) => t.runIssueC h tid
    | (.idle, t) => .next t

theorem runWord_eq (s : State) (h tid : Nat) (w : Word32) : s.runWord h tid w = s.runWordC h tid w := by
  unfold State.runWord State.runWordC
  rw [decodeWord_eq]
  cases decodeRun w.toNat with
  | error r => rfl
  | ok i => simp only [Except.map, runDecoded_eq]

theorem runIssue_eq (s : State) (h tid : Nat) : s.runIssue h tid = s.runIssueC h tid := by
  unfold State.runIssue State.runIssueC
  simp only [runWord_eq]

theorem oneStep_eq (s : State) : s.oneStep = s.oneStepC := by
  unfold State.oneStep State.oneStepC
  simp only [runEvent_eq, runIssue_eq]

end Sys2Proof.Machine
end

