-- ==== Sys2Proof/Machine/Place.lean ====
section
/-! DEFINITION. A program placed from outside: a partition with one job whose control context issues at 0x10000, as a
host and the management processor load one (R70, R83, R440, R446; log 4), and a word placed where the next fetch reads. -/

namespace Sys2Proof.Machine

/-- Where the placed job's code stands, by VA, by GPA and by SPA. -/
def placedPc : Nat := 0x10000

/-- The tables of the placed context: one block of 512 MiB mapped to itself in both stages, with every right
(R274, R275). -/
def placedTables (m : Memory) : Memory :=
  memWrite (memWrite (memWrite (memWrite m 0x20000 8 0x30001) 0x30000 8 0x1F) 0x40000 8 0x50001) 0x50000 8 0x1F

/-- The image of the placed job: every claim that an image can make (R70). -/
def placedImage : Image :=
  { va := 0, entry := w64 placedPc, features := 0, bankMask := BitVec.allOnes 96, tileMask := BitVec.allOnes 64
    streams := BitVec.allOnes 4, helpers := 10, prio := 0, bankFmt := [], sections := [] }

/-- The context of the placed job, a root that owns cores 0 to 15 of its partition (R292, R446). -/
def placedCtx : Ctx :=
  { Ctx.blank with
    st := .live, ttb1 := 0x40000, ttb2 := 0x20000, psaValid := true, svch := 15, coreLen := 16, energy := 2 ^ 40, queues := 4
    extents := [{ cpage := 0, npages := 0x2000, ppage := 0, r := true, w := true, x := true }] }

def placedPart : Part := { Part.blank with hlen := 16, weight := 1 }

/-- The state with the placed job's unit resident on core 0. -/
def State.loadJob (s : State) : State :=
  let s : State :=
    { s with
      mem := placedTables s.mem, parts := tput s.parts 0 placedPart, ctxs := tput s.ctxs 0 placedCtx, turn := none }
  let s := s.startJob 0 0 0 0 none 0
  let k : LaunchArgs := { ctx := 0, site := 0xFFFF, h := 0, tid := 0, add := 0, graph := none, heldBy := none, isJob := true }
  let (s, l) := s.accept (jobDesc 0 0) placedImage k
  s.startUnit l 0 0 false 0

/-- A word where a thread fetches next: in memory, and no older copy of it in the instruction cache (R118). -/
def State.putWord (s : State) (h tid : Nat) (w : Word32) : State :=
  let pc := (s.thread h tid).r.pc
  match (s.translate h (s.ctxAt h) pc .fetch).2 with
  | .ok spa =>
    match s.locOf (s.ctxAt h) (s.canon spa) with
    | some (.mem a) =>
      let s : State := { s with mem := memWrite s.mem a 4 w.toNat }
      s.modCore h fun c => { c with icache := tdel c.icache pc.toNat }
    | _ => s
  | _ => s

/-- A word where the next step fetches: at the thread that issues next, or, where none does, in a job placed for it. -/
def State.placeWord (s : State) (w : Word32) : State :=
  match s.turnOf.1 with
  | .issue h tid => s.putWord h tid w
  | _ => s.loadJob.putWord 0 0 w

end Sys2Proof.Machine
end

