-- ==== Sys2Proof/Machine/Step.lean ====
section
/-! DEFINITION. The step function: one event of the module or one instruction of one thread. -/

namespace Sys2Proof.Machine

/-- One step (log 2). -/
noncomputable def step (s : State) : Host.Outcome State Fault Refusal := s.oneStep

/-- The step in the form that compiled code runs. -/
def stepC (s : State) : Host.Outcome State Fault Refusal := s.oneStepC

@[csimp] theorem step_eq_stepC : @step = @stepC := by
  funext s
  exact oneStep_eq s

/-- A state whose next step fetches and runs one instruction, given by its bits as the opcode table numbers them;
every instruction of the GX9 is one 32-bit word, stored lowest byte first (R2, R53; log 4). -/
def State.withFetchWord (s : State) (nbits w : Nat) : State := s.placeWord (BitVec.ofNat 32 (w % 2 ^ nbits))

end Sys2Proof.Machine
end

