-- ==== Sys2Proof/Safety.lean ====
section
/-! DEFINITION. What counts as a safe state and a safe run, and the frames that statements name: what an instruction
leaves as it was. -/

namespace Sys2Proof

/-- The invariant of the model: memory is in its canonical form (addresses rise strictly, no listed byte is what an
unlisted address reads as). -/
abbrev Machine.State.Inv (s : Machine.State) : Prop := Machine.Memory.wf s.mem = true

/-- A run is safe when no step of it stops: `n` steps from `s` answer a next state. -/
def SafeFor (n : Nat) (s : Machine.State) : Prop := ∃ t, core.run n s = .next t

namespace Machine

/-- Only the executing thread has changed: every byte of memory, every other thread and unit, every context,
partition, function and record, and all that the core holds beside its threads are as before. -/
structure OnlyThread (s t : State) : Prop where
  module : t = { s with cores := t.cores }
  cores : ∀ h, h ≠ s.curCore → t.core h = s.core h
  core : t.core s.curCore = { s.core s.curCore with threads := (t.core s.curCore).threads }
  threads : ∀ tid, tid ≠ s.curTid → t.thread s.curCore tid = s.thread s.curCore tid
  memory : ∀ a, memGet t.mem a = memGet s.mem a

/-- Of the executing thread only its registers (general, floating-point, flags, program counter, loop levels), its
open windows and what it waits for have changed: its trap registers, unit words, plies, late faults, pending
fence and stream bindings are as before. -/
def KeepsThread (s t : State) : Prop :=
  t.cur = { s.cur with r := t.cur.r, pend := t.cur.pend, wait := t.cur.wait }

/-- The thread has gone on to the next word: with no loop level active the program counter is 4 further and the
levels are as before (R121), and the thread waits for nothing. -/
def GoesOn (s t : State) : Prop :=
  t.cur.wait = .none ∧
  (s.cur.r.loop0.cnt = 0 → s.cur.r.loop1.cnt = 0 →
    t.cur.r.pc = s.cur.r.pc + 4 ∧ t.cur.r.loop0 = s.cur.r.loop0 ∧ t.cur.r.loop1 = s.cur.r.loop1)

/-- The outcome is a next state in which `g[d]` holds `v` (nothing is written where d is g0, R54), the flags `fl` have
been ORed into FFLAGS, and everything else but the program counter and the loop counts is as before. -/
def WritesG (o : Out) (s : State) (d : Reg) (v : Word) (fl : Flags) : Prop :=
  ∃ t, o = .next t ∧ OnlyThread s t ∧ KeepsThread s t ∧ GoesOn s t ∧
    (∀ n, t.g n = if n = d ∧ d ≠ 0 then v else s.g n) ∧ (∀ n, t.f n = s.f n) ∧
    t.cur.r.fflags = s.cur.r.fflags ||| fl

/-- The same for an instruction whose destination is an f register. -/
def WritesF (o : Out) (s : State) (d : Reg) (v : Word) (fl : Flags) : Prop :=
  ∃ t, o = .next t ∧ OnlyThread s t ∧ KeepsThread s t ∧ GoesOn s t ∧
    (∀ n, t.f n = if n = d then v else s.f n) ∧ (∀ n, t.g n = s.g n) ∧
    t.cur.r.fflags = s.cur.r.fflags ||| fl

/-- Element `i` of width `w` of a word, element 0 in the lowest bits (R94). -/
def laneOf (w : Nat) (v : Word) (i : Nat) : Nat := v.toNat / 2 ^ (w * i) % 2 ^ w

/-- The same as a signed number, or unsigned where `z`. -/
def laneVal (z : Bool) (w : Nat) (v : Word) (i : Nat) : Int :=
  if z then (laneOf w v i : Int) else (laneOf w v i : Int).bmod (2 ^ w)

/-- The signed or unsigned range of a width (R94). -/
def laneLo (z : Bool) (w : Nat) : Int := if z then 0 else -(2 ^ (w - 1))
def laneHi (z : Bool) (w : Nat) : Int := if z then 2 ^ w - 1 else 2 ^ (w - 1) - 1

/-- Each element of `v` is, modulo 2^w, what `f` gives for that element. -/
def Lanes (w : Nat) (v : Word) (f : Nat → Int) : Prop := ∀ i < 64 / w, (laneOf w v i : Int) = f i % 2 ^ w

/-- No f register among `rs` belongs to a stream (R80). -/
def Unbound (s : State) (rs : List Reg) : Prop :=
  ∀ r ∈ rs, 28 ≤ r.val → s.cur.bound.getLsbD (r.val - 28) = false

/-- The exact value that an f register holds in the format of a precision modifier; bits above it are ignored
(R27, R79). -/
def floatIn (p : Prec) (s : State) (r : Reg) : Machine.Num := decodeFloat (precFmt p) ((s.f r).toNat % 2 ^ (precFmt p).width)

/-- `exact` rounded once into a format without saturation: the code and every flag, those that forming the value
raised with it (R42, R96). -/
def roundedTo (p : Prec) (rnd : Rnd) (exact : NumF) : Word × Flags :=
  let r := encodeFloat exact.1 (precFmt p) rnd false
  (BitVec.ofNat 64 r.1, r.2 ||| exact.2)

/-- No access of the executing thread is in flight and no refusal waits for it. -/
def Quiet (s : State) : Prop :=
  (∀ x ∈ s.inflight, ¬(x.h = s.curCore ∧ x.tid = s.curTid)) ∧ s.cur.refused = []

/-- The registers of the executing thread are as before, but for the program counter and the loop levels. -/
def KeepsRegs (s t : State) : Prop :=
  (∀ n, t.g n = s.g n) ∧ (∀ n, t.f n = s.f n) ∧ t.cur.r.fflags = s.cur.r.fflags

/-- The outcome is a next state in which the thread has gone on to the next word and nothing else has changed. -/
def PassesOn (o : Out) (s : State) : Prop :=
  ∃ t, o = .next t ∧ OnlyThread s t ∧ KeepsThread s t ∧ GoesOn s t ∧ KeepsRegs s t

/-- The outcome is a next state in which the program counter is `target` and nothing else has changed but the counts of
loop levels that were active; a thread that waited for nothing stays ready. -/
def JumpsTo (o : Out) (s : State) (target : Word) : Prop :=
  ∃ t, o = .next t ∧ OnlyThread s t ∧ KeepsThread s t ∧ KeepsRegs s t ∧ t.cur.r.pc = target ∧
    (s.cur.wait = .none → t.cur.wait = .none) ∧
    (s.cur.r.loop0.cnt = 0 → t.cur.r.loop0 = s.cur.r.loop0) ∧
    (s.cur.r.loop1.cnt = 0 → t.cur.r.loop1 = s.cur.r.loop1)

/-- The handler of the executing thread takes exact traps (R124). -/
def Handles (s : State) : Prop := s.cur.t.tvec.getLsbD 0 = true ∧ s.cur.t.inh = false

/-- The outcome is the entry of the thread's handler (R124, R404): TEPC, TCAUSE with CODE and INFO, INH, and the program
counter at TVEC.ADDR; TPLY, TVEC, HALTEN, the other registers and all else of the thread are as before, and so is
everything outside it. -/
def EntersHandler (o : Out) (s : State) (code info : Nat) (epc : Word) : Prop :=
  ∃ t, o = .next t ∧ OnlyThread s t ∧
    t.cur = { s.cur with
      t := { s.cur.t with tepc := epc &&& ~~~3#64, tcause := BitVec.ofNat 64 (code * 2 ^ 56 + info), inh := true }
      r := { s.cur.r with pc := s.cur.t.tvec &&& ~~~3#64 }
      wait := .none }

/-- The outcome is a trap message (R124, R408, R410, R411): the thread waits for the reply of one new record, which names
the cause, the return address and the thread; its registers and trap registers are as before. -/
def SendsTrap (o : Out) (s : State) (code info : Nat) (epc : Word) : Prop :=
  ∃ t p, o = .next t ∧ t.posts = s.posts ++ [p] ∧ t.cur = { s.cur with wait := .trapReply p.id } ∧
    p.page = false ∧ p.due = true ∧ p.copies = [] ∧ p.waiter = .trap s.curCore s.curTid (s.unitId s.curCore) ∧
    p.body.take 2 = [BitVec.ofNat 64 (code * 2 ^ 56 + info), epc] ∧ t.mem = s.mem ∧
    t = { s with cores := t.cores, posts := t.posts, nextId := s.nextId + 1 }

/-- An exact trap in either form (R124). -/
def TakesTrap (o : Out) (s : State) (code info : Nat) (epc : Word) : Prop :=
  (Handles s → EntersHandler o s code info epc) ∧ (¬Handles s → SendsTrap o s code info epc)

/-- Where a branch or a jump goes: `off` words from its own address (R114, R115). -/
def wordsFrom (s : State) (off : Int) : Word := BitVec.ofInt 64 ((s.cur.r.pc.toNat : Int) + 4 * off)

/-- The executing thread's unit is resident, none that has ended, and its partition holds its interval;
nothing of the thread is in flight, refused or fenced, the store queue of its core has room (R146), and the next record
number is not that of an access in flight. -/
structure Ready (s : State) : Prop where
  quiet : Quiet s
  unfenced : s.cur.fencer = none
  unit : (s.core s.curCore).unit.isSome = true
  here : ∀ x ∈ s.castled, x.part ≠ (s.ctx s.curCtx).part
  fresh : ∀ x ∈ s.inflight, x.id ≠ s.nextId
  room : (s.storeQueue s.curCore).length < 32
  runs : s.unitOver (s.unitId s.curCore) = false

/-- An address of the local window of a compute core that checks 1 to 4 of R144 let pass: a multiple of the size, in a
bank that the unit has claimed and that is no shadow bank of a defined tile. (`core` and `physical` hold in every state
that a run reaches: there are 4,096 cores of 96 banks.) -/
structure InBank (s : State) (va : Word) (size : Nat) : Prop where
  core : s.curCore < 4096
  compute : isService s.curCore = false
  aligned : va.toNat % size = 0
  inside : va.toNat < 0x180000
  claimed : (s.core s.curCore).claimed (va.toNat / 0x4000) = true
  physical : (s.core s.curCore).phys (va.toNat / 0x4000) < 96
  visible : shadowIn (s.core s.curCore).tiles (va.toNat / 0x4000) = false

/-- A performed scalar access changes nothing outside its thread but the bytes that it writes, from `p`, and takes a
record number; of the thread, its trap registers, unit words and plies are as before, and it has gone on. -/
structure Accessed (s t : State) (p size : Nat) : Prop where
  frame : OnlyThread s { t with nextId := s.nextId, mem := s.mem }
  thread : KeepsThread s t
  next : GoesOn s t
  others : ∀ q, q < p ∨ p + size ≤ q → memGet t.mem q = memGet s.mem q

/-- What an access of the executing thread asks for at an address: its size, whether it stores, and the KIND that its
traps name (R405). -/
def MemForm := Instr × Word × Nat × Nat

/-- The plain loads of `[base + imm12 × S]` into g[d], with what each makes of the S bytes (R142). -/
def plainLoads (d base : Reg) (imm : BitVec 12) (look : Fin 16) : List (Instr × Nat × (Nat → Int)) :=
  [(.lb d base imm look, 1, fun x => (x : Int).bmod (2 ^ 8)), (.lbz d base imm look, 1, fun x => x),
   (.lh d base imm look, 2, fun x => (x : Int).bmod (2 ^ 16)), (.lhz d base imm look, 2, fun x => x),
   (.lw d base imm look, 4, fun x => (x : Int).bmod (2 ^ 32)), (.lwz d base imm look, 4, fun x => x),
   (.ld d base imm look, 8, fun x => x)]

/-- The plain stores of the low bytes of g[d] (R142). -/
def plainStores (d base : Reg) (imm : BitVec 12) (look : Fin 16) : List (Instr × Nat) :=
  [(.sb d base imm look, 1), (.sh d base imm look, 2), (.sw d base imm look, 4), (.sd d base imm look, 8)]

/-- The address of a plain access of size `n`: (g[base] + sext(imm12) × n) mod 2^64 (R143). -/
def plainAddr (s : State) (base : Reg) (imm : BitVec 12) (n : Nat) : Word :=
  BitVec.ofInt 64 ((s.g base).toNat + imm.toInt * n)

/-- The atomics on four and on eight bytes at [g[a] + g[b]], with the new value of each from the old one, the operand
and, for a CAS, g[d + 1], all taken modulo the width `w` (R181). -/
def atomics4 (d a b : Reg) (o : Order) (sc : Scope) (look : Fin 16) : List (Instr × (Nat → Nat → Nat → Nat)) :=
  [(.atwadd d a b o sc look, fun x v _ => (x + v) % 2 ^ 32), (.atwand d a b o sc look, fun x v _ => x &&& v),
   (.atwor d a b o sc look, fun x v _ => x ||| v), (.atwxor d a b o sc look, fun x v _ => x ^^^ v),
   (.atwmax d a b o sc look, fun x v _ => if (x : Int).bmod (2 ^ 32) < (v : Int).bmod (2 ^ 32) then v else x),
   (.atwmin d a b o sc look, fun x v _ => if (v : Int).bmod (2 ^ 32) < (x : Int).bmod (2 ^ 32) then v else x),
   (.atwmaxz d a b o sc look, fun x v _ => Max.max x v), (.atwminz d a b o sc look, fun x v _ => Min.min x v),
   (.swpw d a b o sc look, fun _ v _ => v), (.casw d a b o sc look, fun x v n => if x = v then n else x)]

def atomics8 (d a b : Reg) (o : Order) (sc : Scope) (look : Fin 16) : List (Instr × (Nat → Nat → Nat → Nat)) :=
  [(.atdadd d a b o sc look, fun x v _ => (x + v) % 2 ^ 64), (.atdand d a b o sc look, fun x v _ => x &&& v),
   (.atdor d a b o sc look, fun x v _ => x ||| v), (.atdxor d a b o sc look, fun x v _ => x ^^^ v),
   (.atdmax d a b o sc look, fun x v _ => if (x : Int).bmod (2 ^ 64) < (v : Int).bmod (2 ^ 64) then v else x),
   (.atdmin d a b o sc look, fun x v _ => if (v : Int).bmod (2 ^ 64) < (x : Int).bmod (2 ^ 64) then v else x),
   (.atdmaxz d a b o sc look, fun x v _ => Max.max x v), (.atdminz d a b o sc look, fun x v _ => Min.min x v),
   (.swpd d a b o sc look, fun _ v _ => v), (.casd d a b o sc look, fun x v n => if x = v then n else x)]

/-- Every scalar access with its address, its size and the KIND of its traps. -/
def accessForms (s : State) (d a b : Reg) (imm : BitVec 12) (size : Fin 4) (q : Bool) (o : Order) (sc : Scope)
    (look : Fin 16) : List MemForm :=
  (plainLoads d a imm look).map (fun e => (e.1, plainAddr s a imm e.2.1, e.2.1, 0)) ++
  (plainStores d a imm look).map (fun e => (e.1, plainAddr s a imm e.2, e.2, 1)) ++
  [(.flw d a imm look, plainAddr s a imm 4, 4, 0), (.fld d a imm look, plainAddr s a imm 8, 8, 0),
   (.fsw d a imm look, plainAddr s a imm 4, 4, 1), (.fsd d a imm look, plainAddr s a imm 8, 8, 1),
   (.ldo d a b size q sc look, s.g a + s.g b, 2 ^ size.val, 0),
   (.sto d a b size q sc look, s.g a + s.g b, 2 ^ size.val, 1)] ++
  (atomics4 d a b o sc look).map (fun e => (e.1, s.g a + s.g b, 4, 2)) ++
  (atomics8 d a b o sc look).map (fun e => (e.1, s.g a + s.g b, 8, 2))

/-- INFO of a trap that names an address: [55:4] its low 52 bits, [3:2] KIND, [1:0] a code (R405). -/
def infoAt (va : Word) (kind code : Nat) : Nat := va.toNat % 2 ^ 52 * 16 + kind * 4 + code

/-- No loop level ends at the present word. -/
def NoLoopEnd (s : State) : Prop := s.cur.r.pc ≠ s.cur.r.loop0.lend ∧ s.cur.r.pc ≠ s.cur.r.loop1.lend

/-- The executing thread dispatches its next command at once: nothing of it is in flight or refused, the command that it
dispatched 64 plies before has finished (R66, R67). -/
structure Accepting (s : State) : Prop where
  quiet : Quiet s
  ring : s.ringBusy = false

/-- Only the executing core has changed, and of it only what `keep` takes from the core after; the other threads of the
core are as before, but for a wait that ends and its status. -/
structure OnlyCore (s t : State) (keep : Core → Core) : Prop where
  module : t = { s with cores := t.cores }
  cores : ∀ h, h ≠ s.curCore → t.core h = s.core h
  core : t.core s.curCore = keep (t.core s.curCore)
  others : ∀ tid, tid ≠ s.curTid → ∀ x, x = t.thread s.curCore tid →
    x = { s.thread s.curCore tid with wait := x.wait, u := x.u }

/-- A command has been accepted (R65, R66): it has the thread's ply number and is in its ring; the thread has gone on, and
no register of it has changed; `th` is the thread before with what the unit writes in it, and `keep` the core before with
what the unit changes in it. -/
structure Dispatched (s t : State) (keep : Core → Core) (th : Thread) : Prop where
  frame : OnlyCore s t keep
  thread : t.cur = { th with
    r := t.cur.r, pend := t.cur.pend, wait := .none, plyCtr := s.cur.plyCtr + 1, ring := t.cur.ring }
  ply : t.cur.ring.getLast? = some { ply := s.cur.plyCtr, addr := s.cur.r.pc, word := s.curWord }
  regs : KeepsRegs s t
  next : GoesOn s t

/-- The core before, with the units of another core: what a command that enters no unit leaves. -/
def Core.sameBut (c : Core) (x : Core) : Core := { c with threads := x.threads, lastAccept := x.lastAccept }

/-- The vector unit's commands with their operation, operand registers, streams and rounding mode (R193–R206). -/
def vecForms (a b : Reg) (look : Fin 16) (dst src dim : Fin 4) (rnd : Rnd) :
    List (Instr × VecOp × Reg × Reg × Nat × Nat × Nat × Rnd) :=
  [(.vcvt look dst src rnd, .vcvt, 0, 0, dst, src, 0, rnd), (.vadd b look dst src rnd, .vadd, 0, b, dst, src, 0, rnd),
   (.vsub b look dst src rnd, .vsub, 0, b, dst, src, 0, rnd), (.vmul b look dst src rnd, .vmul, 0, b, dst, src, 0, rnd),
   (.vfma a b look dst src rnd, .vfma, a, b, dst, src, 0, rnd), (.vmax b look dst src rnd, .vmax, 0, b, dst, src, 0, rnd),
   (.vmin b look dst src rnd, .vmin, 0, b, dst, src, 0, rnd), (.vceq b look dst src rnd, .vceq, 0, b, dst, src, 0, rnd),
   (.vclt b look dst src rnd, .vclt, 0, b, dst, src, 0, rnd), (.vcle b look dst src rnd, .vcle, 0, b, dst, src, 0, rnd),
   (.vsel a b look dst src rnd, .vsel, a, b, dst, src, 0, rnd), (.vscale a look dst src rnd, .vscale, a, 0, dst, src, 0, rnd),
   (.vexp2 look dst src rnd, .vexp2, 0, 0, dst, src, 0, rnd), (.vlog2 look dst src rnd, .vlog2, 0, 0, dst, src, 0, rnd),
   (.vrcp look dst src rnd, .vrcp, 0, 0, dst, src, 0, rnd), (.vrsq look dst src rnd, .vrsq, 0, 0, dst, src, 0, rnd),
   (.vsumx look dst src rnd, .vsumx, 0, 0, dst, src, 0, rnd), (.vdotx b look dst src rnd, .vdotx, 0, b, dst, src, 0, rnd),
   (.vrdq a look dst rnd, .vrdq, a, 0, dst, 0, 0, rnd), (.vclrq look dst rnd, .vclrq, 0, 0, dst, 0, 0, rnd),
   (.vmaxr a look src rnd, .vmaxr, a, 0, 0, src, 0, rnd), (.vqnt b look dst src rnd, .vqnt, 0, b, dst, src, 0, rnd),
   (.vsbase a b look dst, .vsbase, a, b, dst, 0, 0, .rne), (.vsdim a b look dst dim, .vsdim, a, b, dst, 0, dim, .rne),
   (.vsetvl a look, .vsetvl, a, 0, 0, 0, 0, .rne)]

/-- A vector command as it stands in its queue, with what it read at dispatch. -/
def vecAt (s : State) (e : VecOp × Reg × Reg × Nat × Nat × Nat × Rnd) : VecCmd :=
  { op := e.1, tid := s.curTid, ply := s.cur.plyCtr, addr := s.cur.r.pc, a := s.g e.2.1, b := s.g e.2.2.1,
    bf := e.2.2.1.val, scalar := (s.f e.2.2.1).setWidth 32, dst := e.2.2.2.1, src := e.2.2.2.2.1, dim := e.2.2.2.2.2.1,
    rnd := e.2.2.2.2.2.2, seq := 0, since := s.now }

/-- The matrix commands with their operation, operand registers, stream, accumulator tile and rounding mode (R222). -/
def matForms (a b : Reg) (look : Fin 16) (ms k : Fin 4) (rnd : Rnd) :
    List (Instr × MatOp × Reg × Reg × Nat × Nat × Rnd) :=
  [(.mmaw a b look ms k, .mmaw, a, b, ms, k, .rne), (.mmah a b look ms k, .mmah, a, b, ms, k, .rne),
   (.mmae a b look ms k, .mmae, a, b, ms, k, .rne), (.mmai a b look ms k, .mmai, a, b, ms, k, .rne),
   (.mmas a b look ms k, .mmas, a, b, ms, k, .rne), (.mmaq a b look ms k, .mmaq, a, b, ms, k, .rne),
   (.mrd a b look ms k rnd, .mrd, a, b, ms, k, rnd), (.mld a b look ms, .mld, a, b, ms, 0, .rne),
   (.mst a b look ms, .mst, a, b, ms, 0, .rne)]

def matAt (s : State) (e : MatOp × Reg × Reg × Nat × Nat × Rnd) : MatCmd :=
  { op := e.1, tid := s.curTid, ply := s.cur.plyCtr, addr := s.cur.r.pc, a := s.g e.2.1, b := s.g e.2.2.1,
    ms := e.2.2.2.1, k := e.2.2.2.2.1, rnd := e.2.2.2.2.2, m := 0, prog := 0, capA := [], capB := [], codeB := 0, flags := 0,
    last := false, seq := 0 }

/-- The copy commands that move bytes (R238, R244, R245). -/
def copyForms (a b : Reg) (look cnt : Fin 16) (ce : Bool) (rnd : Rnd) : List (Instr × CopyOp × Rnd) :=
  [(.chl a b look cnt ce, .chl, .rne), (.clh a b look cnt ce, .clh, .rne), (.cbb a b look cnt ce rnd, .cbb, rnd),
   (.cmc a b look cnt ce rnd, .cmc, rnd), (.cgath a b look cnt ce, .cgath, .rne), (.cscat a b look cnt ce, .cscat, .rne)]

/-- The quasi-random commands with their second operand register, order and stream (R259). -/
def qrnForms (a b : Reg) (look : Fin 16) (gray : Bool) (st : Fin 4) (rnd : Rnd) :
    List (Instr × QrnOp × Reg × Bool × Nat × Rnd) :=
  [(.qld a b look, .qld, b, false, 0, .rne), (.qscr a b look, .qscr, b, false, 0, .rne),
   (.qpt a b look gray rnd, .qpt, b, gray, 0, rnd), (.qseq a b look gray st rnd, .qseq, b, gray, st, rnd),
   (.qskip a look, .qskip, 0, false, 0, .rne)]

/-- A late fault is listed for its thread, which holds four (R406). -/
def Faulted (s t : State) (code unit : Nat) : Prop :=
  t.cur.late = s.cur.late ++ [{ code := code, ply := s.cur.plyCtr, addr := s.cur.r.pc, unit := unit }]

/-- A way of a set of the tag table holds a block. -/
abbrev tagHit (s : State) (set way sz blk : Nat) : Prop :=
  ((s.core s.curCore).tag set way).v = true ∧ ((s.core s.curCore).tag set way).sz = sz ∧
  ((s.core s.curCore).tag set way).blk = blk

/-- `n` bytes from `x` lie in the local window and are backed for the resident unit: in banks that it has claimed on a
compute core, in the mailbox memory on a service core (slot_backed, R150). -/
def Backed (s : State) (x n : Nat) : Prop :=
  if isService s.curCore then x + n ≤ 0x200000
  else ∀ i < n, x + i < 0x180000 ∧ (s.core s.curCore).claimed ((x + i) / 0x4000) = true

/-- A tile command has been performed: its status is in TSTATUS, and it has changed nothing but the tile table, the rename
map, and which threads still wait. -/
def TileDone (s t : State) (status : Word) : Prop :=
  Dispatched s t (fun x => { s.core s.curCore with
    threads := x.threads, lastAccept := x.lastAccept, tiles := x.tiles, rename := x.rename, regBanks := x.regBanks
    evicted := x.evicted }) { s.cur with u := { s.cur.u with tstatus := status } }

/-- Nobody uses a tile of the executing unit, and the unit is in place. -/
structure Unused (s : State) (e : Nat) : Prop where
  users : s.tileUsed s.curCore (s.unitId s.curCore) e = false
  here : s.evictedOf s.curCore (s.unitId s.curCore) = none
  unit : (s.core s.curCore).unit.isSome = true

/-- The state in which the executing thread's command has been accepted by its unit and has its ply number, and the unit
has not acted on it (R65, R66). -/
def State.accepted (s : State) (unit : Nat) : State :=
  (s.modCur (·.takePly s.curWord)).modCore s.curCore fun c =>
    { c with lastAccept := tput c.lastAccept (acceptKey unit) s.curTid }

/-- A command has been performed at once: its thread has taken a ply number and gone on, and of the thread only its unit
words have changed besides. -/
structure Completes (s t : State) : Prop where
  ply : t.cur.plyCtr = s.cur.plyCtr + 1
  entry : t.cur.ring.getLast? = some { ply := s.cur.plyCtr, addr := s.cur.r.pc, word := s.curWord }
  regs : KeepsRegs s t
  next : GoesOn s t
  traps : t.cur.t = s.cur.t

/-- The outcome is a next state in which the command has been performed, the thread's unit words are `w`, and `p` holds. -/
def Answers (o : Out) (s : State) (w : UnitWords) (p : State → Prop) : Prop :=
  ∃ t, o = .next t ∧ Completes s t ∧ t.cur.u = w ∧ p t

/-- The executing thread's unit is resident, its context's partition is not castled out, and no earlier command waits at
the graph engine of its context or the collective engine of its die, so that either performs the next at once (R343,
R400). -/
structure Served (s : State) : Prop where
  unit : (s.core s.curCore).unit.isSome = true
  here : ∀ x ∈ s.castled, x.part ≠ (s.ctx s.curCtx).part
  first : ∀ k ∈ s.cmds, (k.unit = Un.grf → k.u.ctx ≠ s.curCtx) ∧ (k.unit = Un.col → dieOf k.h ≠ dieOf s.curCore)

/-- A command of the executing thread as its unit holds it while it performs it (R66, R343, R400). -/
def State.commandOf (s : State) (unit : Nat) (op : CmdOp) : PendCmd :=
  { id := s.nextId, unit := unit, h := s.curCore, u := s.unitId s.curCore, tid := s.curTid, ply := s.cur.plyCtr
    addr := s.cur.r.pc, op := op, cls := s.resClass s.curCore, page := .none }

/-- A collective command that its engine performs on `u` reads the eight words `d` of its descriptor at `va`, a 64-byte
boundary outside the local window, without a fault (R386, R388, R400). -/
def State.readsWords (s u : State) (va : Word) (d : List Word) : Prop :=
  va.toNat % 64 = 0 ∧ 0x200000 ≤ va.toNat ∧
  ∃ bs, u.readVa s.curCore s.curTid s.curCtx 1 .copyRead va.toNat 64 = (u, .ok bs) ∧
    d = (chunks 8 8 bs).map (fun b => w64 (numOf b))

/-- No command of the executing thread has been accepted and not yet performed (R343, R400). -/
def NonePending (s : State) : Prop := ∀ k ∈ s.cmds, k.u ≠ s.unitId s.curCore ∨ k.tid ≠ s.curTid

/-- Nothing follows at once from the state of the launches and graphs (R318, R327, R339). -/
def Settled (s : State) : Prop := s.settleStep = none

/-- `c` is a child of the executing context that is not being deleted, with its entry `y` (R294). -/
structure Child (s : State) (c : Nat) (x y : Ctx) : Prop where
  self : tget s.ctxs s.curCtx = some x
  child : tget s.ctxs c = some y
  other : c ≠ s.curCtx
  below : y.level ≠ 0
  parent : y.parent = s.curCtx
  alive : y.st ≠ .draining
  number : c < 2 ^ 12

/-- `c` has no child. -/
def Leaf (s : State) (c : Nat) : Prop := s.subtree c = [c] ∧ s.childrenOf c = []

/-- The stage-2 root of a context lists no entry. -/
def NoTables (s : State) (y : Ctx) : Prop := ∀ i < 64, s.entry y.ttb2 i % 2 = 0

/-- No buffer of the module holds a translation of a context (R309). -/
def Forgotten (s : State) (c : Nat) : Prop :=
  (∀ k ∈ s.cores, (∀ e ∈ k.2.itlb, e.ctx ≠ c) ∧ ∀ e ∈ k.2.dtlb, e.ctx ≠ c) ∧
  (∀ l ∈ s.clusterTlb, ∀ e ∈ l.2, e.ctx ≠ c) ∧ ∀ l ∈ s.nestedTlb, ∀ e ∈ l.2, e.ctx ≠ c

/-- No buffer of the module holds a translation of a context that goes through the GPA pages from `lo` to before `hi`
(R309). -/
def Unmapped (s : State) (c lo hi : Nat) : Prop :=
  (∀ k ∈ s.cores, ∀ e ∈ k.2.itlb ++ k.2.dtlb, e.mapsTo c lo hi = false) ∧
  (∀ l ∈ s.clusterTlb, ∀ e ∈ l.2, e.mapsTo c lo hi = false) ∧ ∀ l ∈ s.nestedTlb, ∀ e ∈ l.2, e.mapsTo c lo hi = false

/-- One new drain of a kind (R301). -/
def NewDrain (s t : State) (k : DrainKind) : Prop := ∃ d, t.drains = s.drains ++ [d] ∧ d.kind = k ∧ d.id = s.nextId

/-- A thread of a core that holds a unit; it has not exited and is not halted. -/
structure Live (s : State) (h tid : Nat) (c : Core) (t : Thread) : Prop where
  core : s.core h = c
  thread : tget c.threads tid = some t
  unit : c.unit.isSome = true
  running : t.exited = none
  free : t.halted = false

/-- The one record of the state, posted in a mailbox: at `r` of service core `h`, a record of an area of a context there,
with a SEQ that is not 0. -/
structure PostedAt (s : State) (p : Post) (h r : Nat) : Prop where
  only : s.posts = [p]
  copies : p.copies = [(h, r)]
  service : isService h = true
  aligned : r % 64 = 0
  record : 64 ≤ r % 0x4000
  inside : r + 64 ≤ 0x200000
  area : s.recordAt h r = true
  taken : s.local8 h (r + 0x20) % 2 ^ 63 ≠ 0

/-- The words of a record apart from SEQ and REPLY: the offset of each in the record (R286, R411). -/
def recordOffsets : List Nat := [0, 8, 0x10, 0x18, 0x30, 0x38]
/-- No unit is evicted on any core. -/
def NoneEvicted (s : State) : Prop := ∀ c ∈ s.cores, c.2.evicted = []

/-- The only drain of the module. -/
def OnlyDrain (s : State) (d : Drain) (k : DrainKind) : Prop := s.drains = [d] ∧ d.kind = k

/-- Nothing that a drain covers is in flight. -/
def Performed (s : State) (d : Drain) : Prop := ∀ a ∈ s.inflight, a.id ∉ d.covers

/-- A byte of the private alias of a core of an interval (R15, R418). -/
def inInterval (hs : List Nat) (a : Nat) : Prop := spaAlias ≤ a ∧ a < spaAlias + 2 ^ 33 ∧ (aliasParts (a - spaAlias)).1 ∈ hs
/-- The head of a queue belongs to a thread of the resident unit that is not halted. -/
structure Serves (s : State) (h tid : Nat) (c : Core) (th : Thread) : Prop where
  core : s.core h = c
  thread : tget c.threads tid = some th
  free : th.halted = false

/-- A message arrives alone, and its context's partition holds its interval. -/
structure Arrives (s : State) (m : Msg) (ctx : Nat) : Prop where
  only : s.msgs = [m]
  here : (s.part (s.ctx ctx).part).out = false
/-- The one unit of the module, on core `h`, with its one bus handle, which is no domain handle. -/
structure OneHandle (s : State) (h n : Nat) (c : Core) (r : Resident) (b : Handle) : Prop where
  cores : s.cores = [(h, c)]
  unit : c.unit = some r
  here : c.evicted = []
  castled : s.castled = []
  bus : c.bus = [(n, b)]
  number : n < 4
  mine : b.unit = r.id
  flat : b.dom = false

/-- The first operation of the one handle is over: it is gone, and its thread has its flags, the status and DISC. -/
def BusEnds (out : Out) (h n : Nat) (b : Handle) (o : BusOp) (th : Thread) (st : Nat) : Prop :=
  ∃ t, out = .next t ∧ (t.core h).bus = [(n, { b with ops := b.ops.drop 1 })] ∧
    (t.thread h o.tid).r.fflags = th.r.fflags ||| o.flags ∧
    (t.thread h o.tid).u = { th.u with bstat := st, bdisc := o.disc }

/-- The one collective of an engine, the oldest of its queue, runs, and its partition holds its interval. -/
structure OneCollective (s : State) (die q : Nat) (k : ColQ) (o : ColOp) : Prop where
  queue : (s.die die).col.queues = [(q, k)]
  op : k.ops = [o]
  runs : o.running = true
  here : (s.part (s.ctx k.ctx).part).out = false
  room : 1 ≤ k.w
  space : k.ended.length < 16

/-- The collective has ended at this member with a status, and nothing but messages has gone out. -/
def CollectiveEnds (out : Out) (die q : Nat) (k : ColQ) (o : ColOp) (st : Nat) (msgs : List Msg → Prop) : Prop :=
  ∃ t, out = .next t ∧ msgs t.msgs ∧
    (t.die die).col.queues = [(q, { k with
      ops := [], ended := k.ended ++ [{ seq := o.seq, status := st, disc := o.disc }] })]

/-- A tile side of a copy command in a tile of the resident unit of compute core `h`: `n` bytes at byte `o` of the tile, in
one bank, from byte `a` of the core's local memory (R157, R236). -/
structure CopySide (s : State) (h : Nat) (c : Core) (u : UnitId) (w : Word) (t : Tile) (o n a : Nat) : Prop where
  core : s.core h = c
  unit : c.unit.map (·.id) = some u
  here : c.evicted = []
  compute : isService h = false
  number : h < 4096
  banks : ∀ k < 128, c.phys k < 128
  named : t.vbank + t.nb ≤ 128 ∧ (t.nosh = false → t.sbank + t.nb ≤ 128)
  tile : tget c.tiles (formEntry w) = some t
  open_ : formSh h w = true → t.nosh = false ∧ t.freeing = false
  inside : o + n ≤ t.nb * 0x4000
  oneBank : o % 0x4000 + n ≤ 0x4000
  address : a = (if formSh h w then t.sbank else t.vbank) * 0x4000 + o

/-- The format of the visible bank that holds byte `o` of a tile, and its SAT. -/
def tileFormat (c : Core) (t : Tile) (o : Nat) : Nat × Bool :=
  ((c.bank (t.vbank + o / 0x4000)).format, (c.bank (t.vbank + o / 0x4000)).sat)

/-- A write of `n` bytes has been counted at a core whose counters were those of `c` (R240). -/
def Counted (t : State) (h : Nat) (c : Core) (k : Option Nat) (n : Nat) : Prop :=
  ∀ j, (t.core h).sync.counter j = c.sync.counter j - (if k = some j then BitVec.ofNat 48 n else 0)

/-- A started copy command of the resident unit that can make a write now, the one command of its core. -/
structure CopyRuns (s : State) (h : Nat) (c : Core) (q : CopyCmd) : Prop where
  core : s.core h = c
  unit : c.unit.map (·.id) = some q.unit
  here : c.evicted = []
  queue : c.cpy = [q]
  started : q.started = true
  more : q.isDone h = false
  page : s.pageClear q.page = true
  leave : q.leave.wanted = true → q.leave.held = true

/-- A row of `n` bytes that a matrix command moves between a register and a tile: a row of the register (R214), and the
addresses of its bytes in the banks of a compute core, each bank number naming a physical bank of its own (R135, R153). -/
structure MatrixRow (s : State) (h : Nat) (c : Core) (q : MatCmd) (t : Tile) (r n a : Nat) : Prop where
  compute : isService h = false
  number : h < 4096
  banks : ∀ k < 128, c.phys k < 128
  apart : ∀ i < 128, ∀ j < 128, c.phys i = c.phys j → i = j
  tile : tget c.tiles q.entry = some t
  row : r < (c.mat.reg q.rc).rows
  size : n ≤ 136
  inside : a + n ≤ 0x200000
  address : a = q.rowAt t r

/-- The last step of a row command has been taken exactly when no row is left (R226). -/
def RowTaken (t : State) (h : Nat) (q : MatCmd) (prog rows : Nat) : Prop :=
  ∃ p, (t.core h).mat.queue = [p] ∧ p.prog = prog + 1 ∧ p.last = decide (rows ≤ prog + 1) ∧ p.op = q.op ∧ p.a = q.a ∧ p.b = q.b

/-- The values of k whose products step `p` of a multiplication adds to the elements of row `i`, of `cols` in all (R224). -/
def stepProducts (op : MatOp) (cols p i : Nat) : List Nat :=
  match op with
  | .mmaw => if i / 16 = p % 2 ∧ p / 2 < cols then [p / 2] else []
  | .mmah => [2 * p, 2 * p + 1].filter (· < cols)
  | _ => [4 * p, 4 * p + 1, 4 * p + 2, 4 * p + 3].filter (· < cols)

/-- The destination tile of a collective on core `h`: `bytes` bytes at address `a` of its shadow, in one bank, whose visible
bank has the format `fmt` (R388, R390). -/
structure CollectiveTile (s : State) (o : ColOp) (h : Nat) (c : Core) (t : Tile) (fmt bytes a : Nat) : Prop where
  form : Cd.dtile o.desc = true
  noFormat : Cd.dfmt o.desc = 0
  uncounted : Cd.ce o.desc = false
  at_ : Cd.dcore o.desc = h
  core : s.core h = c
  unit : c.unit.map (·.id) = some (s.colUnit h o)
  here : c.evicted = []
  compute : isService h = false
  number : h < 4096
  banks : ∀ n < 128, c.phys n < 128
  named : t.vbank + t.nb ≤ 128 ∧ (t.nosh = false → t.sbank + t.nb ≤ 128)
  tile : tget c.tiles (formEntry (Cd.dst o.desc)) = some t
  shadow : t.nosh = false
  open_ : t.freeing = false
  format : (c.bank (t.vbank + formOff h (Cd.dst o.desc) / 0x4000)).format = fmt
  inside : formOff h (Cd.dst o.desc) + bytes ≤ t.nb * 0x4000
  oneBank : formOff h (Cd.dst o.desc) % 0x4000 + bytes ≤ 0x4000
  aligned : formOff h (Cd.dst o.desc) % 4 = 0
  address : a = t.sbank * 0x4000 + formOff h (Cd.dst o.desc)

/-- FP32 elements at byte `a` of a core's local memory: integers, each encoded once (R42, R390). -/
def HoldsEncoded (s : State) (h a : Nat) (rnd : Rnd) (sat : Bool) (vs : List Int) : Prop :=
  ∀ i < vs.length, numOf (s.localBytes h (a + 4 * i) 4) =
    (encodeFloat (.exact (decide (vs.getD i 0 < 0)) (vs.getD i 0).natAbs 0) .fp32 rnd sat).1

/-- A BARRIER that this member has not yet begun, with no gate (R388, R389). -/
structure FreshBarrier (o : ColOp) : Prop where
  op : Cd.op o.desc = 4
  one : Cd.ne o.desc = 1
  gate : Cd.gate o.desc = false
  memory : Cd.stile o.desc = false
  sent : o.sent = []
  written : o.written = []
  partials : o.partials = []
  pages : o.pages = []
/-- A module without contexts, launches, units and engines' queues. -/
structure Idle (s : State) : Prop where
  ctxs : s.ctxs = []
  launches : s.launches = []
  cores : s.cores = []
  dies : s.dies = []

/-- ERR of a VF is set, which raises its vector where it was clear and no reset runs (R427, R439, R449). -/
def SetsErr (s t : State) (vf : Nat) : Prop :=
  (t.vfOf vf).intstat = (s.vfOf vf).intstat ||| 4 ∧
  t.mp.interrupts = if (s.vfOf vf).intstat.getLsbD 2 || (s.vfOf vf).resetting.isSome then s.mp.interrupts
    else s.mp.interrupts ++ [(vf, 2)]
/-- The management processor takes commands: it is not in recovery (R442, R454). -/
def Booted (s : State) : Prop := s.mp.boot = 0 ∨ s.mp.boot = 0xF0

/-- No command is under way, and none stands before the one that is performed (R443). -/
def FirstInOrder (s : State) : Prop := s.mp.job = none ∧ (s.mp.queue = [] ∨ s.mp.serving = true)

/-- The state that a command acts on: it is the one that has been taken from those that waited. -/
def served (s : State) : State := { s with mp := { s.mp with serving := false } }

/-- A command that the management processor performs at once: it has booted, nothing is under way or stands before it, EGEN
is GEN, and every byte that the command does not list is 0 (R443). -/
structure Commanded (s : State) (cmd : BitVec 512) (used : List (Nat × Nat)) : Prop where
  booted : Booted s
  free : FirstInOrder s
  current : mc cmd 4 4 = s.mp.gen.toNat
  plain : mcBad cmd used = false

/-- The response of a command: the slot holds the word with STATUS, GEN has counted a change, and the rest is `u`. -/
def Responds (o : Out) (slot : Fin 16) (w : BitVec 512) (st : Nat) (change : Bool) (u : State) : Prop :=
  o = .next { u with mp := { u.mp with
    serving := false, gen := if change then u.mp.gen + 1 else u.mp.gen, slots := tput u.mp.slots slot.val (putBytes w 1 1 st) } }

/-- A command that changes state has completed with OK, and `p` holds after it. -/
def CommandDone (o : Out) (s : State) (slot : Fin 16) (w : BitVec 512) (p : State → Prop) : Prop :=
  ∃ t, o = .next t ∧ tget t.mp.slots slot.val = some (putBytes w 1 1 0) ∧ t.mp.gen = s.mp.gen + 1 ∧ t.mp.job = none ∧ p t

/-- Every command with the event that it is, but for SUMMARY, which has no EGEN, and VFRESET, whose OP byte is part of what
it leaves to do. -/
noncomputable def commandForms (slot : Fin 16) (cmd : BitVec 512) : List (Instr × Event) :=
  [(.modnum slot cmd, .modnum slot cmd), (.pcreate slot cmd, .pcreate slot cmd), (.pdestroy slot cmd, .pdestroy slot cmd),
   (.prepare slot cmd, .prepare slot cmd), (.commit slot cmd, .commit slot cmd), (.abort slot cmd, .abort slot cmd),
   (.vfassign slot cmd, .vfassign slot cmd), (.slice slot cmd, .slice slot cmd), (.leavecap slot cmd, .leavecap slot cmd),
   (.debugHalt slot cmd, .debugHalt slot cmd), (.debugStep slot cmd, .debugStep slot cmd),
   (.debugResume slot cmd, .debugResume slot cmd), (.debugHalten slot cmd, .debugHalten slot cmd),
   (.debugRead slot cmd, .debugRead slot cmd), (.debugWrite slot cmd, .debugWrite slot cmd),
   (.debugRing slot cmd, .debugRing slot cmd), (.attest slot cmd, .attest slot cmd), (.unfence slot cmd, .unfence slot cmd),
   (.domain slot cmd, .domain slot cmd), (.grouptab slot cmd, .grouptab slot cmd),
   (.mcmdReservedOp slot cmd, .mcmdReservedOp slot cmd)]

/-- A DEBUG command on one thread of a core, with the parameter bytes that it lists. -/
structure Debugs (s : State) (cmd : BitVec 512) (h tid : Nat) (c : Core) (th : Thread) : Prop where
  command : Commanded s cmd [(8, 1), (0x0A, 2), (0x0C, 1), (0x0D, 1), (0x0E, 1), (0x10, 8), (0x18, 8)]
  target : mc cmd 0x0A 2 = h ∧ mc cmd 0x0C 1 = tid ∧ mc cmd 0x0D 1 = 0 ∧ mc cmd 0x0E 1 < 2
  number : h < 4096
  core : s.core h = c
  unit : c.unit.isSome = true
  thread : tget c.threads tid = some th
  running : th.exited = none

/-- A buffer that the host gives: a 64-byte-aligned address of the host's memory (R443). -/
def Buffer (a : Nat) : Prop := a % 64 = 0 ∧ a < 2 ^ 48

/-! ## What every core holds at most (R152, R153, R185, R212, R234, R255, R403) -/

/-- Tile-table entries below 64, each of 1 to 16 banks among bank numbers 0 to 95, no bank number named twice. -/
def TilesBounded (ts : Table Tile) : Prop :=
  (∀ x ∈ ts, x.1 < 64 ∧ 1 ≤ x.2.nb ∧ x.2.nb ≤ 16 ∧ x.2.vbank + x.2.nb ≤ 96 ∧
    (x.2.nosh = false → x.2.sbank + x.2.nb ≤ 96) ∧ x.2.names.Nodup) ∧
  ts.Pairwise (fun x y => ∀ n ∈ x.2.names, n ∉ y.2.names)

/-- A matrix unit has at most 8 commands on each of its four streams. -/
def MatUnit.Bounded (m : MatUnit) : Prop := ∀ ms < 4, (m.queue.filter (fun q => q.ms == ms)).length ≤ 8

/-- A thread has at most 4 late faults. -/
def Thread.Bounded (t : Thread) : Prop := t.late.length ≤ 4

/-- An evicted unit's part of a core keeps the bounds. -/
structure Evicted.Bounded (e : Evicted) : Prop where
  threads : ∀ x ∈ e.threads, x.2.Bounded
  tiles : TilesBounded e.tiles
  vector : e.vec.queue.length ≤ 8
  matrix : ∀ m, e.mat = some m → m.Bounded

/-- A core keeps the bounds: of its resident unit, of the threads parked in its register banks, and of evicted units. -/
structure Core.Bounded (c : Core) : Prop where
  threads : ∀ x ∈ c.threads, x.2.Bounded
  parked : ∀ n u tid o t, (n, RegBank.parked u tid o t) ∈ c.regBanks → t.Bounded
  tiles : TilesBounded c.tiles
  vector : c.vec.queue.length ≤ 8
  points : c.qrn.queue.length ≤ 8
  copies : c.cpy.length ≤ 16
  matrix : c.mat.Bounded
  evicted : ∀ e ∈ c.evicted, e.Bounded

/-- Every core keeps the bounds, in the module and in the castle stores. -/
def State.Bounded (s : State) : Prop :=
  (∀ x ∈ s.cores, x.2.Bounded) ∧ ∀ k ∈ s.castled, ∀ x ∈ k.cores, x.2.Bounded

end Machine

end Sys2Proof
end

