-- ==== Sys2Proof/Certificates/Slice0/Obligations.lean ====
section
/-! DEFINITION. The statements for the provers, from the numbered rules of the spec. -/

open Sys2Proof Sys2Proof.Machine

/-! ## Integer results (R88–R94) -/

/-- R88: the sum, the difference and the product modulo 2^64, and the high halves of the signed and the unsigned product,
into d; nothing else changes. R88: the W forms work on the low 32 bits and write the 32-bit result sign-extended. R88: AND,
OR, XOR and ANDN bit by bit. R88: comparisons, minima and maxima, signed and unsigned, and the choice by the old value of d.
R88: the shift amount is b[5:0]; SLL and SRL fill with zeros, SRA with the sign, ROL and ROR lose no bit. R88: counts of
bits and the reversals of bit and byte order; CLZ and CTZ of 0 are 64, FFS of 0 is 0. -/
def Obligations.IntegerRegisterResults : Prop :=
  (∀ (d a b : Reg) (s : State),
     (∃ v, WritesG (exec (.add d a b) s) s d v 0 ∧ v.toNat = ((s.g a).toNat + (s.g b).toNat) % 2 ^ 64) ∧
     (∃ v, WritesG (exec (.sub d a b) s) s d v 0 ∧
       (v.toNat : Int) = ((s.g a).toNat - (s.g b).toNat : Int) % 2 ^ 64) ∧
     (∃ v, WritesG (exec (.mul d a b) s) s d v 0 ∧ v.toNat = (s.g a).toNat * (s.g b).toNat % 2 ^ 64) ∧
     (∃ v, WritesG (exec (.mulh d a b) s) s d v 0 ∧ v.toInt = (s.g a).toInt * (s.g b).toInt / 2 ^ 64) ∧
     (∃ v, WritesG (exec (.mulhz d a b) s) s d v 0 ∧ v.toNat = (s.g a).toNat * (s.g b).toNat / 2 ^ 64)) ∧
  (∀ (d a b : Reg) (s : State), ∀ n, n = (s.g b).toNat % 32 →
     (∃ v, WritesG (exec (.addw d a b) s) s d v 0 ∧ v.toInt = ((s.g a).toInt + (s.g b).toInt).bmod (2 ^ 32)) ∧
     (∃ v, WritesG (exec (.subw d a b) s) s d v 0 ∧ v.toInt = ((s.g a).toInt - (s.g b).toInt).bmod (2 ^ 32)) ∧
     (∃ v, WritesG (exec (.mulw d a b) s) s d v 0 ∧ v.toInt = ((s.g a).toInt * (s.g b).toInt).bmod (2 ^ 32)) ∧
     (∃ v, WritesG (exec (.sllw d a b) s) s d v 0 ∧ v.toInt = ((s.g a).toInt * 2 ^ n).bmod (2 ^ 32)) ∧
     (∃ v, WritesG (exec (.srlw d a b) s) s d v 0 ∧
       v.toInt = (((s.g a).toNat % 2 ^ 32 / 2 ^ n : Nat) : Int).bmod (2 ^ 32)) ∧
     (∃ v, WritesG (exec (.sraw d a b) s) s d v 0 ∧ v.toInt = ((s.g a).toInt.bmod (2 ^ 32)) / 2 ^ n)) ∧
  (∀ (d a b : Reg) (s : State),
     (∃ v, WritesG (exec (.and d a b) s) s d v 0 ∧
       ∀ i < 64, v.getLsbD i = ((s.g a).getLsbD i && (s.g b).getLsbD i)) ∧
     (∃ v, WritesG (exec (.or d a b) s) s d v 0 ∧
       ∀ i < 64, v.getLsbD i = ((s.g a).getLsbD i || (s.g b).getLsbD i)) ∧
     (∃ v, WritesG (exec (.xor d a b) s) s d v 0 ∧
       ∀ i < 64, v.getLsbD i = ((s.g a).getLsbD i != (s.g b).getLsbD i)) ∧
     (∃ v, WritesG (exec (.andn d a b) s) s d v 0 ∧
       ∀ i < 64, v.getLsbD i = ((s.g a).getLsbD i && !(s.g b).getLsbD i))) ∧
  (∀ (d a b : Reg) (s : State),
     WritesG (exec (.slt d a b) s) s d (if (s.g a).toInt < (s.g b).toInt then 1 else 0) 0 ∧
     WritesG (exec (.sltz d a b) s) s d (if (s.g a).toNat < (s.g b).toNat then 1 else 0) 0 ∧
     (∃ v, WritesG (exec (.min d a b) s) s d v 0 ∧ v.toInt = Min.min (s.g a).toInt (s.g b).toInt) ∧
     (∃ v, WritesG (exec (.max d a b) s) s d v 0 ∧ v.toInt = Max.max (s.g a).toInt (s.g b).toInt) ∧
     (∃ v, WritesG (exec (.minz d a b) s) s d v 0 ∧ v.toNat = Min.min (s.g a).toNat (s.g b).toNat) ∧
     (∃ v, WritesG (exec (.maxz d a b) s) s d v 0 ∧ v.toNat = Max.max (s.g a).toNat (s.g b).toNat) ∧
     WritesG (exec (.sel d a b) s) s d (if s.g d = 0 then s.g b else s.g a) 0) ∧
  (∀ (d a b : Reg) (s : State), ∀ n, n = (s.g b).toNat % 64 →
     (∃ v, WritesG (exec (.sll d a b) s) s d v 0 ∧ v.toNat = (s.g a).toNat * 2 ^ n % 2 ^ 64) ∧
     (∃ v, WritesG (exec (.srl d a b) s) s d v 0 ∧ v.toNat = (s.g a).toNat / 2 ^ n) ∧
     (∃ v, WritesG (exec (.sra d a b) s) s d v 0 ∧ v.toInt = (s.g a).toInt / 2 ^ n) ∧
     (∃ v, WritesG (exec (.rol d a b) s) s d v 0 ∧ ∀ i < 64, v.getLsbD ((i + n) % 64) = (s.g a).getLsbD i) ∧
     (∃ v, WritesG (exec (.ror d a b) s) s d v 0 ∧ ∀ i < 64, v.getLsbD i = (s.g a).getLsbD ((i + n) % 64))) ∧
  (∀ (d a : Reg) (s : State),
     (∃ v, WritesG (exec (.clz d a) s) s d v 0 ∧ v.toNat ≤ 64 ∧ (∀ i < v.toNat, (s.g a).getLsbD (63 - i) = false) ∧
       (v.toNat < 64 → (s.g a).getLsbD (63 - v.toNat) = true)) ∧
     (∃ v, WritesG (exec (.ctz d a) s) s d v 0 ∧ v.toNat ≤ 64 ∧ (∀ i < v.toNat, (s.g a).getLsbD i = false) ∧
       (v.toNat < 64 → (s.g a).getLsbD v.toNat = true)) ∧
     (∃ v, WritesG (exec (.ffs d a) s) s d v 0 ∧ (s.g a = 0 → v = 0) ∧
       (s.g a ≠ 0 → 1 ≤ v.toNat ∧ (s.g a).getLsbD (v.toNat - 1) = true ∧
         ∀ i < v.toNat - 1, (s.g a).getLsbD i = false)) ∧
     (∃ v, WritesG (exec (.popc d a) s) s d v 0 ∧
       v.toNat = ((List.range 64).filter (fun i => (s.g a).getLsbD i)).length) ∧
     (∃ v, WritesG (exec (.brev d a) s) s d v 0 ∧ ∀ i < 64, v.getLsbD (63 - i) = (s.g a).getLsbD i) ∧
     (∃ v, WritesG (exec (.bswap d a) s) s d v 0 ∧ ∀ i < 8, ∀ j < 8,
       v.getLsbD (8 * (7 - i) + j) = (s.g a).getLsbD (8 * i + j)))

/-- R89 at 64 bits: a division by zero gives all ones and the dividend and sets DZ, even for g0; otherwise the
quotient is truncated toward zero and the remainder has the sign of the dividend, with no flag (also for the most
negative number divided by −1). R88 and R89 at 32 bits: the same on the low 32 bits, each result sign-extended. R94:
packed quotients and remainders by div_int, DZ where an element of b is 0; minima, maxima and compares. -/
def Obligations.DivisionResults : Prop :=
  (∀ (d a b : Reg) (s : State),
     (s.g b = 0 →
       WritesG (exec (.div d a b) s) s d (-1) Flags.dz ∧ WritesG (exec (.divz d a b) s) s d (-1) Flags.dz ∧
       WritesG (exec (.rem d a b) s) s d (s.g a) Flags.dz ∧ WritesG (exec (.remz d a b) s) s d (s.g a) Flags.dz) ∧
     (s.g b ≠ 0 →
       (∃ v, WritesG (exec (.div d a b) s) s d v 0 ∧
         v.toInt = ((s.g a).toInt.tdiv (s.g b).toInt).bmod (2 ^ 64)) ∧
       (∃ v, WritesG (exec (.divz d a b) s) s d v 0 ∧ v.toNat = (s.g a).toNat / (s.g b).toNat) ∧
       (∃ v, WritesG (exec (.rem d a b) s) s d v 0 ∧ v.toInt = (s.g a).toInt.tmod (s.g b).toInt) ∧
       (∃ v, WritesG (exec (.remz d a b) s) s d v 0 ∧ v.toNat = (s.g a).toNat % (s.g b).toNat))) ∧
  (∀ (d a b : Reg) (s : State), ∀ (x y : Int) (m n : Nat),
     x = (s.g a).toInt.bmod (2 ^ 32) → y = (s.g b).toInt.bmod (2 ^ 32) →
     m = (s.g a).toNat % 2 ^ 32 → n = (s.g b).toNat % 2 ^ 32 →
     (n = 0 →
       WritesG (exec (.divw d a b) s) s d (-1) Flags.dz ∧ WritesG (exec (.divwz d a b) s) s d (-1) Flags.dz ∧
       WritesG (exec (.remw d a b) s) s d (BitVec.ofInt 64 x) Flags.dz ∧
       WritesG (exec (.remwz d a b) s) s d (BitVec.ofInt 64 x) Flags.dz) ∧
     (n ≠ 0 →
       (∃ v, WritesG (exec (.divw d a b) s) s d v 0 ∧ v.toInt = (x.tdiv y).bmod (2 ^ 32)) ∧
       (∃ v, WritesG (exec (.divwz d a b) s) s d v 0 ∧ v.toInt = ((m / n : Nat) : Int).bmod (2 ^ 32)) ∧
       (∃ v, WritesG (exec (.remw d a b) s) s d v 0 ∧ v.toInt = x.tmod y) ∧
       (∃ v, WritesG (exec (.remwz d a b) s) s d v 0 ∧ v.toInt = ((m % n : Nat) : Int).bmod (2 ^ 32)))) ∧
  (∀ (d a b : Reg) (l : LaneW) (z : Bool) (s : State) (w : Nat) (x y : Nat → Int),
     w = laneBits l → (∀ i, x i = laneVal z w (s.g a) i) → (∀ i, y i = laneVal z w (s.g b) i) →
     (∃ v fl, WritesG (exec (.pdiv d a b l z) s) s d v fl ∧
       Lanes w v (fun i => if y i = 0 then -1 else (x i).tdiv (y i)) ∧
       ((∃ i < 64 / w, y i = 0) → fl = Flags.dz) ∧ ((∀ i < 64 / w, y i ≠ 0) → fl = 0)) ∧
     (∃ v fl, WritesG (exec (.prem d a b l z) s) s d v fl ∧
       Lanes w v (fun i => if y i = 0 then x i else (x i).tmod (y i)) ∧
       ((∃ i < 64 / w, y i = 0) → fl = Flags.dz) ∧ ((∀ i < 64 / w, y i ≠ 0) → fl = 0)) ∧
     (∃ v, WritesG (exec (.pmin d a b l z) s) s d v 0 ∧ Lanes w v (fun i => Min.min (x i) (y i))) ∧
     (∃ v, WritesG (exec (.pmax d a b l z) s) s d v 0 ∧ Lanes w v (fun i => Max.max (x i) (y i))) ∧
     (∃ v, WritesG (exec (.pceq d a b l) s) s d v 0 ∧ Lanes w v (fun i => if x i = y i then -1 else 0)) ∧
     (∃ v, WritesG (exec (.pclt d a b l z) s) s d v 0 ∧ Lanes w v (fun i => if x i < y i then -1 else 0)))

/-- R90 and R91: S is the sign-extended and Z the zero-extended immediate. R90, R91: the words of the immediate
instructions: major, d, a and the immediate. R92: shifts and rotation by an immediate amount; with W = 1 on the low 32 bits,
sign-extended. R93: BEXTZ and BEXTI extract LEN bits from POS, zero- or sign-extended; BDEP replaces them in d and keeps the
other bits of d. `len` is the field LEN − 1. R92, R93: the words of shifts by an immediate amount and of bit fields: KIND, W
and AMT; OP, LEN1, POS and LEN0. A word of these majors that is none of them is illegal: a nonzero reserved field, AMT[5]
with W, OP 3, POS + LEN above 64. -/
def Obligations.ImmediateAndBitFieldResults : Prop :=
  (∀ (d a : Reg) (imm : BitVec 16) (imm21 : BitVec 21) (s : State),
     (∃ v, WritesG (exec (.addi d a imm) s) s d v 0 ∧ v.toInt = ((s.g a).toInt + imm.toInt).bmod (2 ^ 64)) ∧
     (∃ v, WritesG (exec (.andi d a imm) s) s d v 0 ∧
       ∀ i < 64, v.getLsbD i = ((s.g a).getLsbD i && (if i < 16 then imm.getLsbD i else imm.getLsbD 15))) ∧
     (∃ v, WritesG (exec (.ori d a imm) s) s d v 0 ∧
       ∀ i < 64, v.getLsbD i = ((s.g a).getLsbD i || (decide (i < 16) && imm.getLsbD i))) ∧
     (∃ v, WritesG (exec (.xori d a imm) s) s d v 0 ∧
       ∀ i < 64, v.getLsbD i = ((s.g a).getLsbD i != (decide (i < 16) && imm.getLsbD i))) ∧
     WritesG (exec (.slti d a imm) s) s d (if (s.g a).toInt < imm.toInt then 1 else 0) 0 ∧
     WritesG (exec (.sltzi d a imm) s) s d (if ((s.g a).toNat : Int) < imm.toInt % 2 ^ 64 then 1 else 0) 0 ∧
     (∃ v, WritesG (exec (.li d imm21) s) s d v 0 ∧ v.toInt = imm21.toInt) ∧
     (∃ v, WritesG (exec (.lsi d imm21) s) s d v 0 ∧
       v.toNat = ((s.g d).toNat * 2 ^ 21 + imm21.toNat) % 2 ^ 64)) ∧
  (∀ (d a : Reg) (imm : BitVec 16) (imm21 : BitVec 21) (i l : Nat → Nat),
     (∀ m, i m = m * 2 ^ 26 + d.val * 2 ^ 21 + a.val * 2 ^ 16 + imm.toNat) →
     (∀ m, l m = m * 2 ^ 26 + d.val * 2 ^ 21 + imm21.toNat) →
     decodeWord (i 0x02) = .ok (.addi d a imm) ∧ decodeWord (i 0x03) = .ok (.andi d a imm) ∧
     decodeWord (i 0x04) = .ok (.ori d a imm) ∧ decodeWord (i 0x05) = .ok (.xori d a imm) ∧
     decodeWord (i 0x06) = .ok (.slti d a imm) ∧ decodeWord (i 0x07) = .ok (.sltzi d a imm) ∧
     decodeWord (l 0x09) = .ok (.li d imm21) ∧ decodeWord (l 0x0A) = .ok (.lsi d imm21)) ∧
  (∀ (d a : Reg) (n : Fin 64) (m : Fin 32) (s : State),
     (∃ v, WritesG (exec (.slli d a n) s) s d v 0 ∧ v.toNat = (s.g a).toNat * 2 ^ n.val % 2 ^ 64) ∧
     (∃ v, WritesG (exec (.srli d a n) s) s d v 0 ∧ v.toNat = (s.g a).toNat / 2 ^ n.val) ∧
     (∃ v, WritesG (exec (.srai d a n) s) s d v 0 ∧ v.toInt = (s.g a).toInt / 2 ^ n.val) ∧
     (∃ v, WritesG (exec (.rori d a n) s) s d v 0 ∧
       ∀ i < 64, v.getLsbD i = (s.g a).getLsbD ((i + n.val) % 64)) ∧
     (∃ v, WritesG (exec (.slliw d a m) s) s d v 0 ∧ v.toInt = ((s.g a).toInt * 2 ^ m.val).bmod (2 ^ 32)) ∧
     (∃ v, WritesG (exec (.srliw d a m) s) s d v 0 ∧
       v.toInt = (((s.g a).toNat % 2 ^ 32 / 2 ^ m.val : Nat) : Int).bmod (2 ^ 32)) ∧
     (∃ v, WritesG (exec (.sraiw d a m) s) s d v 0 ∧ v.toInt = ((s.g a).toInt.bmod (2 ^ 32)) / 2 ^ m.val) ∧
     (∃ v, WritesG (exec (.roriw d a m) s) s d v 0 ∧
       ∀ i < 64, v.getLsbD i = (s.g a).getLsbD ((Min.min i 31 + m.val) % 32))) ∧
  (∀ (d a : Reg) (pos len : Fin 64) (s : State), pos.val + (len.val + 1) ≤ 64 →
     (∃ v, WritesG (exec (.bextz d a pos len) s) s d v 0 ∧
       ∀ i < 64, v.getLsbD i = (decide (i ≤ len.val) && (s.g a).getLsbD (pos.val + i))) ∧
     (∃ v, WritesG (exec (.bexti d a pos len) s) s d v 0 ∧
       ∀ i < 64, v.getLsbD i = (s.g a).getLsbD (pos.val + Min.min i len.val)) ∧
     (∃ v, WritesG (exec (.bdep d a pos len) s) s d v 0 ∧
       ∀ i < 64, v.getLsbD i =
         if pos.val ≤ i ∧ i < pos.val + (len.val + 1) then (s.g a).getLsbD (i - pos.val) else (s.g d).getLsbD i)) ∧
  (∀ (w : Nat) (i : Instr), decodeWord w = .ok i →
     (w / 2 ^ 26 = 0x08 → ∃ (d a : Reg) (n : Fin 64) (m : Fin 32) (k : Nat → Nat),
       (∀ kind, k kind = 0x08 * 2 ^ 26 + d.val * 2 ^ 21 + a.val * 2 ^ 16 + kind * 2 ^ 14) ∧
       (i = .slli d a n ∧ w = k 0 + n.val ∨ i = .srli d a n ∧ w = k 1 + n.val ∨ i = .srai d a n ∧ w = k 2 + n.val ∨
         i = .rori d a n ∧ w = k 3 + n.val ∨ i = .slliw d a m ∧ w = k 0 + 2 ^ 13 + m.val ∨
         i = .srliw d a m ∧ w = k 1 + 2 ^ 13 + m.val ∨ i = .sraiw d a m ∧ w = k 2 + 2 ^ 13 + m.val ∨
         i = .roriw d a m ∧ w = k 3 + 2 ^ 13 + m.val)) ∧
     (w / 2 ^ 26 = 0x0C → ∃ (d a : Reg) (pos len : Fin 64) (k : Nat → Nat), pos.val + (len.val + 1) ≤ 64 ∧
       (∀ op, k op = 0x0C * 2 ^ 26 + d.val * 2 ^ 21 + a.val * 2 ^ 16 + len.val % 32 * 2 ^ 11 + op * 2 ^ 9 +
         len.val / 32 * 2 ^ 6 + pos.val) ∧
       (i = .bextz d a pos len ∧ w = k 0 ∨ i = .bexti d a pos len ∧ w = k 1 ∨ i = .bdep d a pos len ∧ w = k 2)))

/-- R94: packed sums, differences and products, with the saturating forms, which set SAT where an element clamps. R94:
packed shifts by the amount modulo the width, and the counts of an element's bits; no flag. -/
def Obligations.PackedResults : Prop :=
  (∀ (d a b : Reg) (l : LaneW) (z : Bool) (s : State) (w : Nat) (x y : Nat → Int) (sum diff : Nat → Int),
     w = laneBits l → (∀ i, x i = laneVal z w (s.g a) i) → (∀ i, y i = laneVal z w (s.g b) i) →
     (∀ i, sum i = x i + y i) → (∀ i, diff i = x i - y i) →
     (∃ v, WritesG (exec (.padd d a b l) s) s d v 0 ∧ Lanes w v sum) ∧
     (∃ v, WritesG (exec (.psub d a b l) s) s d v 0 ∧ Lanes w v diff) ∧
     (∃ v fl, WritesG (exec (.padds d a b l z) s) s d v fl ∧
       Lanes w v (fun i => Max.max (laneLo z w) (Min.min (laneHi z w) (sum i))) ∧
       ((∃ i < 64 / w, sum i < laneLo z w ∨ laneHi z w < sum i) → fl = Flags.sat) ∧
       ((∀ i < 64 / w, laneLo z w ≤ sum i ∧ sum i ≤ laneHi z w) → fl = 0)) ∧
     (∃ v fl, WritesG (exec (.psubs d a b l z) s) s d v fl ∧
       Lanes w v (fun i => Max.max (laneLo z w) (Min.min (laneHi z w) (diff i))) ∧
       ((∃ i < 64 / w, diff i < laneLo z w ∨ laneHi z w < diff i) → fl = Flags.sat) ∧
       ((∀ i < 64 / w, laneLo z w ≤ diff i ∧ diff i ≤ laneHi z w) → fl = 0)) ∧
     (∃ v, WritesG (exec (.pmul d a b l) s) s d v 0 ∧ Lanes w v (fun i => x i * y i)) ∧
     (∃ v, WritesG (exec (.pmulh d a b l z) s) s d v 0 ∧ Lanes w v (fun i => x i * y i / 2 ^ w))) ∧
  (∀ (d a b : Reg) (l : LaneW) (s : State) (w : Nat) (x : Nat → Nat) (n : Nat → Nat),
     w = laneBits l → (∀ i, x i = laneOf w (s.g a) i) → (∀ i, n i = laneOf w (s.g b) i % w) →
     (∃ v, WritesG (exec (.psll d a b l) s) s d v 0 ∧ Lanes w v (fun i => x i * 2 ^ n i)) ∧
     (∃ v, WritesG (exec (.psrl d a b l) s) s d v 0 ∧ Lanes w v (fun i => (x i / 2 ^ n i : Nat))) ∧
     (∃ v, WritesG (exec (.psra d a b l) s) s d v 0 ∧ Lanes w v (fun i => laneVal false w (s.g a) i / 2 ^ n i)) ∧
     (∃ v, WritesG (exec (.pclz d a l) s) s d v 0 ∧ ∀ i < 64 / w, laneOf w v i ≤ w ∧
       x i < 2 ^ (w - laneOf w v i) ∧ (laneOf w v i < w → 2 ^ (w - laneOf w v i - 1) ≤ x i)) ∧
     (∃ v, WritesG (exec (.pctz d a l) s) s d v 0 ∧ ∀ i < 64 / w, laneOf w v i ≤ w ∧
       x i % 2 ^ laneOf w v i = 0 ∧ (laneOf w v i < w → x i / 2 ^ laneOf w v i % 2 = 1)) ∧
     (∃ v, WritesG (exec (.pffs d a l) s) s d v 0 ∧ ∀ i < 64 / w, (x i = 0 → laneOf w v i = 0) ∧
       (x i ≠ 0 → 1 ≤ laneOf w v i ∧ x i % 2 ^ (laneOf w v i - 1) = 0 ∧ x i / 2 ^ (laneOf w v i - 1) % 2 = 1)) ∧
     (∃ v, WritesG (exec (.ppopc d a l) s) s d v 0 ∧ ∀ i < 64 / w,
       laneOf w v i = ((List.range w).filter (fun j => (x i).testBit j)).length))

/-! ## Floating point (R79, R80, R95–R101) -/

/-- R96 and R79: each FPU word that rounds forms the exact result and writes encode_float of it, without saturation,
into f[d] with the bits above the format 0, and ORs its flags; the stream-bound form is not among these. -/
def Obligations.FpuRoundsTheExactResultOnce : Prop :=
  ∀ (d a b : Reg) (p : Prec) (rnd : Rnd) (s : State) (x y z : Machine.Num), Unbound s [d, a, b] →
    x = floatIn p s a → y = floatIn p s b → z = floatIn p s d → ∀ r : NumF → Word × Flags, r = roundedTo p rnd →
    WritesF (exec (.fadd d a b p rnd) s) s d (r (addNum x y rnd)).1 (r (addNum x y rnd)).2 ∧
    WritesF (exec (.fsub d a b p rnd) s) s d (r (addNum x y.negate rnd)).1 (r (addNum x y.negate rnd)).2 ∧
    WritesF (exec (.fmul d a b p rnd) s) s d (r (mulNum x y)).1 (r (mulNum x y)).2 ∧
    WritesF (exec (.fdiv d a b p rnd) s) s d (r (divNum x y)).1 (r (divNum x y)).2 ∧
    WritesF (exec (.fsqrt d a p rnd) s) s d (r (sqrtNum x)).1 (r (sqrtNum x)).2 ∧
    WritesF (exec (.fma d a b p rnd) s) s d (r (fmaNum x y z rnd)).1 (r (fmaNum x y z rnd)).2 ∧
    WritesF (exec (.fms d a b p rnd) s) s d (r (fmaNum x.negate y z rnd)).1 (r (fmaNum x.negate y z rnd)).2 ∧
    WritesF (exec (.fnms d a b p rnd) s) s d (r (fmaNum x y z.negate rnd)).1 (r (fmaNum x y z.negate rnd)).2

/-- R97: FMIN and FMAX give one operand, the other where one is a NaN and the default NaN where both are, −0 below +0,
NV for a signalling NaN and no other flag; sign injection keeps exponent and fraction of a and raises nothing. R98 and
R100: compares write 0 or 1, 0 with a NaN; FEQ raises NV for a signalling NaN only, FLT and FLE for any NaN; FCLASS
sets the one bit of its operand's class: a number is subnormal where its exponent field is 0, and normal where that
field is neither 0 nor all ones. -/
def Obligations.FloatComparesMinMaxAndSigns : Prop :=
  (∀ (d a b : Reg) (p : Prec) (s : State) (x y : Machine.Num) (nv : Flags) (W : Nat), Unbound s [d, a, b] →
     x = floatIn p s a → y = floatIn p s b → nv = (if x.isSig || y.isSig then Flags.nv else 0) →
     W = (precFmt p).width →
     (∃ v, WritesF (exec (.fmin d a b p) s) s d v nv ∧
       (x.isNan ∧ y.isNan → v.toNat = (precFmt p).nanCode) ∧
       (x.isNan = false ∧ (y.isNan ∨ cmpNum x y < 0 ∨ cmpNum x y = 0 ∧ (x.neg ∨ y.neg = false)) →
         v.toNat = (s.f a).toNat % 2 ^ W) ∧
       (y.isNan = false ∧ (x.isNan ∨ 0 < cmpNum x y ∨ cmpNum x y = 0 ∧ (y.neg ∨ x.neg = false)) →
         v.toNat = (s.f b).toNat % 2 ^ W)) ∧
     (∃ v, WritesF (exec (.fmax d a b p) s) s d v nv ∧
       (x.isNan ∧ y.isNan → v.toNat = (precFmt p).nanCode) ∧
       (x.isNan = false ∧ (y.isNan ∨ 0 < cmpNum x y ∨ cmpNum x y = 0 ∧ (x.neg = false ∨ y.neg)) →
         v.toNat = (s.f a).toNat % 2 ^ W) ∧
       (y.isNan = false ∧ (x.isNan ∨ cmpNum x y < 0 ∨ cmpNum x y = 0 ∧ (y.neg = false ∨ x.neg)) →
         v.toNat = (s.f b).toNat % 2 ^ W)) ∧
     (∃ v, WritesF (exec (.fsgn d a b p) s) s d v 0 ∧ ∀ i < 64, v.getLsbD i =
       if i < W - 1 then (s.f a).getLsbD i else decide (i = W - 1) && (s.f b).getLsbD i) ∧
     (∃ v, WritesF (exec (.fsgnn d a b p) s) s d v 0 ∧ ∀ i < 64, v.getLsbD i =
       if i < W - 1 then (s.f a).getLsbD i else decide (i = W - 1) && !(s.f b).getLsbD i) ∧
     (∃ v, WritesF (exec (.fsgnx d a b p) s) s d v 0 ∧ ∀ i < 64, v.getLsbD i =
       if i < W - 1 then (s.f a).getLsbD i else decide (i = W - 1) && ((s.f a).getLsbD i != (s.f b).getLsbD i))) ∧
  (∀ (d a b : Reg) (p : Prec) (s : State) (x y : Machine.Num), Unbound s [a, b] → x = floatIn p s a → y = floatIn p s b →
     (x.isNan ∨ y.isNan →
       WritesG (exec (.feq d a b p) s) s d 0 (if x.isSig || y.isSig then Flags.nv else 0) ∧
       WritesG (exec (.flt d a b p) s) s d 0 Flags.nv ∧ WritesG (exec (.fle d a b p) s) s d 0 Flags.nv) ∧
     (x.isNan = false ∧ y.isNan = false →
       WritesG (exec (.feq d a b p) s) s d (if cmpNum x y = 0 then 1 else 0) 0 ∧
       WritesG (exec (.flt d a b p) s) s d (if cmpNum x y < 0 then 1 else 0) 0 ∧
       WritesG (exec (.fle d a b p) s) s d (if cmpNum x y ≤ 0 then 1 else 0) 0) ∧
     (∃ k, WritesG (exec (.fclass d a p) s) s d (BitVec.ofNat 64 (2 ^ k)) 0 ∧
       (k = 0 ↔ x = .inf true) ∧ (k = 3 ↔ x.isZero ∧ x.neg) ∧ (k = 4 ↔ x.isZero ∧ x.neg = false) ∧
       (k = 7 ↔ x = .inf false) ∧ (k = 8 ↔ x = .nan true) ∧ (k = 9 ↔ x = .nan false) ∧ k < 10 ∧
       (k ∈ [1, 2] → x.neg = true) ∧ (k ∈ [5, 6] → x.neg = false) ∧
       ∀ F ex, F = precFmt p → ex = (s.f a).toNat / 2 ^ F.fbits % 2 ^ F.ebits →
         (k ∈ [2, 5] ↔ ex = 0 ∧ (s.f a).toNat % 2 ^ F.fbits ≠ 0) ∧ (k ∈ [1, 6] ↔ ex ≠ 0 ∧ ex ≠ 2 ^ F.ebits - 1)))

/-- R98: a conversion decodes a in the source format, ignoring the bits above it, and writes encode_float of the value
in the target format. R99 and R101: integers from and to floating point, with the clamps and flags of encode_int and
encode_uint, and the moves of 64 bits between the files, which raise nothing. R23 and R42: encoding the value that a
code decodes to gives back the code and raises nothing, for every code of every format that is no NaN. -/
def Obligations.FloatConversions : Prop :=
  (∀ (d a : Reg) (rnd : Rnd) (s : State) (r : FFmt → FFmt → Rnd → Nat × Flags), Unbound s [d, a] →
     (∀ src dst m, r src dst m = encodeFloat (decodeFloat src ((s.f a).toNat % 2 ^ src.width)) dst m false) →
     WritesF (exec (.fdtos d a rnd) s) s d (BitVec.ofNat 64 (r .fp64 .fp32 rnd).1) (r .fp64 .fp32 rnd).2 ∧
     WritesF (exec (.fstod d a) s) s d (BitVec.ofNat 64 (r .fp32 .fp64 .rne).1) (r .fp32 .fp64 .rne).2 ∧
     WritesF (exec (.fstoh d a rnd) s) s d (BitVec.ofNat 64 (r .fp32 .fp16 rnd).1) (r .fp32 .fp16 rnd).2 ∧
     WritesF (exec (.fhtos d a) s) s d (BitVec.ofNat 64 (r .fp16 .fp32 .rne).1) (r .fp16 .fp32 .rne).2 ∧
     WritesF (exec (.fstob d a rnd) s) s d (BitVec.ofNat 64 (r .fp32 .bf16 rnd).1) (r .fp32 .bf16 rnd).2 ∧
     WritesF (exec (.fbtos d a) s) s d (BitVec.ofNat 64 (r .bf16 .fp32 .rne).1) (r .bf16 .fp32 .rne).2) ∧
  (∀ (d a : Reg) (p : Prec) (long : Bool) (rnd : Rnd) (s : State) (W : Nat), W = (if long then 64 else 32) →
     (Unbound s [a] →
       (∃ v fl, WritesG (exec (.ftoi d a p long false rnd) s) s d v fl ∧
         ((v.toNat % 2 ^ W, fl) = encodeInt (floatIn p s a) W rnd true) ∧ v.toInt = (v.toNat : Int).bmod (2 ^ W)) ∧
       (∃ v fl, WritesG (exec (.ftoi d a p long true rnd) s) s d v fl ∧
         ((v.toNat, fl) = encodeUint (floatIn p s a) W rnd)) ∧
       WritesG (exec (.fmvgf d a) s) s d (s.f a) 0) ∧
     (Unbound s [d] →
       (∀ i, i = ((s.g a).toNat : Int).bmod (2 ^ W) →
         WritesF (exec (.itof d a p long false rnd) s) s d (roundedTo p rnd (.ofInt i, 0)).1
           (roundedTo p rnd (.ofInt i, 0)).2) ∧
       (∀ n, n = (s.g a).toNat % 2 ^ W →
         WritesF (exec (.itof d a p long true rnd) s) s d (roundedTo p rnd (.ofInt n, 0)).1
           (roundedTo p rnd (.ofInt n, 0)).2) ∧
       WritesF (exec (.fmvfg d a) s) s d (s.g a) 0)) ∧
  (∀ (f : FFmt) (code : Nat) (rnd : Rnd), code < 2 ^ f.width → (decodeFloat f code).isNan = false →
     encodeFloat (decodeFloat f code) f rnd false = (code, 0))

/-- R80: a floating-point word that names a stream-bound register takes SBR with the number of the register, as in
R63, before any effect; here for one word of each operand shape. That d comes first where several of the registers are
bound is the model's choice (log 80). -/
def Obligations.StreamBoundRegisterTraps : Prop :=
  ∀ (d a b : Reg) (p : Prec) (rnd : Rnd) (long z : Bool) (imm : BitVec 12) (look : Fin 16) (s : State), Quiet s →
    (28 ≤ d.val ∧ s.cur.bound.getLsbD (d.val - 28) = true →
      TakesTrap (exec (.fadd d a b p rnd) s) s 0x03 (32 + d.val) s.cur.r.pc ∧
      TakesTrap (exec (.fsqrt d a p rnd) s) s 0x03 (32 + d.val) s.cur.r.pc ∧
      TakesTrap (exec (.itof d a p long z rnd) s) s 0x03 (32 + d.val) s.cur.r.pc ∧
      TakesTrap (exec (.fld d a imm look) s) s 0x03 (32 + d.val) s.cur.r.pc ∧
      TakesTrap (exec (.fsd d a imm look) s) s 0x03 (32 + d.val) s.cur.r.pc) ∧
    (28 ≤ a.val ∧ s.cur.bound.getLsbD (a.val - 28) = true →
      TakesTrap (exec (.ftoi d a p long z rnd) s) s 0x03 (32 + a.val) s.cur.r.pc)

/-! ## Control flow (R114–R121) -/

/-- R114: a branch whose condition holds goes `off` words from its own address, otherwise on to the next word; it
writes no register and no memory. R115 and R116: jumps; JAL leaves its return address in g1 and JALR in g[d], and JALR
reads g[a] first, so that d may be a; a register target that is no word address takes JMIS and writes nothing.
R114–R116: the words of branches and jumps, and that no other word of their majors is one: conditions 6 and 7, OP 2–7
and nonzero reserved fields are illegal. -/
def Obligations.BranchesAndJumps : Prop :=
  (∀ (a b : Reg) (off : BitVec 13) (s : State) (yes no : Out → Prop),
     yes = (fun o => JumpsTo o s (wordsFrom s off.toInt)) → no = (fun o => PassesOn o s) →
     (if s.g a = s.g b then yes else no) (exec (.beq a b off) s) ∧
     (if s.g a = s.g b then no else yes) (exec (.bne a b off) s) ∧
     (if (s.g a).toInt < (s.g b).toInt then yes else no) (exec (.blt a b off) s) ∧
     (if (s.g a).toInt < (s.g b).toInt then no else yes) (exec (.bge a b off) s) ∧
     (if (s.g a).toNat < (s.g b).toNat then yes else no) (exec (.bltz a b off) s) ∧
     (if (s.g a).toNat < (s.g b).toNat then no else yes) (exec (.bgez a b off) s)) ∧
  (∀ (d a : Reg) (off : BitVec 26) (s : State),
     JumpsTo (exec (.j off) s) s (wordsFrom s off.toInt) ∧
     (∃ t, exec (.jal off) s = .next t ∧ OnlyThread s t ∧ KeepsThread s t ∧ t.cur.r.pc = wordsFrom s off.toInt ∧
       (∀ n, t.g n = if n = 1 then s.cur.r.pc + 4 else s.g n) ∧ (∀ n, t.f n = s.f n) ∧
       t.cur.r.fflags = s.cur.r.fflags ∧ t.cur.r.loop0 = s.cur.r.loop0 ∧ t.cur.r.loop1 = s.cur.r.loop1) ∧
     ((s.g a).toNat % 4 = 0 →
       JumpsTo (exec (.jr a) s) s (s.g a) ∧
       (∃ t, exec (.jalr d a) s = .next t ∧ OnlyThread s t ∧ KeepsThread s t ∧ t.cur.r.pc = s.g a ∧
         (∀ n, t.g n = if n = d ∧ d ≠ 0 then s.cur.r.pc + 4 else s.g n) ∧ (∀ n, t.f n = s.f n) ∧
         t.cur.r.fflags = s.cur.r.fflags ∧ t.cur.r.loop0 = s.cur.r.loop0 ∧ t.cur.r.loop1 = s.cur.r.loop1)) ∧
     ((s.g a).toNat % 4 ≠ 0 → Quiet s →
       TakesTrap (exec (.jr a) s) s 0x06 ((s.g a).toNat % 2 ^ 56) s.cur.r.pc ∧
       TakesTrap (exec (.jalr d a) s) s 0x06 ((s.g a).toNat % 2 ^ 56) s.cur.r.pc)) ∧
  (∀ (w : Nat) (i : Instr), decodeWord w = .ok i →
     (w / 2 ^ 26 = 0x22 → ∃ (a b : Reg) (off : BitVec 13) (k : Nat → Nat),
       (∀ cond, k cond = 0x22 * 2 ^ 26 + a.val * 2 ^ 21 + b.val * 2 ^ 16 + cond * 2 ^ 13 + off.toNat) ∧
       (i = .beq a b off ∧ w = k 0 ∨ i = .bne a b off ∧ w = k 1 ∨ i = .blt a b off ∧ w = k 2 ∨
         i = .bge a b off ∧ w = k 3 ∨ i = .bltz a b off ∧ w = k 4 ∨ i = .bgez a b off ∧ w = k 5)) ∧
     (w / 2 ^ 26 = 0x23 → ∃ off : BitVec 26, i = .j off ∧ w = 0x23 * 2 ^ 26 + off.toNat) ∧
     (w / 2 ^ 26 = 0x24 → ∃ off : BitVec 26, i = .jal off ∧ w = 0x24 * 2 ^ 26 + off.toNat) ∧
     (w / 2 ^ 26 = 0x25 → ∃ d a : Reg,
       i = .jr a ∧ w = 0x25 * 2 ^ 26 + a.val * 2 ^ 16 ∨
       i = .jalr d a ∧ w = 0x25 * 2 ^ 26 + d.val * 2 ^ 21 + a.val * 2 ^ 16 + 2 ^ 8))

/-- R120: a LOOP of an idle level, with no conflict, starts the level with its count, its first and its last word and
goes on to the body, or past the body where the count is 0; a LOOP of an active level takes LOOPX. R121: an
instruction that completes at the last word of an active level counts one iteration of it, level 1 before level 0, and
goes back to the first body word while iterations remain; here by a NOP. R121: a branch, J or JR out of the body of a
level from within it sets the count of the level to 0, and one that stays in the body leaves it. R125: TRAP as the
last word of the active level 1 counts that iteration before it is taken, and TEPC is the first word of the body while
iterations remain. -/
def Obligations.HardwareLoops : Prop :=
  (∀ (a : Reg) (n : BitVec 12) (s : State) (p : Word), p = s.cur.r.pc →
     (s.cur.r.loop0.cnt = 0 → s.cur.r.loop1.cnt = 0 →
       (s.g a = 0 →
         JumpsTo (exec (.loop0 a n) s) s (p + 4 * BitVec.ofNat 64 n.toNat + 4) ∧
         JumpsTo (exec (.loop1 a n) s) s (p + 4 * BitVec.ofNat 64 n.toNat + 4)) ∧
       (s.g a ≠ 0 → ∀ l : Loop, l = { cnt := s.g a, sta := p + 4, lend := p + 4 * BitVec.ofNat 64 n.toNat } →
         (∃ t, exec (.loop0 a n) s = .next t ∧ OnlyThread s t ∧ KeepsThread s t ∧ KeepsRegs s t ∧
           t.cur.r.pc = p + 4 ∧ t.cur.r.loop0 = l ∧ t.cur.r.loop1 = s.cur.r.loop1) ∧
         (∃ t, exec (.loop1 a n) s = .next t ∧ OnlyThread s t ∧ KeepsThread s t ∧ KeepsRegs s t ∧
           t.cur.r.pc = p + 4 ∧ t.cur.r.loop1 = l ∧ t.cur.r.loop0 = s.cur.r.loop0))) ∧
     (Quiet s →
       (s.cur.r.loop0.cnt ≠ 0 → TakesTrap (exec (.loop0 a n) s) s 0x07 0 p) ∧
       (s.cur.r.loop1.cnt ≠ 0 → TakesTrap (exec (.loop1 a n) s) s 0x07 1 p))) ∧
  (∀ (s : State), ∃ t, exec .nop s = .next t ∧
     (s.cur.r.loop1.cnt ≠ 0 → s.cur.r.pc = s.cur.r.loop1.lend →
       t.cur.r.loop1 = { s.cur.r.loop1 with cnt := s.cur.r.loop1.cnt - 1 } ∧ t.cur.r.loop0 = s.cur.r.loop0 ∧
       t.cur.r.pc = if s.cur.r.loop1.cnt = 1 then s.cur.r.pc + 4 else s.cur.r.loop1.sta) ∧
     (s.cur.r.loop1.cnt = 0 ∨ s.cur.r.pc ≠ s.cur.r.loop1.lend →
       t.cur.r.loop1 = s.cur.r.loop1 ∧
       (s.cur.r.loop0.cnt ≠ 0 → s.cur.r.pc = s.cur.r.loop0.lend →
         t.cur.r.loop0 = { s.cur.r.loop0 with cnt := s.cur.r.loop0.cnt - 1 } ∧
         t.cur.r.pc = if s.cur.r.loop0.cnt = 1 then s.cur.r.pc + 4 else s.cur.r.loop0.sta) ∧
       (s.cur.r.loop0.cnt = 0 ∨ s.cur.r.pc ≠ s.cur.r.loop0.lend →
         t.cur.r.loop0 = s.cur.r.loop0 ∧ t.cur.r.pc = s.cur.r.pc + 4))) ∧
  (∀ (off : BitVec 26) (s : State) (q : Word) (inside : Loop → Word → Prop), q = wordsFrom s off.toInt →
     (∀ l x, inside l x ↔ l.sta.toNat ≤ x.toNat ∧ x.toNat ≤ l.lend.toNat) →
     ∃ t, exec (.j off) s = .next t ∧ t.cur.r.pc = q ∧
       (inside s.cur.r.loop0 s.cur.r.pc → ¬inside s.cur.r.loop0 q →
         t.cur.r.loop0 = { s.cur.r.loop0 with cnt := 0 }) ∧
       (¬inside s.cur.r.loop0 s.cur.r.pc ∨ inside s.cur.r.loop0 q → t.cur.r.loop0 = s.cur.r.loop0) ∧
       (inside s.cur.r.loop1 s.cur.r.pc → ¬inside s.cur.r.loop1 q →
         t.cur.r.loop1 = { s.cur.r.loop1 with cnt := 0 }) ∧
       (¬inside s.cur.r.loop1 s.cur.r.pc ∨ inside s.cur.r.loop1 q → t.cur.r.loop1 = s.cur.r.loop1)) ∧
  (∀ (code : BitVec 12) (s : State), Quiet s → Handles s → s.cur.r.loop1.cnt ≠ 0 → s.cur.r.pc = s.cur.r.loop1.lend →
     ∃ t, exec (.trap code) s = .next t ∧ t.cur.r.loop1.cnt = s.cur.r.loop1.cnt - 1 ∧
       t.cur.t.tcause = BitVec.ofNat 64 (0x04 * 2 ^ 56 + code.toNat) ∧ t.cur.t.inh = true ∧
       t.cur.r.pc = s.cur.t.tvec &&& ~~~3#64 ∧
       t.cur.t.tepc = (if s.cur.r.loop1.cnt = 1 then s.cur.r.pc + 4 else s.cur.r.loop1.sta) &&& ~~~3#64)

/-! ## System registers, TRAP, BRK, RTE and the thread words (R110–R133) -/

/-- R112, R113: NOP changes nothing; SRR writes the register's value into g[d], for the thread registers and the
identity registers (R85, R111, R119, R123, R404), for those that describe the resident unit, its context, its partition
and its launch (R111, R128, R297, R322, R434), and for the format of each bank of a compute core (R36). HMASK has the bit
of each assigned helper; UCNT of a unit with no access under way is the number of its threads that have not exited. -/
def Obligations.SrrReadsThreadAndIdentityRegisters : Prop :=
  ∀ (d : Reg) (s : State) (th : Thread) (h : Nat), th = s.cur → h = s.curCore →
    PassesOn (exec .nop s) s ∧
    (∀ (c : Core) (r : Resident) (x : Ctx) (p : Part) (k : CoreRegs), c = s.core h → c.unit = some r → x = s.ctx s.curCtx →
      p = s.part x.part → k = c.regs →
      (∃ v, WritesG (exec (.srr d 0x003) s) s d v 0 ∧ ∀ i < 64, v.getLsbD i = r.assigned.contains i) ∧
      ((∀ a ∈ s.inflight, a.unit ≠ r.id) → WritesG (exec (.srr d 0x004) s) s d
        (BitVec.ofNat 64 (c.threads.filter (fun t => t.2.exited.isNone)).length) 0) ∧
      (∀ l, tget s.launches r.id.lnum = some l → WritesG (exec (.srr d 0x0C4) s) s d (BitVec.ofInt 64 l.lebal) 0) ∧
      (∀ (n : Nat) (num : BitVec 12) (b : Bank), n < 96 → num.toNat = 0x400 + n → isService h = false → b = c.bank n →
        (c.claimed n = true → WritesG (exec (.srr d num) s) s d
          (BitVec.ofNat 64 (b.format + (if b.sat then 2 ^ 4 else 0) + (if b.badw then 2 ^ 5 else 0))) 0) ∧
        (Quiet s → c.claimed n = false →
          TakesTrap (exec (.srr d num) s) s 0x0A (infoAt (BitVec.ofNat 64 (n * 0x4000)) 0 1) s.cur.r.pc)) ∧
      (k.wayDef = true → WritesG (exec (.srr d 0x0A1) s) s d
        (BitVec.ofNat 64 (p.defMask.getD k.wayDie 0 + p.pways.getD k.wayDie 0 * 2 ^ 16)) 0) ∧
      ∀ e ∈ ([(0x018, k.wdogCount % 2 ^ 48 + k.wdogLimit * 2 ^ 48),
          (0x080, s.curCtx + (if x.level = 0 then s.curCtx else x.parent) * 2 ^ 12 + (if x.vf.isSome then 2 ^ 24 else 0) +
            (match x.st with | .new => 0 | .live => 1 | .draining => 2) * 2 ^ 25 + x.level * 2 ^ 27 + x.part * 2 ^ 32),
          (0x081, x.ttb1.toNat), (0x082, x.ttb2),
          (0x083, x.psaOff * 2 ^ 14 + x.svch * 2 ^ 32 + (if x.psaValid then 2 ^ 63 else 0)),
          (0x084, p.hbase), (0x085, p.hlen), (0x086, x.coreBase + x.coreLen * 2 ^ 12),
          (0x087, (if k.notRoot then 1 else 0) + (if k.badMask then 2 else 0)),
          (0x0A0, k.wayVf + (if k.wayDef then 2 ^ 12 else 0) + k.wayDie * 2 ^ 16),
          (0x0C0, r.id.lnum + r.node * 2 ^ 16 + (if r.prov then 2 ^ 32 else 0) + (if r.tail then 2 ^ 33 else 0) +
            s.resClass h * 2 ^ 34),
          (0x0C1, r.id.index), (0x0C2, r.ucoord.toNat), (0x0C3, (x.jobmap.getD 0).toNat),
          (0x0C5, (BitVec.ofInt 64 x.energy).toNat), (0x0C6, r.lcore),
          (0x0E0, (if p.det then 1 else 0) + (if p.cken then 2 else 0)),
          (0x0E1, x.pnum + x.rollbk * 2 ^ 48 + (if x.unprot then 2 ^ 63 else 0)),
          (0x0E2, c.errcnt * 2 ^ 32), (0x0E3, (s.die k.wayDie).fenced.toNat)] : List (BitVec 12 × Nat)),
        WritesG (exec (.srr d e.1) s) s d (BitVec.ofNat 64 e.2) 0) ∧
    ∀ e ∈ ([(0x001, th.r.fflags.setWidth 64), (0x002, BitVec.ofNat 64 s.curTid),
        (0x005, BitVec.ofNat 64
          (h + (hilbertXY h).1 * 2 ^ 12 + (hilbertXY h).2 * 2 ^ 18 + (if h % 16 = 15 then 2 ^ 24 else 0))),
        (0x006, BitVec.ofNat 64 s.curCtx), (0x007, s.cycle), (0x009, 0),
        (0x010, th.t.tvec), (0x011, th.t.tepc), (0x012, th.t.tcause),
        (0x013, BitVec.ofNat 64 (th.t.ply.toNat + th.t.lost.toNat * 2 ^ 32)),
        (0x014, BitVec.ofNat 64 ((if th.t.inh then 1 else 0) + (if th.t.halten then 2 else 0))),
        (0x020, th.r.loop0.cnt), (0x021, th.r.loop0.sta), (0x022, th.r.loop0.lend),
        (0x024, th.r.loop1.cnt), (0x025, th.r.loop1.sta), (0x026, th.r.loop1.lend)] : List (BitVec 12 × Word)),
      WritesG (exec (.srr d e.1) s) s d e.2 0

/-- R113: SRW writes the fields that its register has: FFLAGS, TVEC without bit 1, TEPC without bits 1 and 0, TCAUSE,
INH of TSTAT, and the loop registers; a write to a read-only register changes nothing. R58, R113: SRR and SRW of a
number that the core does not assign take ILL with the word in INFO. -/
def Obligations.SrwAndUnassignedRegisterNumbers : Prop :=
  (∀ (a : Reg) (s : State) (v : Word), v = s.g a →
     (∃ t, exec (.srw a 0x001) s = .next t ∧ OnlyThread s t ∧ KeepsThread s t ∧ GoesOn s t ∧ (∀ n, t.g n = s.g n) ∧
       (∀ n, t.f n = s.f n) ∧ t.cur.r.fflags.toNat = v.toNat % 2 ^ 6) ∧
     (∀ e ∈ ([(0x010, { s.cur.t with tvec := v &&& ~~~2#64 }), (0x011, { s.cur.t with tepc := v &&& ~~~3#64 }),
         (0x012, { s.cur.t with tcause := v }), (0x014, { s.cur.t with inh := v.getLsbD 0 })] :
         List (BitVec 12 × TrapRegs)),
       ∃ t, exec (.srw a e.1) s = .next t ∧ OnlyThread s t ∧ GoesOn s t ∧ KeepsRegs s t ∧
         t.cur = { s.cur with t := e.2, r := t.cur.r, pend := t.cur.pend, wait := .none }) ∧
     (NoLoopEnd s →
       ∀ e ∈ ([(0x020, { s.cur.r.loop0 with cnt := v }, s.cur.r.loop1),
           (0x021, { s.cur.r.loop0 with sta := v &&& ~~~3#64 }, s.cur.r.loop1),
           (0x024, s.cur.r.loop0, { s.cur.r.loop1 with cnt := v }),
           (0x025, s.cur.r.loop0, { s.cur.r.loop1 with sta := v &&& ~~~3#64 })] :
           List (BitVec 12 × Loop × Loop)),
         ∃ t, exec (.srw a e.1) s = .next t ∧ OnlyThread s t ∧ KeepsThread s t ∧ KeepsRegs s t ∧
           t.cur.r.pc = s.cur.r.pc + 4 ∧ t.cur.r.loop0 = e.2.1 ∧ t.cur.r.loop1 = e.2.2) ∧
     (NoLoopEnd s → s.cur.r.pc ≠ v &&& ~~~3#64 →
       ∀ e ∈ ([(0x022, { s.cur.r.loop0 with lend := v &&& ~~~3#64 }, s.cur.r.loop1),
           (0x026, s.cur.r.loop0, { s.cur.r.loop1 with lend := v &&& ~~~3#64 })] : List (BitVec 12 × Loop × Loop)),
         ∃ t, exec (.srw a e.1) s = .next t ∧ OnlyThread s t ∧ KeepsThread s t ∧ KeepsRegs s t ∧
           t.cur.r.pc = s.cur.r.pc + 4 ∧ t.cur.r.loop0 = e.2.1 ∧ t.cur.r.loop1 = e.2.2) ∧
     (∀ n ∈ ([0x002, 0x003, 0x004, 0x005, 0x006, 0x007, 0x008, 0x009, 0x013] : List (BitVec 12)),
       PassesOn (exec (.srw a n) s) s)) ∧
  (∀ (d a : Reg) (num : BitVec 12) (s : State), Quiet s → sysAssigned s.curCore num.toNat = false →
     TakesTrap (exec (.srr d num) s) s 0x01 s.curWord.toNat s.cur.r.pc ∧
     TakesTrap (exec (.srw a num) s) s 0x01 s.curWord.toNat s.cur.r.pc)

/-- R124, R125, R126: TRAP takes SWT with its code and returns to the next word; BRK halts where HALTEN is 1 and takes
BKPT at its own address otherwise; RTE goes to TEPC and clears INH, and takes RTEX outside a handler. That a BRK which
halts leaves the program counter at BRK is the model's reading (log 38). -/
def Obligations.SoftwareTrapBreakAndReturn : Prop :=
  ∀ (code : BitVec 12) (s : State), Quiet s →
    (s.cur.r.loop0.cnt = 0 → s.cur.r.loop1.cnt = 0 →
      TakesTrap (exec (.trap code) s) s 0x04 code.toNat (s.cur.r.pc + 4)) ∧
    (s.cur.t.halten = true →
      ∃ t, exec (.brk code) s = .next t ∧ OnlyThread s t ∧ t.cur = { s.cur with halted := true }) ∧
    (s.cur.t.halten = false → TakesTrap (exec (.brk code) s) s 0x05 code.toNat s.cur.r.pc) ∧
    (s.cur.t.inh = true →
      ∃ t, exec .rte s = .next t ∧ OnlyThread s t ∧
        t.cur = { s.cur with
          t := { s.cur.t with inh := false }, r := { s.cur.r with pc := s.cur.t.tepc }, pend := t.cur.pend }) ∧
    (s.cur.t.inh = false → TakesTrap (exec .rte s) s 0x08 0 s.cur.r.pc)

/-- R129: HSTART gives the lowest id that is not assigned, with the new thread's registers 0 but g3, its TVEC the
starter's and its program counter at g[a]; it writes 0 (NORES) where no id may be assigned, and takes JMIS for a
target that is no word address. R128, R130, R131: a helper with nothing left to wait for exits with its value; the
control context does so where it alone is counted; HJOIN gives the sum of the exit values of the exited helpers of its
mask and frees their ids. -/
def Obligations.HelpersStartExitAndAreJoined : Prop :=
  (∀ (d a b : Reg) (s : State) (r : Resident) (i : Nat), Quiet s → (s.core s.curCore).unit = some r →
     ((s.g a).toNat % 4 = 0 → r.assigned.length < r.helpers → 1 ≤ i → i ≤ 10 → i ∉ r.assigned →
       (∀ j, 1 ≤ j → j < i → j ∈ r.assigned) → i ≠ s.curTid →
       ∃ t n, exec (.hstart d a b) s = .next t ∧ n = t.thread s.curCore i ∧
         (∀ x, t.g x = if x = d ∧ d ≠ 0 then BitVec.ofNat 64 i else s.g x) ∧
         (t.core s.curCore).unit = some { r with assigned := r.assigned ++ [i] } ∧
         (∀ x, n.r.readG x = if x = 3 then s.g b else 0) ∧ (∀ x, n.r.readF x = 0) ∧ n.r.fflags = 0 ∧
         n.r.pc = s.g a ∧ n.t = { TrapRegs.reset with tvec := s.cur.t.tvec } ∧ n.plyCtr = 0 ∧
         t.mem = s.mem ∧ ∀ h, h ≠ s.curCore → t.core h = s.core h) ∧
     ((s.g a).toNat % 4 = 0 → r.helpers ≤ r.assigned.length → WritesG (exec (.hstart d a b) s) s d 0 0) ∧
     ((s.g a).toNat % 4 ≠ 0 →
       TakesTrap (exec (.hstart d a b) s) s 0x06 ((s.g a).toNat % 2 ^ 56) s.cur.r.pc)) ∧
  (∀ (d a : Reg) (s : State) (r : Resident), Quiet s → (s.core s.curCore).unit = some r →
     (s.exitHeld s.curCore s.curTid = false →
       (s.curTid ≠ 0 → ∃ t, exec (.hexit a) s = .next t ∧ t.cur.exited = some (s.g a) ∧ t.mem = s.mem) ∧
       (s.curTid = 0 →
         (s.modCore s.curCore (fun c => c.unassign r.assigned)).ucnt s.curCore = 1 →
         ∃ t, exec (.hexit a) s = .next t ∧ t.cur.exited = some (s.g a) ∧ t.mem = s.mem ∧
           ((t.core s.curCore).unit.map (·.exit0)) = some (some (s.g a)) ∧
           ((t.core s.curCore).unit.map (·.assigned)) = some [])) ∧
     (∀ (i : Nat) (v : Word), i ≠ s.curTid → 1 ≤ i → i ≤ 10 → r.assigned.filter (fun j => j != s.curTid &&
         (s.g a).getLsbD j) = [i] → (s.thread s.curCore i).exited = some v →
       (∀ e ∈ (s.core s.curCore).threads, ∀ x l k, e.2.wait ≠ .hjoin x l k) →
       (∀ x ∈ s.inflight, ¬(x.h = s.curCore ∧ x.tid = i)) →
       ∃ t, exec (.hjoin d a) s = .next t ∧
         (∀ x, t.g x = if x = d ∧ d ≠ 0 then v else s.g x) ∧ t.mem = s.mem ∧
         ((t.core s.curCore).unit.map (·.assigned)) = some (r.assigned.filter (fun j => j != i))))

/-- R132, R133: WAITM writes the word where it differs from g[b] and waits at a blocking point where it does not, in a
claimed bank of a compute core as in the mailbox memory of a service core; YIELD only goes on, its turn in the order of
R104 being all that it asks for (the model's reading, log 37); YIELDU waits for the scheduler; an address that WAITM may
not watch takes WADR. -/
def Obligations.WaitmYieldAndYieldu : Prop :=
  ∀ (d a b : Reg) (s : State) (x : Word), Quiet s →
    (∀ va, va = s.g a → InBank s va 8 ∨ isService s.curCore = true ∧ va.toNat % 8 = 0 ∧ va.toNat < 0x200000 →
      x = BitVec.ofNat 64 (memRead s.mem (s.physAddr s.curCore va.toNat) 8) →
      (x ≠ s.g b → WritesG (exec (.waitm d a b) s) s d x 0) ∧
      (x = s.g b → ∃ t, exec (.waitm d a b) s = .next t ∧ OnlyThread s t ∧
        t.cur = { s.cur with wait := .waitm va x })) ∧
    ((s.g a).toNat % 8 ≠ 0 ∨ (if isService s.curCore then 0x200000 else 0x180000) ≤ (s.g a).toNat →
      TakesTrap (exec (.waitm d a b) s) s 0x09 (infoAt (s.g a) 0 0) s.cur.r.pc) ∧
    PassesOn (exec .yield s) s ∧
    (∃ t, exec .yieldu s = .next t ∧ OnlyThread s t ∧ t.cur = { s.cur with wait := .yieldu })

/-! ## Scalar memory access (R142–R184) -/

/-- R142, R143: a plain load of a claimed bank of the core, with lookahead 0, writes its bytes into its register,
sign- or zero-extended as its row says, and changes nothing else; a load with d = g0 writes nothing. R142, R143: a
plain store into a claimed bank of the core writes the low bytes of its register, lowest first, at the place of its
address, and changes no other byte and no register. That the store is performed in the same step where State.defer is
empty is the model's choice (log 5). -/
def Obligations.PlainLoadsAndStoresOfTheScratchpad : Prop :=
  (∀ (d base : Reg) (imm : BitVec 12) (s : State), Ready s →
     (∀ e ∈ plainLoads d base imm 0, ∀ va p, va = plainAddr s base imm e.2.1 → InBank s va e.2.1 →
       p = s.physAddr s.curCore va.toNat →
       ∃ t, exec e.1 s = .next t ∧ Accessed s t 0 0 ∧ t.cur.r.fflags = s.cur.r.fflags ∧ (∀ n, t.f n = s.f n) ∧
         ∀ n, t.g n = if n = d ∧ d ≠ 0 then BitVec.ofInt 64 (e.2.2 (memRead s.mem p e.2.1)) else s.g n) ∧
     (Unbound s [d] →
       ∀ e ∈ ([(.flw d base imm 0, 4), (.fld d base imm 0, 8)] : List (Instr × Nat)),
         ∀ va p, va = plainAddr s base imm e.2 → InBank s va e.2 → p = s.physAddr s.curCore va.toNat →
         ∃ t, exec e.1 s = .next t ∧ Accessed s t 0 0 ∧ t.cur.r.fflags = s.cur.r.fflags ∧ (∀ n, t.g n = s.g n) ∧
           ∀ n, t.f n = if n = d then BitVec.ofNat 64 (memRead s.mem p e.2) else s.f n)) ∧
  (∀ (d base : Reg) (imm : BitVec 12) (s : State) (look : Fin 16), Ready s → s.Inv → s.defer = [] →
     (∀ e ∈ plainStores d base imm look, ∀ va p, va = plainAddr s base imm e.2 → InBank s va e.2 →
       p = s.physAddr s.curCore va.toNat →
       ∃ t, exec e.1 s = .next t ∧ Accessed s t p e.2 ∧ KeepsRegs s t ∧
         ∀ i < e.2, (memGet t.mem (p + i)).toNat = (s.g d).toNat / 256 ^ i % 256) ∧
     (Unbound s [d] →
       ∀ e ∈ ([(.fsw d base imm look, 4), (.fsd d base imm look, 8)] : List (Instr × Nat)),
         ∀ va p, va = plainAddr s base imm e.2 → InBank s va e.2 → p = s.physAddr s.curCore va.toNat →
         ∃ t, exec e.1 s = .next t ∧ Accessed s t p e.2 ∧ KeepsRegs s t ∧
           ∀ i < e.2, (memGet t.mem (p + i)).toNat = (s.f d).toNat / 256 ^ i % 256))

/-- R179, R180: LDO and STO at [g[a] + g[b]] in a claimed bank of the core: the value zero-extended into g[d], or the
low bytes of g[d] stored, whatever order and scope they carry; a unit that is not provisional. R181, R182: an atomic
on a claimed bank of the core reads the old value and writes the new one as one event; the old value goes to g[d],
sign-extended from four bytes; FFLAGS and every other byte are as before. All with lookahead 0; that each is performed in
the same step, a store where State.defer is empty, is the model's choice (log 5). -/
def Obligations.OrderedAccessesAndAtomicsOnTheScratchpad : Prop :=
  (∀ (d a b : Reg) (size : Fin 4) (q : Bool) (sc : Scope) (s : State) (va : Word) (n p : Nat), Ready s →
     va = s.g a + s.g b → n = 2 ^ size.val → InBank s va n → p = s.physAddr s.curCore va.toNat →
     (∃ t, exec (.ldo d a b size q sc 0) s = .next t ∧ Accessed s t 0 0 ∧ t.cur.r.fflags = s.cur.r.fflags ∧
       (∀ x, t.f x = s.f x) ∧
       ∀ x, t.g x = if x = d ∧ d ≠ 0 then BitVec.ofNat 64 (memRead s.mem p n) else s.g x) ∧
     (s.Inv → s.defer = [] → s.provisional s.curCore = false →
       ∃ t, exec (.sto d a b size q sc 0) s = .next t ∧ Accessed s t p n ∧ KeepsRegs s t ∧
         ∀ i < n, (memGet t.mem (p + i)).toNat = (s.g d).toNat / 256 ^ i % 256)) ∧
  (∀ (d a b : Reg) (o : Order) (sc : Scope) (s : State) (va : Word) (p : Nat), Ready s → s.Inv →
     s.provisional s.curCore = false → va = s.g a + s.g b → p = s.physAddr s.curCore va.toNat →
     (InBank s va 4 → ∀ e ∈ atomics4 d a b o sc 0, ∀ old, old = memRead s.mem p 4 →
       ∃ t, exec e.1 s = .next t ∧ Accessed s t p 4 ∧ t.cur.r.fflags = s.cur.r.fflags ∧ (∀ n, t.f n = s.f n) ∧
         (∀ n, t.g n = if n = d ∧ d ≠ 0 then BitVec.ofInt 64 ((old : Int).bmod (2 ^ 32)) else s.g n) ∧
         memRead t.mem p 4 = e.2 old ((s.g d).toNat % 2 ^ 32) ((s.g (d + 1)).toNat % 2 ^ 32)) ∧
     (InBank s va 8 → ∀ e ∈ atomics8 d a b o sc 0, ∀ old, old = memRead s.mem p 8 →
       ∃ t, exec e.1 s = .next t ∧ Accessed s t p 8 ∧ t.cur.r.fflags = s.cur.r.fflags ∧ (∀ n, t.f n = s.f n) ∧
         (∀ n, t.g n = if n = d ∧ d ≠ 0 then BitVec.ofNat 64 old else s.g n) ∧
         memRead t.mem p 8 = e.2 old (s.g d).toNat (s.g (d + 1)).toNat))

/-- R144, checks 1 to 4: the first that fails decides: MIS for an address that is no multiple of the size; then, in
the local window of a compute core, LREF with the code of the check. The access has no effect. -/
def Obligations.AccessChecksTrapInTheirOrder : Prop :=
  ∀ (d a b : Reg) (imm : BitVec 12) (size : Fin 4) (q : Bool) (o : Order) (sc : Scope) (look : Fin 16) (s : State),
    Quiet s → Unbound s [d] → ∀ e ∈ accessForms s d a b imm size q o sc look,
    ∀ va n kind, e.2 = (va, n, kind) →
      (va.toNat % n ≠ 0 → TakesTrap (exec e.1 s) s 0x0B (infoAt va kind 0) s.cur.r.pc) ∧
      (va.toNat % n = 0 → va.toNat < 0x200000 → isService s.curCore = false →
        (0x180000 ≤ va.toNat → TakesTrap (exec e.1 s) s 0x0A (infoAt va kind 0) s.cur.r.pc) ∧
        (va.toNat < 0x180000 → (s.core s.curCore).claimed (va.toNat / 0x4000) = false →
          TakesTrap (exec e.1 s) s 0x0A (infoAt va kind 1) s.cur.r.pc) ∧
        (va.toNat < 0x180000 → (s.core s.curCore).claimed (va.toNat / 0x4000) = true →
          shadowIn (s.core s.curCore).tiles (va.toNat / 0x4000) = true →
          TakesTrap (exec e.1 s) s 0x0A (infoAt va kind 3) s.cur.r.pc))

/-- R61, R62, R163: a load with a lookahead window stays in flight with its register unwritten while its thread goes
on, and its home then performs it, which writes the register. How long it stays is the model's choice (log 5). R183,
R184: with nothing of the thread in flight FENCE and FENCEA only go on; FENCER leaves a release of at least its scope
to the next store or atomic and does not hold its thread. -/
def Obligations.WindowedLoadsAndFences : Prop :=
  (∀ (d base : Reg) (imm : BitVec 12) (look : Fin 16) (s : State) (va : Word) (p : Nat), Ready s → s.defer = [] →
     0 < look.val → va = plainAddr s base imm 8 → InBank s va 8 → p = s.physAddr s.curCore va.toNat →
     ∃ t a, exec (.ld d base imm look) s = .next t ∧ t.inflight = s.inflight ++ [a] ∧ a.id = s.nextId ∧
       (∀ n, t.g n = s.g n) ∧ t.mem = s.mem ∧ GoesOn s t ∧
       ∃ u, exec (.homePerformAccess (.inflight a.id)) t = .next u ∧ u.inflight = s.inflight ∧ u.mem = s.mem ∧
         u.cur.r.pc = t.cur.r.pc ∧
         ∀ n, u.g n = if n = d ∧ d ≠ 0 then BitVec.ofNat 64 (memRead s.mem p 8) else s.g n) ∧
  (∀ (sc : Scope) (s : State), Quiet s →
     PassesOn (exec (.fence sc) s) s ∧ PassesOn (exec (.fencea sc) s) s ∧
     ∃ t sc', exec (.fencer sc) s = .next t ∧ OnlyThread s t ∧ GoesOn s t ∧ KeepsRegs s t ∧
       t.cur = { s.cur with fencer := some sc', r := t.cur.r, pend := t.cur.pend, wait := .none } ∧
       sc.code ≤ sc'.code ∧ (s.cur.fencer = none → sc' = sc) ∧
       ∀ x, s.cur.fencer = some x → sc' = if x.code < sc.code then sc else x)

/-! ## The units of a core: acceptance, tables and counters (R65–R67, R147–R162, R185–R271) -/

/-- R65, R66, R192, R193: a vector command whose queue has room takes the next ply number and waits in the queue with
the operands read at dispatch; VSON and VSOFF bind and unbind the register of their stream; VMAXX also takes the next
sequence number of its core. The registers and everything outside the queue stay. -/
def Obligations.VectorCommandsEnterTheirQueue : Prop :=
  ∀ (a b : Reg) (look : Fin 16) (dst src dim : Fin 4) (rnd : Rnd) (s : State) (c : Core) (q : VecOp → VecCmd),
    Accepting s → c = s.core s.curCore → c.vec.queue.length < 8 → c.formatPending = false →
    (∀ x ∈ c.qrn.queue, x.tid ≠ s.curTid) →
    (∀ e ∈ vecForms a b look dst src dim rnd, ∃ t, exec e.1 s = .next t ∧
      Dispatched s t (fun x => { (c.sameBut x) with vec := { c.vec with queue := c.vec.queue ++ [vecAt s e.2] } })
        s.cur) ∧
    (q = (fun o => vecAt s (o, 0, 0, dst, 0, 0, .rne)) →
      (∃ t, exec (.vson look dst) s = .next t ∧
        Dispatched s t (fun x => { (c.sameBut x) with vec := { c.vec with queue := c.vec.queue ++ [q .vson] } })
          { s.cur with bound := s.cur.bound ||| BitVec.ofNat 4 (2 ^ dst.val) }) ∧
      (∃ t, exec (.vsoff look dst) s = .next t ∧
        Dispatched s t (fun x => { (c.sameBut x) with vec := { c.vec with queue := c.vec.queue ++ [q .vsoff] } })
          { s.cur with bound := s.cur.bound &&& ~~~(BitVec.ofNat 4 (2 ^ dst.val)) })) ∧
    (s.provisional s.curCore = false → c.vmaxCount < 4 →
      ∃ t, exec (.vmaxx a b look rnd) s = .next t ∧
        Dispatched s t (fun x => { (c.sameBut x) with vec := { c.vec with
          queue := c.vec.queue ++ [{ vecAt s (.vmaxx, a, b, 0, 0, 0, rnd) with seq := c.vec.vmaxSeq }]
          vmaxSeq := c.vec.vmaxSeq + 1 } }) s.cur)

/-- R212, R215, R221, R228: a matrix command that passes its checks enters the queue with the operands read at
dispatch; one whose operand word sets a bit above 11 takes the late fault MOPF and does not enter; MCFG with a bad
layout answers BADARG in MCSTAT, with a good one OK, and enters its slot. -/
def Obligations.MatrixCommandsEnterTheirStream : Prop :=
  ∀ (a b : Reg) (look : Fin 16) (ms k : Fin 4) (m : Fin 16) (rnd : Rnd) (s : State) (c : Core), Accepting s →
    c = s.core s.curCore → c.formatPending = false → s.provisional s.curCore = false →
    ((c.mat.queue.filter (fun p => p.ms == ms.val)).length < 8 →
      (∀ e ∈ matForms a b look ms k rnd,
        (s.matGate s.curCore { matAt s e.2 with ply := 0, addr := 0 } = .ok → ∃ t, exec e.1 s = .next t ∧
          Dispatched s t (fun x => { (c.sameBut x) with mat := { c.mat with queue := c.mat.queue ++ [matAt s e.2] } })
            s.cur) ∧
        ((s.g a).toNat / 2 ^ 12 ≠ 0 → s.cur.late.length < 4 → ∃ t, exec e.1 s = .next t ∧ Faulted s t Late.mopf Un.mat ∧
          Dispatched s t c.sameBut { s.cur with late := t.cur.late })) ∧
      ∃ t, exec (.mclr look ms k) s = .next t ∧
        Dispatched s t (fun x => { (c.sameBut x) with mat := { c.mat with
          queue := c.mat.queue ++ [matAt s (.mclr, 0, 0, ms, k, .rne)] } }) s.cur) ∧
    ((∀ p ∈ c.mat.queue, p.op ≠ .mcfg) → ∀ v, v = (s.g a).toNat →
      (12 < v % 16 ∨ v / 2 ^ 5 % 8 ≠ 0 ∨ v / 2 ^ 13 % 8 ≠ 0 ∨ v / 2 ^ 25 ≠ 0 →
        ∃ t, exec (.mcfg a look m) s = .next t ∧
          Dispatched s t c.sameBut { s.cur with u := { s.cur.u with mcstat := 2 } }) ∧
      (v % 16 ≤ 8 → v % 16 ≠ 0 → v / 2 ^ 5 % 8 = 0 → v / 2 ^ 13 % 8 = 0 → v / 2 ^ 16 < 32 →
        ∃ t, exec (.mcfg a look m) s = .next t ∧
          Dispatched s t (fun x => { (c.sameBut x) with mat := { c.mat with
            queue := c.mat.queue ++ [{ matAt s (.mcfg, a, 0, 4, 0, .rne) with m := m }] } })
            { s.cur with u := { s.cur.u with mcstat := 0 } }))

/-- R234, R237, R244, R260, R265, R267, R270: CSHAPE and CIDX hold what their operands lay out, or answer BADARG and hold
what they held; a copy command that passes its checks enters the queue with the thread's shape and index state; a
quasi-random command enters its queue behind those dispatched before, and the tables are then the unit's: where they were
another unit's or nobody's, they are reset, and an evicted owner's go to its save area. -/
def Obligations.CopyAndPointCommandsEnterTheirQueues : Prop :=
  ∀ (a b : Reg) (look cnt : Fin 16) (ce gray : Bool) (st : Fin 4) (rnd : Rnd) (s : State) (c : Core) (w : UnitWords),
    Accepting s → c = s.core s.curCore → w = s.cur.u →
    (∀ x y : Nat, x = (s.g a).toNat → y = (s.g b).toNat →
      ∃ t, exec (.cshape a b look) s = .next t ∧ Dispatched s t c.sameBut { s.cur with u :=
        if x / 2 ^ 44 = 0 ∧ x / 2 ^ 21 % 2 ^ 11 = 0 ∧ 1 ≤ x % 2 ^ 21 ∧ x % 2 ^ 21 ≤ 2 ^ 20 ∧
            (x / 2 ^ 32 % 2 ^ 12 = 0 ∨ x % 2 ^ 21 ≤ y % 2 ^ 32) then
          { w with cstat := 0, shape := (some
            { rows := x / 2 ^ 32 % 2 ^ 12 + 1, rowb := x % 2 ^ 21, dpitch := y / 2 ^ 32, spitch := y % 2 ^ 32 }) }
        else { w with cstat := 2 } }) ∧
    (isService s.curCore = false → ∀ x y : Nat, x = (s.g a).toNat → y = (s.g b).toNat →
      ∃ t, exec (.cidx a b look) s = .next t ∧ Dispatched s t c.sameBut { s.cur with u :=
        if x / 2 ^ 26 = 0 ∧ x / 64 % 4 = 0 ∧ y / 4 % 2 ^ 14 = 0 ∧ y / 2 ^ 28 = 0 then
          { w with cstat := 0, index := (some
            { off := x / 256 % 2 ^ 18, entry := x % 64, esz := y % 4, count := y / 2 ^ 16 % 2 ^ 12 + 1 }) }
        else { w with cstat := 2 } }) ∧
    (c.cpy.length < 16 → c.formatPending = false → s.provisional s.curCore = false →
      ∀ e ∈ copyForms a b look cnt ce rnd, ∀ q : CopyCmd, q = s.copyCmd e.2.1 a b cnt ce e.2.2 →
        s.copyGate s.curCore (s.unitId s.curCore) w q = .ok →
        q.shape = w.shape.getD Shape.none ∧ q.index = (if q.op.indexed then w.index else none) ∧
        ∃ t, exec e.1 s = .next t ∧ t.nextId = s.nextId + 1 ∧
          Dispatched s { t with nextId := s.nextId } (fun x => { (c.sameBut x) with
            cpy := c.cpy ++ [{ q with id := s.nextId, ply := s.cur.plyCtr }] }) s.cur) ∧
    (∀ (u : UnitId) (tab : QrnTables) (ev : List Evicted), u = s.unitId s.curCore →
      c.qrn.queue.length < 8 → c.formatPending = false → (∀ x ∈ c.vec.queue, x.tid ≠ s.curTid) →
      (c.qrn.owner ≠ some u → c.qrn.queue = []) →
      tab = (if c.qrn.owner = some u then c.qrn.tab else QrnTables.reset) →
      ev = (if c.qrn.owner = some u then c.evicted else c.evicted.map (fun e =>
        if c.qrn.owner = some e.res.id then { e with qrn := some c.qrn.tab } else e)) →
      ∀ e ∈ qrnForms a b look gray st rnd, ∃ t, exec e.1 s = .next t ∧
        Dispatched s t (fun x => { (c.sameBut x) with
          evicted := ev
          qrn := { tab := tab, owner := some u, queue := c.qrn.queue ++
            [{ op := e.2.1, tid := s.curTid, ply := s.cur.plyCtr, addr := s.cur.r.pc, a := s.g a, b := s.g e.2.2.1,
               gray := e.2.2.2.1, stream := e.2.2.2.2.1, rnd := e.2.2.2.2.2, seq := 0 }] } }) s.cur)

/-- R207, R227, R247, R266, R316, R346, R347, R380, R402: a unit wait of a thread that has nothing left in the unit passes
on, as a command that changes nothing. R57, R162, R348: MFC reads a word of a unit into g[d] and takes no ply number: the
words that it lists here. -/
def Obligations.UnitWaitsPassAndMfcReads : Prop :=
  ∀ (d : Reg) (look mask : Fin 16) (s : State) (c : Core), c = s.core s.curCore →
    (Accepting s → s.provisional s.curCore = false → s.cur.virPend = [] → (∀ q ∈ c.vec.queue, q.tid ≠ s.curTid) →
      (∀ q ∈ c.vec.vmax, q.tid ≠ s.curTid) → (∀ q ∈ c.mat.queue, q.tid ≠ s.curTid) →
      (∀ q ∈ c.cpy, q.tid ≠ s.curTid) → (∀ q ∈ c.qrn.queue, q.tid ≠ s.curTid) →
      s.busPend s.curCore s.curTid = false → NonePending s → s.cur.u.pwait = 0 →
      ∀ i ∈ ([.vwait look, .mwait look mask, .cwait look, .qwait look, .obwait look, .colsync look, .grfwait look,
          .virwait look, .pwait look] : List Instr),
        ∃ t, exec i s = .next t ∧ Dispatched s t c.sameBut s.cur) ∧
    (∀ e ∈ ([(0, 0, w64 s.cur.u.sstat), (4, 0, w64 s.cur.u.vcstat), (15, 0, s.cur.u.res), (15, 1, w64 s.cur.u.vxstat),
        (9, 1, s.cur.u.bres), (10, 1, s.cur.u.clres), (11, 1, s.cur.u.gfres), (12, 1, s.cur.u.gres),
        (13, 1, s.cur.u.pres)] : List (Fin 16 × Fin 128 × Word)),
      WritesG (exec (.mfc d e.1 e.2.1) s) s d e.2.2 0) ∧
    (NonePending s → WritesG (exec (.mfc d 11 0) s) s d (w64 s.cur.u.gfstat) 0) ∧
    (isService s.curCore = false →
      ∀ e ∈ ([(2, 0, s.cur.u.tstatus), (6, 0, w64 s.cur.u.mcstat), (8, 1, s.cur.u.qres.setWidth 64),
          (8, 2, s.cur.u.qresf.setWidth 64), (8, 3, w64 (s.cur.u.qcur % 2 ^ 48))] : List (Fin 16 × Fin 128 × Word)),
        WritesG (exec (.mfc d e.1 e.2.1) s) s d e.2.2 0)

/-- R148, R150: the tag table. TGLK answers the slot of the lowest way of the key's set that holds its block, plus the
offset, or −1 where no way holds it. TGSET writes the way that it names of the key's set; where the slot is no multiple
of the block size, or a byte of it is not backed for the unit, it takes TGSL with the slot and writes nothing. TGINV
clears V in each way of the set that holds the block and answers how many there were. TGRD answers the tag word or the
slot of the entry that bits 7 to 0 name. TGCLR clears V in every entry. No other entry, register or byte changes. -/
def Obligations.TagTableActsAsItsRulesSay : Prop :=
  ∀ (d a b : Reg) (sz : Fin 8) (way : Fin 4) (s : State) (c : Core) (k n blk set : Nat), c = s.core s.curCore →
    k = (s.g a).toNat → n = 2 ^ (7 + sz.val) → blk = k / n → set = blk % 64 →
    (∀ w < 4, tagHit s set w sz blk → (∀ v < w, ¬tagHit s set v sz blk) →
      WritesG (exec (.tglk d a sz) s) s d (BitVec.ofNat 64 ((c.tag set w).slot + k % n)) 0) ∧
    ((∀ w < 4, ¬tagHit s set w sz blk) → WritesG (exec (.tglk d a sz) s) s d (BitVec.ofInt 64 (-1)) 0) ∧
    (∀ x, x = (s.g b).toNat →
      (x % n = 0 → Backed s x n →
        ∃ t, exec (.tgset a b sz way) s = .next t ∧
          OnlyCore s t (fun y => { c with threads := y.threads, tags := y.tags }) ∧ KeepsThread s t ∧ GoesOn s t ∧
          KeepsRegs s t ∧ ∀ st w, w < 4 → (t.core s.curCore).tag st w =
            if st = set ∧ w = way.val then { v := true, sz := sz, blk := blk, slot := x } else c.tag st w) ∧
      (Quiet s → x % n ≠ 0 ∨ ¬Backed s x n →
        TakesTrap (exec (.tgset a b sz way) s) s 0x0C (infoAt (s.g b) 0 0) s.cur.r.pc)) ∧
    (∃ t, exec (.tginv d a sz) s = .next t ∧
      OnlyCore s t (fun y => { c with threads := y.threads, tags := y.tags }) ∧ KeepsThread s t ∧ GoesOn s t ∧
      (∀ r, t.f r = s.f r) ∧ t.cur.r.fflags = s.cur.r.fflags ∧
      (∀ r, t.g r = if r = d ∧ d ≠ 0 then
        BitVec.ofNat 64 ((List.range 4).filter (fun w => decide (tagHit s set w sz blk))).length else s.g r) ∧
      ∀ st w, w < 4 →
        (st = set → tagHit s st w sz blk → (t.core s.curCore).tag st w = { c.tag st w with v := false }) ∧
        (st ≠ set ∨ ¬tagHit s st w sz blk → (t.core s.curCore).tag st w = c.tag st w)) ∧
    (∀ e, e = c.tag (k % 64) (k / 64 % 4) →
      WritesG (exec (.tgrd d a false) s) s d
        (BitVec.ofNat 64 (e.blk * 2 ^ (7 + e.sz)) ||| BitVec.ofNat 64 (e.sz * 2) ||| if e.v then 1 else 0) 0 ∧
      WritesG (exec (.tgrd d a true) s) s d (BitVec.ofNat 64 e.slot) 0) ∧
    (∃ t, exec .tgclr s = .next t ∧
      OnlyCore s t (fun y => { c with threads := y.threads, tags := y.tags }) ∧ KeepsThread s t ∧ GoesOn s t ∧
      KeepsRegs s t ∧ ∀ st w, w < 4 → (t.core s.curCore).tag st w = { c.tag st w with v := false })

/-- R155, R160, R161: the tile table, for a tile that nothing uses. TBDEF defines a claimed entry over claimed banks that
nothing names, with or without shadow banks, and answers BADARG for a reserved bit and NORES for an entry that the unit
has not claimed or has defined; TBST reads it; TBWAIT goes on in its state and waits in another; PUBL exchanges the
banks, pair by pair, and leaves READY with SHW 0, and answers NOSHADOW for an entry without shadow banks; TBFREE
undefines the entry; each of them answers its status in TSTATUS, NODEF for an undefined entry. NORES before BADARG is
the model's reading (log 23), and what SBANK shows for an entry without shadow banks its choice (log 80). -/
def Obligations.TileTableActsAsItsRulesSay : Prop :=
  ∀ (a b : Reg) (look : Fin 16) (e : Fin 64) (s : State) (c : Core), Accepting s → c = s.core s.curCore →
    s.provisional s.curCore = false → Unused s e →
    (tget c.tiles e = none →
      (∃ t, exec (.tbst look e) s = .next t ∧ TileDone s t 3 ∧ (t.core s.curCore).tiles = c.tiles) ∧
      (∃ t, exec (.tbfree look e) s = .next t ∧ TileDone s t 3 ∧ (t.core s.curCore).tiles = c.tiles) ∧
      (∃ t, exec (.publ look e) s = .next t ∧ TileDone s t 3 ∧ (t.core s.curCore).tiles = c.tiles) ∧
      (∀ st, ∃ t, exec (.tbwait look st e) s = .next t ∧ TileDone s t 3 ∧ (t.core s.curCore).tiles = c.tiles) ∧
      ∀ x y v h nb, x = (s.g a).toNat → y = (s.g b).toNat → v = x % 2 ^ 7 → h = x / 2 ^ 8 % 2 ^ 7 →
        nb = x / 2 ^ 16 % 2 ^ 4 + 1 →
        ((∀ r, c.unit = some r → r.tileMask.getLsbD e = true) →
          (x / 2 ^ 20 ≠ 0 ∨ x / 2 ^ 15 % 2 = 1 ∨ x / 2 ^ 7 % 2 = 1 ∨ y / 4 ≠ 0 →
            ∃ t, exec (.tbdef a b look e) s = .next t ∧ TileDone s t 2 ∧ (t.core s.curCore).tiles = c.tiles) ∧
          (x / 2 ^ 20 = 0 → x / 2 ^ 15 % 2 = 0 → x / 2 ^ 7 % 2 = 0 → y / 4 = 0 →
            v + nb ≤ 96 → (∀ i < nb, c.claimed (v + i) = true ∧ ∀ k ∈ c.tiles, v + i ∉ k.2.names) →
            (y / 2 % 2 = 0 → h + nb ≤ 96 ∧ (v + nb ≤ h ∨ h + nb ≤ v) ∧
              ∀ i < nb, c.claimed (h + i) = true ∧ ∀ k ∈ c.tiles, h + i ∉ k.2.names) →
            ∃ t z, exec (.tbdef a b look e) s = .next t ∧ TileDone s t 0 ∧
              (t.core s.curCore).tiles = tput c.tiles e z ∧ z.nb = nb ∧ z.vbank = v ∧
              (y / 2 % 2 = 0 → z.sbank = h) ∧ z.nosh = decide (y / 2 % 2 = 1) ∧
              z.st = (if y % 2 = 1 then .ready else .empty) ∧ z.freeing = false ∧ z.shw = false)) ∧
        ((∀ r, c.unit = some r → r.tileMask.getLsbD e = false) →
          ∃ t, exec (.tbdef a b look e) s = .next t ∧ TileDone s t 1 ∧ (t.core s.curCore).tiles = c.tiles)) ∧
    (∀ z, tget c.tiles e = some z → z.freeing = false → z.publ = false → z.st ≠ .draining →
      (∃ t, exec (.tbst look e) s = .next t ∧ (t.core s.curCore).tiles = c.tiles ∧
        TileDone s t (BitVec.ofNat 64 (z.st.code * 2 ^ 6 + 2 ^ 8 + (if z.shw then 2 ^ 9 else 0) + z.vbank * 2 ^ 16 +
          z.sbank * 2 ^ 24 + (z.nb - 1) * 2 ^ 32 + (if z.nosh then 2 ^ 36 else 0)))) ∧
      (∃ t, exec (.tbwait look z.st e) s = .next t ∧ TileDone s t 0 ∧ (t.core s.curCore).tiles = c.tiles) ∧
      (∀ st, st ≠ z.st → ∃ t, exec (.tbwait look st e) s = .next t ∧ t.mem = s.mem ∧ t.cur.wait = .tbwait e st ∧
        t.cur.r = s.cur.r ∧ t.cur.plyCtr = s.cur.plyCtr + 1 ∧ (t.core s.curCore).tiles = c.tiles) ∧
      (∃ t, exec (.tbdef a b look e) s = .next t ∧ TileDone s t 1 ∧ (t.core s.curCore).tiles = c.tiles) ∧
      (∃ t, exec (.tbfree look e) s = .next t ∧ TileDone s t 0 ∧ tget (t.core s.curCore).tiles e = none ∧
        ∀ i, i ≠ e.val → tget (t.core s.curCore).tiles i = tget c.tiles i) ∧
      (z.nosh = true →
        ∃ t, exec (.publ look e) s = .next t ∧ TileDone s t 4 ∧ (t.core s.curCore).tiles = c.tiles) ∧
      (z.nosh = false → z.vbank + z.nb ≤ z.sbank ∨ z.sbank + z.nb ≤ z.vbank →
        ∃ t y, exec (.publ look e) s = .next t ∧ TileDone s t 0 ∧ tget (t.core s.curCore).tiles e = some y ∧
          y.st = .ready ∧ y.shw = false ∧ y.freeing = false ∧ y.nb = z.nb ∧ y.vbank = z.vbank ∧ y.sbank = z.sbank ∧
          (∀ i, i ≠ e.val → tget (t.core s.curCore).tiles i = tget c.tiles i) ∧
          (∀ i < z.nb, (t.core s.curCore).phys (z.vbank + i) = c.phys (z.sbank + i) ∧
            (t.core s.curCore).phys (z.sbank + i) = c.phys (z.vbank + i)) ∧
          ∀ n, n < z.vbank ∨ z.vbank + z.nb ≤ n → n < z.sbank ∨ z.sbank + z.nb ≤ n →
            (t.core s.curCore).phys n = c.phys n))

/-- R249–R252: ARMC adds its operand to the counter, or answers BADARG; WAITC goes on at 0 and waits otherwise; BARCFG
sets a rectangle that holds its core, answers BADARG for a reserved bit and BUSY between BARARV and its release; BARWT
waits for the release; an arrival of a core alone in its rectangle releases it at once. BUSY before the BADARG of the
operand is the model's reading (log 23). -/
def Obligations.CountersAndBarriersOfOneCore : Prop :=
  ∀ (a : Reg) (look n : Fin 16) (z : Fin 8) (s : State) (c : Core) (v : Int) (k : SyncUnit → State → State → Nat → Prop),
    Accepting s → c = s.core s.curCore → s.provisional s.curCore = false → Unused s 0 → c.sync.held = [] →
    v = (s.g a).toInt →
    (∀ x s t st, k x s t st ↔ Dispatched s t (fun y => { c with
        threads := y.threads, lastAccept := y.lastAccept, sync := x, regBanks := y.regBanks, evicted := y.evicted })
      { s.cur with u := { s.cur.u with sstat := st } }) →
    (-(2 ^ 47) ≤ v → v < 2 ^ 47 → ∃ t, exec (.armc a look n) s = .next t ∧
      k { c.sync with counters := tput c.sync.counters n (BitVec.ofInt 48 ((c.sync.counter n).toInt + v)) } s t 0) ∧
    (v < -(2 ^ 47) ∨ 2 ^ 47 ≤ v → ∃ t, exec (.armc a look n) s = .next t ∧ k c.sync s t 2) ∧
    (c.sync.counter n = 0 → ∃ t, exec (.waitc look n) s = .next t ∧ k c.sync s t s.cur.u.sstat) ∧
    (c.sync.counter n ≠ 0 → ∃ t, exec (.waitc look n) s = .next t ∧ t.cur.wait = .waitc n ∧ t.cur.r = s.cur.r ∧
      t.cur.plyCtr = s.cur.plyCtr + 1) ∧
    (∀ x y w, x = (hilbertXY s.curCore).1 → y = (hilbertXY s.curCore).2 → w = (s.g a).toNat →
      ∀ b, b = c.sync.bar z →
      (b.gen ≠ b.rgen →
        (∃ t, exec (.barcfg a look z) s = .next t ∧ k c.sync s t 7) ∧
        ∃ t, exec (.barwt look z) s = .next t ∧ t.cur.wait = .barwt z ∧ t.cur.r = s.cur.r) ∧
      (b.gen = b.rgen →
        (∃ t, exec (.barwt look z) s = .next t ∧ k c.sync s t s.cur.u.sstat) ∧
        (w / 2 ^ 6 % 4 ≠ 0 ∨ w / 2 ^ 14 % 4 ≠ 0 ∨ w / 2 ^ 22 % 4 ≠ 0 ∨ w / 2 ^ 30 ≠ 0 →
          ∃ t, exec (.barcfg a look z) s = .next t ∧ k c.sync s t 2) ∧
        (∀ x0 y0 wm1 hm1, x0 < 64 → y0 < 64 → wm1 < 64 → hm1 < 64 →
          w = x0 + y0 * 2 ^ 8 + wm1 * 2 ^ 16 + hm1 * 2 ^ 24 →
          x0 ≤ x → x ≤ x0 + wm1 → x0 + wm1 < 64 → y0 ≤ y → y ≤ y0 + hm1 → y0 + hm1 < 64 →
          ∃ t, exec (.barcfg a look z) s = .next t ∧
            k { c.sync with bars := (tput c.sync.bars z
                { b with cfg := true, x0 := x0, y0 := y0, wm1 := wm1, hm1 := hm1 }) } s t 0) ∧
        (b.cfg = true → b.wm1 = 0 → b.hm1 = 0 → b.x0 = x → b.y0 = y →
          ∃ t, exec (.bararv look z) s = .next t ∧ t.msgs = s.msgs ∧
            k { c.sync with bars := (tput c.sync.bars z
                { b with gen := b.gen + 1, rgen := b.gen + 1, own := false, fromX := false, fromY := false }) }
              s t s.cur.u.sstat)))

/-! ## Contexts within contexts (R301–R316) -/

/-- R307, R309, R314: quantities move between the executing context and its child: GRANT and REVOKE of queues and of
cells, CTXBUD, and the VF binding; a grant beyond the balance answers NORES and a return beyond what was granted
OVERLAP, with no change; a returned quantity reaches the issuer when its drain ends; CTXSTAT reads the child. -/
def Obligations.QuantitiesMoveBetweenContextAndChild : Prop :=
  ∀ (a b : Reg) (look : Fin 16) (s : State) (c n : Nat) (x y : Ctx) (w : UnitWords) (m : Int), Accepting s →
    s.provisional s.curCore = false → Child s c x y → (s.g a).toNat = c → n = (s.g b).toNat → w = s.cur.u →
    m = (s.g b).toInt →
    (n < 2 ^ 8 → n ≤ x.queues → Answers (exec (.grantQueues a b look) s) s { w with gstat := 0 } (fun t =>
      t.mem = s.mem ∧ t.ctx s.curCtx = { x with queues := x.queues - n } ∧
      t.ctx c = { y with queues := y.queues + n, queuesGot := y.queuesGot + n })) ∧
    (n < 2 ^ 8 → x.queues < n → Answers (exec (.grantQueues a b look) s) s { w with gstat := 1 } (fun t =>
      t = { s with cores := t.cores })) ∧
    (n < 2 ^ 16 → n ≤ x.cells → Answers (exec (.grantCells a b look) s) s { w with gstat := 0 } (fun t =>
      t.mem = s.mem ∧ t.ctx s.curCtx = { x with cells := x.cells - n } ∧
      t.ctx c = { y with cells := y.cells + n, cellsGot := y.cellsGot + n })) ∧
    (n < 2 ^ 16 → x.cells < n → Answers (exec (.grantCells a b look) s) s { w with gstat := 1 } (fun t =>
      t = { s with cores := t.cores })) ∧
    ((∀ d ∈ s.dies, ∀ q ∈ d.2.col.queues, q.2.ctx ≠ c) → n < 2 ^ 8 → n ≤ y.queuesGot → n ≤ y.queues →
      Answers (exec (.revokeQueues a b look) s) s { w with gstat := 0 } (fun t =>
        t.mem = s.mem ∧ t.ctx s.curCtx = x ∧ NewDrain s t (.revokeQty s.curCtx n 0) ∧
        t.ctx c = { y with queues := y.queues - n, queuesGot := y.queuesGot - n })) ∧
    (n < 2 ^ 8 → y.queuesGot < n → Answers (exec (.revokeQueues a b look) s) s { w with gstat := 10 } (fun t =>
      t = { s with cores := t.cores })) ∧
    (s.leasing c = false → n < 2 ^ 16 → n ≤ y.cellsGot → n ≤ y.cells →
      Answers (exec (.revokeCells a b look) s) s { w with gstat := 0 } (fun t =>
        t.mem = s.mem ∧ t.ctx s.curCtx = x ∧ NewDrain s t (.revokeQty s.curCtx 0 n) ∧
        t.ctx c = { y with cells := y.cells - n, cellsGot := y.cellsGot - n })) ∧
    (n < 2 ^ 16 → y.cellsGot < n → Answers (exec (.revokeCells a b look) s) s { w with gstat := 10 } (fun t =>
      t = { s with cores := t.cores })) ∧
    (m ≤ x.energy → -m ≤ y.energy →
      Answers (exec (.ctxbud a b look) s) s { w with gstat := 0, gres := BitVec.ofInt 64 (y.energy + m) } (fun t =>
        t.mem = s.mem ∧ t.ctx s.curCtx = { x with energy := x.energy - m } ∧
        t.ctx c = { y with energy := y.energy + m })) ∧
    (x.energy < m ∨ y.energy < -m → Answers (exec (.ctxbud a b look) s) s { w with gstat := 1 } (fun t =>
      t = { s with cores := t.cores })) ∧
    Answers (exec (.ctxstat a look) s) s { w with gstat := 0, gres := BitVec.ofNat 64 (y.parent + y.level * 2 ^ 12 +
        (if y.vf.isSome then 2 ^ 15 else 0) + (if y.st = .new then 0 else 2 ^ 16) + (s.childrenOf c).length * 2 ^ 20 +
        y.coreBase * 2 ^ 32 + y.coreLen * 2 ^ 44 + y.extents.length * 2 ^ 57) } (fun t =>
      t = { s with cores := t.cores }) ∧
    (n < 2 ^ 9 → x.level = 0 → y.part = x.part → (s.vfOf n).part = some x.part → y.vf = none → (s.vfOf n).bound = none →
      (s.vfOf n).resetting = none → Answers (exec (.grantVf a b look) s) s { w with gstat := 0 } (fun t =>
        t.mem = s.mem ∧ (t.vfOf n) = { s.vfOf n with bound := some c } ∧ t.ctx c = { y with vf := some n })) ∧
    (∀ v, n = 0 → x.level = 0 → y.part = x.part → y.vf = some v → (s.vfOf v).resetting = none →
      Answers (exec (.revokeVf a b look) s) s { w with gstat := 0 } (fun t =>
        t.mem = s.mem ∧ (t.vfOf v) = { s.vfOf v with bound := none } ∧ t.ctx c = { y with vf := none }))

/-- R302–R306, R308–R313, R315: CTXNEW makes a context under the lowest free number with a zeroed stage-2 root; GRANT
CORES gives the child an interval and starts the drain of the issuer's units there; GRANT MEM adds an extent, and
without NOMAP composes its leaf; GRANT PAGES composes the leaf of a page; REVOKE CORES, MEM and PAGES withdraw them,
and the buffers of the module drop what went through the pages; CTXDEL begins the deletion of a child; CTXENTER clears
the two areas of the child, makes it LIVE and launches its job, with the status of the launch in GRES; REFLECT sends a
record one level up, at a root to the management processor. The withdrawals and CTXDEL are for a child without
children and launches; what is composed, and the one entry that a withdrawal of one page takes out, is below tables that
are there and hold other entries; where the stage-2 root lists no entry a withdrawal of any range changes no table.
REFLECT marks the record REFLECTED in its SEQ. That a child under deletion keeps its core grant and its balances until
the drain ends is the model's reading (log 20). `Settled` says that nothing else follows at once. -/
def Obligations.ContextsAreMadeEnteredAndDeleted : Prop :=
  ∀ (a b : Reg) (look : Fin 16) (s : State) (x : Ctx) (w : UnitWords) (v u : Nat), Accepting s →
    s.provisional s.curCore = false → tget s.ctxs s.curCtx = some x → s.drains = [] → v = (s.g a).toNat →
    u = (s.g b).toNat → w = s.cur.u →
    (∀ c p, (∀ i < c, (tget s.ctxs i).isSome = true) → tget s.ctxs c = none → c < 2 ^ 12 →
      (s.part x.part).poolPages.find? (fun q => !(s.part x.part).tables.contains q) = some p → x.level ≠ 7 →
      v % 2 ^ 16 = 0 → v < 2 ^ 48 → u % 2 ^ 14 = 0 → u < 2 ^ 21 →
      Answers (exec (.ctxnew a b look) s) s { w with gstat := 0, gres := BitVec.ofNat 64 c } (fun t =>
        t.ctx c = { Ctx.blank with
          part := x.part, level := x.level + 1, parent := s.curCtx, st := .new, ttb1 := s.g a, ttb2 := p
          psaOff := u / 2 ^ 14 } ∧
        (∀ i, i ≠ c → tget t.ctxs i = tget s.ctxs i) ∧
        (∀ q, memGet t.mem q = if p ≤ q ∧ q < p + 0x10000 then 0 else memGet s.mem q))) ∧
    (∀ c y base n, Child s c x y → v = c → y.coreLen = 0 → 1 ≤ n → u = base + n * 2 ^ 12 → base < 2 ^ 12 →
      base + n ≤ 2 ^ 12 → (∀ i < n, s.ownCore s.curCtx (base + i) = true ∧ (s.part x.part).leaving (base + i) = false) →
      x.svch < base ∨ base + n ≤ x.svch →
      Answers (exec (.grantCores a b look) s) s { w with gstat := 0 } (fun t => t.mem = s.mem ∧
        t.ctx c = { y with coreBase := base, coreLen := n, remap := (t.ctx c).remap } ∧
        NewDrain s t (.coreGrant c base n))) ∧
    (∀ c y, Child s c x y → v = c → u = 0 → 0 < y.coreLen → Leaf s c → (∀ l ∈ s.launches, l.2.ctx ≠ c) →
      (∀ i < y.coreLen, (s.part y.part).leaving (y.coreBase + i) = false) →
      y.svch < y.coreBase ∨ y.coreBase + y.coreLen ≤ y.svch →
      Settled (s.modCtx c fun z => { z with coreBase := 0, coreLen := 0 }) →
      Answers (exec (.revokeCores a b look) s) s { w with gstat := 0 } (fun t => t.mem = s.mem ∧
        t.ctx c = { y with coreBase := 0, coreLen := 0 } ∧
        NewDrain s t (.revokeCores s.curCtx c y.coreBase y.coreLen))) ∧
    (∀ c y (e : Extent), Child s c x y → v % 2 ^ 12 = c → e =
        { cpage := v / 2 ^ 12 % 2 ^ 32, npages := u / 2 ^ 32 + 1, ppage := u % 2 ^ 32
          r := (s.g a).getLsbD 44, w := (s.g a).getLsbD 45, x := (s.g a).getLsbD 46 } →
      u < 2 ^ 56 → e.cpage + e.npages ≤ 2 ^ 32 → e.ppage + e.npages ≤ 2 ^ 32 →
      (∀ z ∈ y.extents, z.cpage + z.npages ≤ e.cpage ∨ e.cpage + e.npages ≤ z.cpage) →
      x.covers e.ppage e.npages = true → y.extents.length < 64 →
      (v / 2 ^ 47 = 1 →
        Answers (exec (.grantMem a b look) s) s { w with gstat := 0, gres := BitVec.ofNat 64 e.npages } (fun t =>
          t.mem = s.mem ∧ t.ctx c = { y with extents := y.extents ++ [e] })) ∧
      (∀ f l1 l2, v < 2 ^ 47 → e.npages = 1 → s.leafOf s.curCtx (e.ppage * 0x10000) = some (f, false) →
        l1 = s.entry y.ttb2 (e.cpage / 2 ^ 26) → l1 % 4 = 1 →
        l2 = s.entry (entryAddr l1) (e.cpage / 2 ^ 13 % 2 ^ 13) → l2 % 4 = 1 →
        Answers (exec (.grantMem a b look) s) s { w with gstat := 0, gres := 0 } (fun t =>
          t.ctx c = { y with extents := y.extents ++ [e] } ∧
          t.mem = memWrite s.mem (entryAddr l2 + 8 * (e.cpage % 2 ^ 13)) 8
            (entryAddr f + (f / 4 % 8 &&& e.perm) * 4 + 3)))) ∧
    (∀ c y e q f l1 l2, Child s c x y → v % 2 ^ 12 = c → q = v / 2 ^ 12 % 2 ^ 32 → v < 2 ^ 47 → u = 0 →
      y.extents.find? (fun z => z.holds q 1) = some e →
      s.leafOf s.curCtx ((q - e.cpage + e.ppage) * 0x10000) = some (f, false) →
      l1 = s.entry y.ttb2 (q / 2 ^ 26) → l1 % 4 = 1 → l2 = s.entry (entryAddr l1) (q / 2 ^ 13 % 2 ^ 13) → l2 % 4 = 1 →
      Answers (exec (.grantPages a b look) s) s { w with gstat := 0, gres := 0 } (fun t =>
        t.mem = memWrite s.mem (entryAddr l2 + 8 * (q % 2 ^ 13)) 8
          (entryAddr f + (f / 4 % 8 &&& (e.perm &&& v / 2 ^ 44 % 8)) * 4 + 3))) ∧
    (∀ c y q n e, Child s c x y → Leaf s c → NoTables s y → v % 2 ^ 12 = c → v < 2 ^ 44 → q = v / 2 ^ 12 →
      q + n ≤ 2 ^ 32 →
      (n = u + 1 → u < 2 ^ 24 → y.extents.find? (fun z => z.holds q n) = some e →
        Answers (exec (.revokePages a b look) s) s { w with gstat := 0 } (fun t => t.mem = s.mem ∧
          t.ctx c = y ∧ NewDrain s t (.revokeMem c q n []) ∧ Unmapped t c q (q + n))) ∧
      (n = e.npages → u = 0 → y.extents.find? (fun z => z.cpage == q) = some e →
        Answers (exec (.revokeMem a b look) s) s { w with gstat := 0 } (fun t => t.mem = s.mem ∧
          t.ctx c = { y with extents := y.extents.filter (fun z => z.cpage != q) } ∧
          NewDrain s t (.revokeMem c q n []) ∧ Unmapped t c q (q + n)))) ∧
    (∀ c y q e l1 l2 a1 a2, Child s c x y → Leaf s c → v % 2 ^ 12 = c → v < 2 ^ 44 → q = v / 2 ^ 12 → u = 0 →
      y.extents.find? (fun z => z.holds q 1) = some e → y.extents.find? (fun z => z.cpage == q) = some e →
      e.npages = 1 → y.ttb2 % 0x10000 = 0 →
      l1 = s.entry y.ttb2 (q / 2 ^ 26) → l1 % 4 = 1 → l2 = s.entry (entryAddr l1) (q / 2 ^ 13 % 2 ^ 13) → l2 % 4 = 1 →
      entryAddr l1 ≠ y.ttb2 → entryAddr l2 ≠ y.ttb2 → entryAddr l2 ≠ entryAddr l1 →
      entryAddr l1 ≤ a1 → a1 < entryAddr l1 + 0x10000 → memGet s.mem a1 ≠ 0 →
      entryAddr l2 ≤ a2 → a2 < entryAddr l2 + 0x10000 → memGet s.mem a2 ≠ 0 →
      a2 < entryAddr l2 + 8 * (q % 2 ^ 13) ∨ entryAddr l2 + 8 * (q % 2 ^ 13) + 8 ≤ a2 →
      ∀ i z, i = Instr.revokePages a b look ∧ z = y ∨
          i = .revokeMem a b look ∧ z = { y with extents := y.extents.filter (fun z => z.cpage != q) } →
        Answers (exec i s) s { w with gstat := 0 } (fun t => t.ctx c = z ∧
          t.mem = memWrite s.mem (entryAddr l2 + 8 * (q % 2 ^ 13)) 8 0 ∧
          NewDrain s t (.revokeMem c q 1 []) ∧ Unmapped t c q (q + 1))) ∧
    (∀ c y, Child s c x y → v = c → Leaf s c → NoTables s y → (∀ l ∈ s.launches, l.2.ctx ≠ c) → y.graphs = [] →
      y.vf = none → y.job = none → (∀ p ∈ s.posts, p.target ≠ c ∧ ∀ r ∈ p.copies, r.1 ≠ y.svch) →
      Settled (s.modCtx c fun z => { z with st := .draining, extents := [], psaValid := false, relaunch := none }) →
      Answers (exec (.ctxdel a look) s) s { w with gstat := 0 } (fun t =>
        t.ctx c = { y with st := .draining, extents := [], psaValid := false, relaunch := none } ∧
        NewDrain s t (.delete s.curCtx c) ∧ Forgotten t c)) ∧
    (∀ c y h e areas, Child s c x y → v = c → y.st = .new → y.coreLen ≠ 0 → h = s.serviceOf c →
      s.areasClash c h y.psaOff = false → (s.part y.part).det = false → (s.core s.curCore).unit.isSome = true →
      e = (s.accepted Un.vir).enterCtx c → areas = aliasBase h + y.psaOff * 0x4000 →
      e.ctx c = { y with svch := h, psaValid := true, st := .live } ∧
      (∀ q, memGet e.mem q = if areas ≤ q ∧ q < areas + 0x8000 then 0 else memGet s.mem q) ∧
      (s.launchRoom c = false →
        Answers (exec (.ctxenter a b look) s) s { w with gstat := 0, gres := 1 } (fun t =>
          t = { e with cores := t.cores, castled := t.castled })) ∧
      (∀ r st, s.launchRoom c = true → e.readImage s.curCore s.curTid c (s.g b) = (r, .fail st) →
        (r.core s.curCore).unit = (e.core s.curCore).unit → r.cur = e.cur →
        Answers (exec (.ctxenter a b look) s) s { w with gstat := 0, gres := BitVec.ofNat 64 st } (fun t =>
          t = { r with cores := t.cores, castled := t.castled })) ∧
      (∀ r img l z o, s.launchRoom c = true → e.readImage s.curCore s.curTid c (s.g b) = (r, .ok img) →
        r.freeLnum = some l → tget r.launches l = none → (r.core s.curCore).unit = (e.core s.curCore).unit →
        r.cur = e.cur → o = r.nextId + 1 →
        z = ((r.accept (jobDesc (s.g b) 0) img
          { ctx := c, site := 0, h := s.curCore, tid := s.curTid, add := 0, graph := none, heldBy := none
            isJob := true }).1.startJob c (s.g b) 0 img.prio none o) → Settled z →
        Answers (exec (.ctxenter a b look) s) s { w with gstat := 0, gres := 0 } (fun t =>
          t = { z with cores := t.cores, castled := t.castled } ∧
          ∃ n, tget t.launches l = some n ∧ n.ctx = c ∧ n.image = img ∧ n.nu = 1 ∧ n.isJob = true ∧ n.done = none ∧
            n.units = [(0, .waiting false 0 r.now r.now)]))) ∧
    (∀ k q p, k < 2 → v % 64 = 0 → s.curCore = x.svch → x.psaValid = true → q = (x.psaOff + k) * 0x4000 →
      q + 0x40 ≤ v → v < q + 0x4000 → s.local8 s.curCore (v + 0x20) % 2 ^ 63 ≠ 0 → p ∈ s.posts →
      p.copies = [(s.curCore, v)] → p.due = false → s.inForce p.target = true →
      (∀ z ∈ s.posts, z ≠ p → (s.curCore, v) ∉ z.copies) →
      Answers (exec (.reflect a look) s) s { w with gstat := 0 } (fun t =>
        (∃ z ∈ t.posts, z.id = p.id ∧ z.mp = decide (x.level = 0) ∧
          z.target = (if x.level = 0 then s.curCtx else x.parent) ∧ z.due = true ∧ z.copies = p.copies ∧
          z.waiter = p.waiter ∧ z.body = s.recordWords s.curCore v) ∧
        t.posts.length = s.posts.length ∧ t.ctxs = s.ctxs ∧
        (s.Inv → s.curCore < 4096 → isService s.curCore = true → v + 0x28 ≤ 0x200000 →
          t.local8 s.curCore (v + 0x20) = s.local8 s.curCore (v + 0x20) % 2 ^ 63 + 2 ^ 63 ∧
          ∀ m, m = aliasBase s.curCore + v + 0x20 → ∀ j, j < m ∨ m + 8 ≤ j → memGet t.mem j = memGet s.mem j)))

/-! ## Launches, graphs and energy (R326–R348) -/

/-- R337, R339, R341, R343–R345: GNODE clears a graph or adds a node, GEDGE an edge; GRUN of a graph without nodes leaves
it DONE, with PHASE a graph waits at its boundary, and a provisional unit's GRUN is held; LAUNCH of one image numbers a
launch and enters its units into the pool; SHAPE writes and reads a slot, and writes no final one; CONFIRM makes a shape
final; CANCEL of a unit that waits ends it, and of a resident provisional unit squashes it, with its tiles and banks and
the trap messages that were held (R340); COMPL of a launch reads its counter. GNODE of a graph that is busy and SHAPE
of a final slot answer BUSY. `Served` says that the graph engine has no earlier command to perform, and `Settled` that
nothing else follows at once. -/
def Obligations.GraphEngineCommandsActOnTheirObjects : Prop :=
  ∀ (a b : Reg) (look : Fin 16) (s u : State) (self k : Nat) (x : Ctx) (g : Graph) (w ok : UnitWords) (va v : Word),
    Accepting s → Served s → self = s.curCtx → tget s.ctxs self = some x → w = s.cur.u → ok = { w with gfstat := 0 } →
    va = s.g a → v = s.g b → u = s.accepted Un.grf →
    (va = 0 → v.toNat = k → k < 16 → g = x.graph k →
      (g.busy = false → Answers (exec (.gnode a b look) s) s ok (fun t => t.mem = s.mem ∧
        t.ctx self = { x with graphs := tput x.graphs k Graph.empty })) ∧
      (g.busy = true → Answers (exec (.gnode a b look) s) s { w with gfstat := 7 } (fun t =>
        t = { s with cores := t.cores }))) ∧
    (∀ d, v.toNat = k → k < 16 → g = x.graph k → va ≠ 0 →
      u.readDesc (s.commandOf Un.grf (.gnode va v)) va = (u, .ok d) → descOk d = true →
      g.busy = false → g.nodes.length < 256 →
      Answers (exec (.gnode a b look) s) s { ok with gfres := BitVec.ofNat 64 g.nodes.length } (fun t =>
        t.mem = s.mem ∧ ((t.ctx self).graph k).nodes.length = g.nodes.length + 1 ∧
        ((t.ctx self).graph k).nodes[g.nodes.length]?.map (·.desc) = some d ∧ ((t.ctx self).graph k).edges = g.edges)) ∧
    (∀ p q, va.toNat = k → k < 16 → g = x.graph k → v.toNat = p + q * 2 ^ 8 → p < g.nodes.length → q < g.nodes.length →
      p < 256 → q < 256 → (g.edges.filter (fun e => e.2.1 == q)).length < 8 → g.busy = false →
      Answers (exec (.gedge a b look false) s) s ok (fun t => t.mem = s.mem ∧
        t.ctx self = { x with graphs := tput x.graphs k { g with edges := g.edges ++ [(p, q, false)] } })) ∧
    (va.toNat = k → k < 16 → g = x.graph k → g.busy = false → g.cyclic = false →
      ∀ ph z y r, z = ({ g with
          arg := v, phase := ph, waiting := ph, issuer := (s.curCore, s.curTid), order := s.nextId + 1 } : Graph) →
        r = ({ holder := s.unitId s.curCore, arg := v, phase := ph, issuer := (s.curCore, s.curTid)
               order := s.nextId + 1 } : GraphRun) →
        Settled (s.modCtx self fun q => { q with graphs := tput q.graphs k y }) →
        (s.provUnit s.curCore (s.unitId s.curCore) = false →
          (ph = true → y = z.start → Answers (exec (.grun a b look true) s) s ok (fun t => t.mem = s.mem ∧
            t.ctx self = { x with graphs := tput x.graphs k y })) ∧
          (ph = false → g.nodes = [] → y = { z.start with st := .done } →
            Answers (exec (.grun a b look false) s) s ok (fun t => t.mem = s.mem ∧ (t.ctx self).graph k = y))) ∧
        (s.provUnit s.curCore (s.unitId s.curCore) = true → y = { g with held := some r } →
          Answers (exec (.grun a b look ph) s) s ok (fun t => t.mem = s.mem ∧
            t.ctx self = { x with graphs := tput x.graphs k y }))) ∧
    (∀ d img l y, u.readDesc (s.commandOf Un.grf (.launch va)) va = (u, .ok d) → descOk d = true →
      Desc.mapen d = false → Desc.gmb d = false → Desc.slotOut d = none →
      u.readImage s.curCore s.curTid self (d.getD 0 0) = (u, .ok img) → s.launchRoom self = true →
      s.provUnit s.curCore (s.unitId s.curCore) = false → s.freeLnum = some l → tget s.launches l = none →
      y = (u.accept d img { ctx := self, site := s.cur.r.pc.toNat, h := s.curCore, tid := s.curTid, add := 0, graph := none
                            heldBy := none, isJob := false }).1 → Settled y →
      Answers (exec (.launch a look) s) s { ok with gfres := BitVec.ofNat 64 l } (fun t => t.mem = s.mem ∧
        ∃ z, tget t.launches l = some z ∧ z.ctx = self ∧ z.image = img ∧ z.nu = Desc.nu d ∧ z.arg = d.getD 1 0 ∧
          z.tsize = some (Desc.nu d) ∧ z.units.length = Desc.nu d ∧ (∀ e ∈ z.units, ∃ n, e.2 = .waiting false 0 n n) ∧
          z.done = none ∧ z.cancelled = false)) ∧
    (s.provisional s.curCore = false → ∀ fin sl, va.toNat = k → k < 64 → sl = x.slot k →
      (sl.final = false →
        (∀ y, y = { sl with value := sl.value + v, final := fin } →
          Settled (s.modCtx self fun z => { z with slots := tput z.slots k y }) →
          Answers (exec (.shapeAdd a b look fin) s) s ok (fun t => t.mem = s.mem ∧
            t.ctx self = { x with slots := tput x.slots k y })) ∧
        (∀ y, y = { sl with value := v, final := fin } →
          Settled (s.modCtx self fun z => { z with slots := tput z.slots k y }) →
          Answers (exec (.shapeSet a b look fin) s) s ok (fun t => t.mem = s.mem ∧
            t.ctx self = { x with slots := tput x.slots k y }))) ∧
      (sl.final = true → ∀ i ∈ ([.shapeAdd a b look fin, .shapeSet a b look fin] : List Instr),
        Answers (exec i s) s { w with gfstat := 7 } (fun t => t = { s with cores := t.cores })) ∧
      Answers (exec (.shapeRead a b look) s) s { ok with gfres := sl.value } (fun t => t = { s with cores := t.cores })) ∧
    (s.provisional s.curCore = false → ∀ y n, va.toNat = k → k < 2 ^ 16 → tget s.launches k = some y → y.ctx = self →
      y.gmb = true → y.inen = false → y.tsize = none → y.done = none → y.covered = false → y.quant ≠ 0 →
      (∀ e ∈ y.units, ∃ r c q, e.2 = .waiting true r c q) → n = (v.toNat + y.quant - 1) / y.quant →
      Settled (s.applyShape k v.toNat) →
      Answers (exec (.confirm a b look) s) s ok (fun t => t.mem = s.mem ∧
        ∃ z, tget t.launches k = some z ∧ z.tsize = some (min y.nu n) ∧ z.ovf = decide (y.nu < n))) ∧
    (s.provisional s.curCore = false → ∀ y i r c q, va.toNat = i + k * 2 ^ 32 → i < 2 ^ 20 → k < 2 ^ 16 →
      tget s.launches k = some y → y.ctx = self → i < y.nu → tget y.units i = some (.waiting false r c q) →
      Settled (s.cancelUnit k i) →
      Answers (exec (.cancel a look .unit) s) s ok (fun t => t.mem = s.mem ∧
        ∃ z, tget t.launches k = some z ∧ z.cancelled = true ∧ tget z.units i = some .cancelled)) ∧
    (s.provisional s.curCore = false → ∀ y i h r, va.toNat = i + k * 2 ^ 32 → i < 2 ^ 20 → k < 2 ^ 16 →
      tget s.launches k = some y → y.ctx = self → y.heldBy = none → i < y.nu → tget y.units i = some (.resident h) →
      (s.core h).unit = some r → r.id = { ctx := self, lnum := k, index := i } → r.prov = true →
      (∀ a ∈ s.inflight, a.unit ≠ r.id) → Settled (s.cancelUnit k i) →
      Answers (exec (.cancel a look .unit) s) s ok (fun t => t.mem = s.mem ∧ (t.core h).unit = none ∧
        (t.core h).threads = [] ∧ (t.core h).tiles = [] ∧ (∀ n, ((t.core h).bank n).owner ≠ some r.id) ∧
        (∀ p ∈ t.posts, p.unit = some r.id → p.copies ≠ []) ∧
        ∃ z, tget t.launches k = some z ∧ z.cancelled = true ∧ tget z.units i = some .cancelled)) ∧
    (∀ y, va.toNat = k → k < 2 ^ 16 → tget s.launches k = some y → y.ctx = self → y.done = none →
      (∀ e ∈ y.units, e.2 ≠ .cancelled) →
      Answers (exec (.compl a look false .launch) s) s
        { ok with gfres := BitVec.ofNat 64 (y.units.filter (fun e => !e.2.ended)).length }
        (fun t => t = { s with cores := t.cores }))

/-- R334, R347, R348: ELEAVE asks the die for leave for each place of its mask that holds none, and WT counts those until
leave comes; a mask of 0 or with a reserved bit answers BADARG and asks for nothing. EBUD moves energy between the
context and its launch, answers NORES beyond either balance and NOCTX for no such launch, and changes nothing then; where
LEBAL falls to 0 the raises of the launch's units lapse. EREAD reads LEBAL, the context's balance, the energy charged to
the launch, and the leave capacity that is free on the die. PWAIT of a thread that waits for no leave goes on, and of one
that does, waits. The mask of the places that a thread waits for (log 26) and that raises lapse where LEBAL falls to 0
(log 27) are the model's readings. -/
def Obligations.EnergyCommandsMoveAndReadBalances : Prop :=
  ∀ (a b : Reg) (look : Fin 16) (s : State) (self : Nat) (x : Ctx) (w : UnitWords) (m : Int) (l : Nat) (c : Core),
    Accepting s → s.provisional s.curCore = false → self = s.curCtx → tget s.ctxs self = some x → w = s.cur.u →
    l = (s.g a).toNat → m = (s.g b).toInt → c = s.core s.curCore →
    (l = 0 ∨ 8 ≤ l → Answers (exec (.eleave a look) s) s { w with pstat := 2 } (fun t => t = { s with cores := t.cores })) ∧
    (∀ n, 1 ≤ l → l < 8 → n < 8 → (∀ i < 3, n.testBit i = (l.testBit i && !c.placeHeld i)) →
      Answers (exec (.eleave a look) s) s { w with pstat := 0, pwait := w.pwait ||| n } (fun t => t.mem = s.mem ∧
        ∀ i < 3, n.testBit i = true → ((t.core s.curCore).engineLeave i).wanted = true)) ∧
    (l = 1 → c.placeHeld 0 = false → (c.engineLeave 0).wanted = false →
      (∀ r ∈ (s.die (dieOf s.curCore)).waiting, r.h ≠ s.curCore) →
      Answers (exec (.eleave a look) s) s { w with pstat := 0, pwait := w.pwait ||| 1 } (fun t => t.mem = s.mem ∧
        ((t.core s.curCore).engineLeave 0).wanted = true ∧
        ∃ r, (t.die (dieOf s.curCore)).waiting = (s.die (dieOf s.curCore)).waiting ++ [r] ∧ r.h = s.curCore ∧
          r.agent = 0)) ∧
    (∀ y z, l < 2 ^ 16 → tget s.launches l = some y → y.ctx = self → y.done = none →
      z = { y with lebal := y.lebal + m * 1000 } →
      (m ≤ x.energy → 0 ≤ z.lebal →
        Answers (exec (.ebud a b look) s) s { w with pstat := 0, pres := BitVec.ofInt 64 z.lebal } (fun t =>
          t.mem = s.mem ∧ t.ctx self = { x with energy := x.energy - m } ∧
          tget t.launches l = some (if 0 < y.lebal ∧ z.lebal = 0 then z.lapse else z))) ∧
      (x.energy < m ∨ z.lebal < 0 →
        Answers (exec (.ebud a b look) s) s { w with pstat := 1 } (fun t => t = { s with cores := t.cores }))) ∧
    (l < 2 ^ 16 → tget s.launches l = none →
      Answers (exec (.ebud a b look) s) s { w with pstat := 3 } (fun t => t = { s with cores := t.cores })) ∧
    (∀ y d, tget s.launches (s.unitId s.curCore).lnum = some y → d = s.die (dieOf s.curCore) →
      (∀ e ∈ [(0, BitVec.ofInt 64 y.lebal), (1, BitVec.ofInt 64 x.energy), (2, BitVec.ofNat 64 y.charged),
          (3, BitVec.ofNat 64 (d.cap - d.held))], l = e.1 →
        Answers (exec (.eread a look) s) s { w with pstat := 0, pres := e.2 } (fun t => t = { s with cores := t.cores })) ∧
      (4 ≤ l → Answers (exec (.eread a look) s) s { w with pstat := 2 } (fun t => t = { s with cores := t.cores }))) ∧
    (w.pwait = 0 → Answers (exec (.pwait look) s) s w (fun t => t = { s with cores := t.cores })) ∧
    (w.pwait ≠ 0 → ∃ t, exec (.pwait look) s = .next t ∧ t = { s with cores := t.cores } ∧
      t.cur = { s.cur with wait := .unitDone Un.pwr 0 })

/-! ## The bus and the collective queues (R375–R381, R386–R402) -/

/-- R376, R378, R379: OBJOIN on a joined port takes an unbound handle and asks the segment; a word with a reserved bit
answers BADARG, a bound handle BUSY. OBMAX and OBRED on a bound handle that pass their checks queue there, one with a
reserved bit takes BOPF; each of these, OBSTAT and OBLEAVE answers NOCTX on an unbound handle. OBSTAT of word 2 reads the
error counts of the port (R381) and of a word above 2 answers BADARG; OBLEAVE of a joined handle with no operation frees it; and
OBCAL with SETLEND of the root sets LEND while that of another context answers DENIED and sets NOTROOT. BADARG before
BUSY of an OBJOIN is the model's reading (log 23). -/
def Obligations.BusCommandsActOnTheirHandle : Prop :=
  ∀ (a b : Reg) (look : Fin 16) (h : Fin 4) (rnd : Rnd) (s : State) (c : Core) (v g : Nat) (w : UnitWords), Accepting s →
    s.provisional s.curCore = false → c = s.core s.curCore → v = (s.g a).toNat → g = (s.g b).toNat → w = s.cur.u →
    (∀ p gid rank nm1, p < 4 → gid < 2 ^ 8 → rank < 2 ^ 4 → nm1 < 2 ^ 4 →
      v = p + gid * 2 ^ 8 + rank * 2 ^ 16 + nm1 * 2 ^ 20 → s.portJoined (4 * dieOf s.curCore + p) = true →
      (tget c.bus h = none → ∃ t, exec (.objoin a look h) s = .next t ∧
        Dispatched s t (fun x => { (c.sameBut x) with bus := tput c.bus h { Handle.unbound with
          st := 1, asking := true, port := 4 * dieOf s.curCore + p, gid := gid, rank := rank, nm1 := nm1
          unit := s.unitId s.curCore, jtid := s.curTid, jply := s.cur.plyCtr } }) s.cur) ∧
      ((tget c.bus h).isSome = true → ∃ t, exec (.objoin a look h) s = .next t ∧
        Dispatched s t c.sameBut { s.cur with u := { w with bstat := 7 } })) ∧
    (v / 2 ^ 25 ≠ 0 ∨ v / 2 ^ 2 % 2 ^ 6 ≠ 0 → ∃ t, exec (.objoin a look h) s = .next t ∧
      Dispatched s t c.sameBut { s.cur with u := { w with bstat := 2 } }) ∧
    (tget c.bus h = none →
      ∀ i ∈ ([.obmax a b look h, .obred a b look h rnd, .obstat a look h, .obleave look h] : List Instr),
        ∃ t, exec i s = .next t ∧ Dispatched s t c.sameBut { s.cur with u := { w with bstat := 3 } }) ∧
    (∀ y, tget c.bus h = some y →
      (y.st = 1 ∨ y.st = 2 → c.formatPending = false →
        ∀ e ∈ ([(.obmax a b look h, true, .rne), (.obred a b look h rnd, false, rnd)] : List (Instr × Bool × Rnd)),
        ∀ o : BusOp, o =
          { max := e.2.1, tid := s.curTid, unit := s.unitId s.curCore, ply := 0, addr := s.cur.r.pc, forms := s.g a
            geom := s.g b, rnd := e.2.2, lease := Lease.none, rails := [], asked := [], started := false, src := [], exps := []
            awaiting := [], accepted := [], rejected := [], next := 0, sums := [], flags := 0, disc := false, since := s.now
            leave := Leave.reset } →
          (s.busGate s.curCore o = .ok → ∃ t, exec e.1 s = .next t ∧
            Dispatched s t (fun x => { (c.sameBut x) with bus := tmod c.bus h (fun z =>
              { z with ops := z.ops ++ [{ o with ply := s.cur.plyCtr }] }) }) s.cur) ∧
          (v / 2 ^ 54 ≠ 0 ∨ g / 2 ^ 34 ≠ 0 → s.cur.late.length < 4 → ∃ t, exec e.1 s = .next t ∧
            Faulted s t Late.bopf Un.obs ∧ Dispatched s t c.sameBut { s.cur with late := t.cur.late })) ∧
      (3 ≤ v → ∃ t, exec (.obstat a look h) s = .next t ∧
        Dispatched s t c.sameBut { s.cur with u := { w with bstat := 2 } }) ∧
      (v = 2 → ∀ p, p = s.port y.port → ∃ t, exec (.obstat a look h) s = .next t ∧
        Dispatched s t c.sameBut { s.cur with u := { w with bstat := 0, bres := BitVec.ofNat 64 (min p.girth 0xFFFF +
          min p.guard 0xFFFF * 2 ^ 16 + min p.stitch 0xFFFF * 2 ^ 32 + min p.recal 0xFFFF * 2 ^ 48) } }) ∧
      (y.st = 2 → y.asking = false → y.ops = [] → Unused s 0 → (∀ e ∈ c.bus, e.2.unit = s.unitId s.curCore) →
        ∃ t, exec (.obleave look h) s = .next t ∧ Completes s t ∧ t.mem = s.mem ∧
          t.cur.u = { w with bstat := 0 } ∧ tget (t.core s.curCore).bus h = none)) ∧
    (∀ x l, tget s.ctxs s.curCtx = some x → l < 2 → v = 2 ^ 4 + l * 2 ^ 5 →
      (x.level = 0 → (tget s.parts x.part).isSome = true →
        Answers (exec (.obcal a look) s) s { w with bstat := 0 } (fun t => t.mem = s.mem ∧
          (t.part x.part) = { s.part x.part with lend := decide (l = 1) })) ∧
      (x.level ≠ 0 → Answers (exec (.obcal a look) s) s { w with bstat := 9 } (fun t => t.mem = s.mem ∧
        (t.core s.curCore).regs.notRoot = true)))

/-- R386, R388, R399–R401: COLQ opens the lowest free queue with its counters, COLPUT stages a collective that is no
BARRIER and answers its sequence number, COLGO runs what is staged and counts it, COLWT answers the final status, waits
for what is staged or runs, and answers NOCTX for a number that the queue has not; COLCAN with CLOSE frees an empty
queue. A queue operand above 63 answers BADARG, a queue of another context NOCTX, each without a change. `Served` says
that the engine has no earlier command to perform. -/
def Obligations.CollectiveCommandsActOnTheirQueue : Prop :=
  ∀ (a b : Reg) (look : Fin 16) (s u : State) (w : UnitWords) (die q : Nat), Accepting s → Served s →
    s.provisional s.curCore = false → w = s.cur.u → die = dieOf s.curCore → q = (s.g a).toNat → u = s.accepted Un.col →
    (∀ d n e, s.readsWords u (s.g a) d → commOk d = true → e = (s.die die).col → tfree e.queues 0 64 = some n →
      (∀ k ∈ e.queues, k.2.ctx ≠ s.curCtx) → 1 ≤ (s.ctx s.curCtx).queues →
      2 * (Cd.word d 0 / 2 ^ 16 % 16 + 1) ≤ e.freeBuffers → Cd.word d 0 / 2 ^ 24 % 64 ≤ e.freeCounters.length →
      ∀ cnts, cnts = e.freeCounters.take (Cd.word d 0 / 2 ^ 24 % 64) →
      Answers (exec (.colq a look) s) s { w with
          clstat := 0, clres := BitVec.ofNat 64 (n + cnts.headD 0 * 2 ^ 8) } (fun t => t.mem = s.mem ∧
        ∃ k, t.colQueue die n = some k ∧ k.ctx = s.curCtx ∧ k.comm = Cd.word d 0 % 2 ^ 16 ∧ k.cnts = cnts ∧ k.ops = [] ∧
          k.seq = 1 ∧ k.closing = false ∧ k.w = Cd.word d 0 / 2 ^ 16 % 16 + 1)) ∧
    (∀ i, i = Instr.colgo a look ∨ i = .colwt a b look ∨ (i = .colcan a b look ∧ (s.g b).toNat < 2) →
      (64 ≤ q → Answers (exec i s) s { w with clstat := 2 } (fun t => t = { s with cores := t.cores })) ∧
      (q < 64 → (∀ k, s.colQueue die q = some k → k.ctx ≠ s.curCtx) →
        Answers (exec i s) s { w with clstat := 3 } (fun t => t = { s with cores := t.cores }))) ∧
    (∀ k, q < 64 → s.colQueue die q = some k → k.ctx = s.curCtx → k.closing = false →
      (∀ d, s.readsWords u (s.g b) d → collOk die d = true → Cd.op d ≠ Cop.barrier → k.ops.length < 16 →
        Answers (exec (.colput a b look) s) s { w with clstat := 0, clres := BitVec.ofNat 64 k.seq } (fun t =>
          t.mem = s.mem ∧ ∃ z o, t.colQueue die q = some z ∧ z.ops = k.ops ++ [o] ∧ o.desc = d ∧ o.seq = k.seq ∧
            o.running = false ∧ z.seq = (k.seq + 1) % 2 ^ 32)) ∧
      Answers (exec (.colgo a look) s) s { w with
          clstat := 0, clres := BitVec.ofNat 64 (k.ops.filter (fun o => !o.running)).length } (fun t => t.mem = s.mem ∧
        ∃ z, t.colQueue die q = some z ∧ z.ops.map (·.seq) = k.ops.map (·.seq) ∧ ∀ o ∈ z.ops, o.running = true) ∧
      (∀ n, n = (s.g b).toNat → (∀ o ∈ k.ops, o.seq ≠ n) →
        (∀ e, k.ended.find? (fun x => x.seq == n) = some e →
          Answers (exec (.colwt a b look) s) s { w with clstat := e.status, cldisc := e.disc } (fun t =>
            t = { s with cores := t.cores })) ∧
        (k.ended.find? (fun x => x.seq == n) = none →
          Answers (exec (.colwt a b look) s) s { w with clstat := 3, cldisc := false } (fun t =>
            t = { s with cores := t.cores }))) ∧
      (∀ o ∈ k.ops, o.seq = (s.g b).toNat → ∃ t, exec (.colwt a b look) s = .next t ∧
        t.cur.wait = .colwt die q o.seq ∧ t.cur.r = s.cur.r ∧ t.mem = s.mem) ∧
      (k.ops = [] → s.g b = 1 →
        Answers (exec (.colcan a b look) s) s { w with clstat := 0 } (fun t => t.mem = s.mem ∧
          t.colQueue die q = none ∧ ∀ i, i ≠ q → t.colQueue die i = s.colQueue die i)))

/-! ## Waits, posts and replies (R65, R107–R109, R163, R283–R291, R400, R406–R413, R452) -/

/-- R65, R107, R108, R130–R133, R161, R178, R251, R252, R289, R400: a waiting thread goes on when its wake condition
holds: after YIELDU, at a counter of 0, at a released barrier, at a watched word that differs, at a tile in its state,
at a collective that is over, at a unit that is confirmed, at HEXIT of a helper that nothing holds, at HJOIN of a helper
that has exited; while the counter is not 0 or the barrier not released it stays. A vector command that waited at
dispatch, alone of its core, is accepted once its queue has room. After RETRY an access issues again, after DENY it
traps PDEN. A thread to which a late fault may be delivered does not go on past it (R407). -/
def Obligations.WaitsEndAtTheirConditions : Prop :=
  ∀ (h tid : Nat) (s : State) (c : Core) (t : Thread), Live s h tid c t →
    (t.late ≠ [] → (∀ n, t.wait ≠ .trapReply n) → t.wait ≠ .wdtStop →
      ∀ i ∈ ([.threadWake h tid, .walkRestart (.thread h tid)] : List Instr), exec i s = .next s) ∧
    (t.late = [] →
    (t.wait = .yieldu ∨ t.wait = .woken ∨ (∃ n, t.wait = .waitc n ∧ c.sync.counter n = 0) ∨
        (∃ n, t.wait = .barwt n ∧ (c.sync.bar n).gen = (c.sync.bar n).rgen) →
      exec (.threadWake h tid) s = .next (s.modThread h tid Thread.advance)) ∧
    ((∃ n, t.wait = .waitc n ∧ c.sync.counter n ≠ 0) ∨
        (∃ n, t.wait = .barwt n ∧ (c.sync.bar n).gen ≠ (c.sync.bar n).rgen) →
      exec (.threadWake h tid) s = .next s) ∧
    (∀ va cmp, t.wait = .waitm va cmp → s.watched h (s.unitId h) va ≠ cmp →
      exec (.threadWake h tid) s = .next (s.modThread h tid fun x => { x with wait := .none })) ∧
    (∀ e st x, t.wait = .tbwait e st → tget c.tiles e = some x → x.st = st → x.publ = false → x.freeing = false →
      exec (.threadWake h tid) s =
        .next (s.modThread h tid fun x => (x.modU fun u => { u with tstatus := 0 }).advance)) ∧
    (∀ die q n st disc, t.wait = .colwt die q n → s.colwtPend (s.unitId h) tid = false → s.colRuns die q n = false →
      s.colFinal die q n = (st, disc) →
      exec (.threadWake h tid) s =
        .next (s.modThread h tid fun x => (x.modU fun u => { u with clstat := st, cldisc := disc }).advance)) ∧
    (t.wait = .confirm → s.provisional h = false →
      exec (.threadWake h tid) s = .next (s.modThread h tid fun x => { x with wait := .none })) ∧
    (∀ v, t.wait = .hexit v → tid ≠ 0 → s.exitHeld h tid = false →
      ∃ t', exec (.threadWake h tid) s = .next t' ∧ (t'.thread h tid).exited = some v ∧
        (t'.thread h tid).wait = .none ∧ t'.mem = s.mem) ∧
    (∀ d i v since r, t.wait = .hjoin d [i] since → i ≠ tid → c.unit = some r → r.assigned.contains i = true →
      (s.thread h i).exited = some v → c.contested tid since i = false →
      (∀ x ∈ s.inflight, ¬(x.h = h ∧ x.tid = i)) →
      ∃ t', exec (.threadWake h tid) s = .next t' ∧ t'.thread h tid = ({ t with r := t.r.writeG d v } : Thread).advance ∧
        tget (t'.core h).threads i = none ∧
        (t'.core h).unit = some { r with assigned := r.assigned.filter (fun j => j != i) }) ∧
    (∀ va kind, kind < 3 →
      (t.wait = .page (.replied false) va kind →
        ∀ i ∈ ([.threadWake h tid, .walkRestart (.thread h tid)] : List Instr),
          exec i s = .next (s.modThread h tid fun x => { x with wait := .none })) ∧
      (t.wait = .page (.replied true) va kind → t.t.tvec.getLsbD 0 = true → t.t.inh = false →
        ∀ i ∈ ([.threadWake h tid, .walkRestart (.thread h tid)] : List Instr),
          ∃ t', exec i s = .next t' ∧ t'.mem = s.mem ∧ t'.thread h tid = { t with
            wait := .none
            t := { t.t with
              tepc := t.r.pc &&& ~~~3#64, tcause := BitVec.ofNat 64 (0x0F * 2 ^ 56 + infoAt va kind 0), inh := true }
            r := { t.r with pc := t.t.tvec &&& ~~~3#64 } })) ∧
    (∀ d a b look dst src dim rnd u, t.wait = .dispatch d → tid < 11 →
      (∀ j e, j ≠ tid → (s.thread h j).wait ≠ .dispatch e) → acceptKey d.unit = Un.vec →
      u = { s with curCore := h, curTid := tid, curWord := d.word } → Accepting u → c.vec.queue.length < 8 →
      c.formatPending = false → (∀ x ∈ c.qrn.queue, x.tid ≠ tid) →
      ∀ e ∈ vecForms a b look dst src dim rnd, decodeCommand d.word.toNat = some e.1 →
        ∃ t', exec (.unitAcceptCommand h tid) s = .next t' ∧
          Dispatched u t' (fun x => { (c.sameBut x) with vec := { c.vec with queue := c.vec.queue ++ [vecAt u e.2] } })
            u.cur))

/-- R405–R408: a late fault with the code of a late cause joins the queue of its thread, which holds four, and the fifth
counts in LOST; no other code is produced; the
delivery of the only queued fault to a thread with an open handler saves the next instruction in TEPC, names code,
word and unit in TCAUSE, the ply number in TPLY, and enters the handler. R421–R423: a watchdog whose COUNT has reached
LIMIT × 2^20 stops the threads of its core, and the control context posts a WDT record with COUNT in INFO and its own
next instruction in EPC; one that has not reached it does nothing. -/
def Obligations.LateFaultsAndTheWatchdog : Prop :=
  (∀ (h tid code unit : Nat) (ply : Word32) (addr : Word) (s : State) (c : Core) (t : Thread), Live s h tid c t →
     (code < 0x20 ∨ 0x2C < code → exec (.lateFaultArrival h tid code ply addr unit) s = .next s) ∧
     (0x20 ≤ code → code ≤ 0x2C → t.late.length < 4 → exec (.lateFaultArrival h tid code ply addr unit) s =
       .next (s.modThread h tid fun x =>
         { x with late := x.late ++ [{ code := code, ply := ply, addr := addr, unit := unit }] })) ∧
     (0x20 ≤ code → code ≤ 0x2C → 4 ≤ t.late.length → exec (.lateFaultArrival h tid code ply addr unit) s =
       .next (s.modThread h tid fun x => { x with lateLost := x.lateLost + 1 })) ∧
     (t.late = [{ code := code, ply := ply, addr := addr, unit := unit }] → code < 256 → unit < 16 → t.refused = [] →
       (∀ x ∈ s.inflight, ¬(x.h = h ∧ x.tid = tid)) → (∀ n, t.wait ≠ .trapReply n) → t.wait ≠ .wdtStop →
       t.t.tvec.getLsbD 0 = true → t.t.inh = false →
       ∃ t', exec (.lateFaultDelivery h tid) s = .next t' ∧ t'.mem = s.mem ∧ t'.thread h tid = { t with
         late := [], lateLost := 0, wait := .none
         t := { t.t with
           tepc := t.r.pc &&& ~~~3#64
           tcause := BitVec.ofNat 64 (code * 2 ^ 56 + addr.toNat % 2 ^ 52 * 16 + unit)
           inh := true, ply := ply, lost := BitVec.ofNat 8 (min 255 t.lateLost) }
         r := { t.r with pc := t.t.tvec &&& ~~~3#64 } })) ∧
  (∀ (h : Nat) (s : State) (c : Core) (r : Resident) (t : Thread), s.core h = c → c.unit = some r →
     c.regs.wdtPost = none →
     (c.regs.wdogCount < c.regs.wdogLimit * 2 ^ 20 → exec (.watchdogExpire h) s = .next s) ∧
     (c.regs.wdogLimit * 2 ^ 20 ≤ c.regs.wdogCount → c.threads = [(0, t)] → t.exited = none → t.refused = [] →
       (∀ n, t.wait ≠ .trapReply n) → (∀ a ∈ s.inflight, a.h ≠ h) →
       ∃ t' p, exec (.watchdogExpire h) s = .next t' ∧ t'.mem = s.mem ∧ t'.thread h 0 = { t with wait := .wdtStop } ∧
         (t'.core h).regs = { c.regs with wdtPost := some s.nextId } ∧ t'.posts = s.posts ++ [p] ∧ p.id = s.nextId ∧
         p.waiter = .wdt h r.id ∧
         p.body.head? = some (BitVec.ofNat 64 (0x10 * 2 ^ 56 + c.regs.wdogCount % 2 ^ 48)) ∧ p.body[1]? = some t.r.pc))

/-- R287, R412: a record that is due fills the lowest record of the area whose SEQ is 0: its words, REPLY 0, and SEQ
and DOORBELL one more than DOORBELL was; no other byte changes. R288, R413: a nonzero REPLY consumes a posted record:
its SEQ and REPLY become 0 and it is gone; RESUME (1) of a trap record lets its thread go on at the record's EPC, and
any other nonzero reply asks the record's unit to stop and marks its launch cancelled; the
reply to a page request frees the tag and reaches the thread that waits on it, as RETRY (1) or as DENY. R452: the
management processor answers a root's page request with DENY, and its record is gone. `Settled` says that nothing else
follows at once from the answer. -/
def Obligations.RecordsArePostedAndAnswered : Prop :=
  (∀ (n : Nat) (i : Instr) (s : State) (p : Post) (x : Ctx) (h base k bell : Nat), s.Inv → s.posts = [p] → p.id = n →
     (p.page = true ∧ i = .pageRequestPost n ∨ p.page = false ∧ i = .trapMessagePost n) →
     p.mp = false → p.due = true → s.postHeld p = false → p.body.length = 6 → tget s.ctxs p.target = some x →
     x.st ≠ .draining → (s.part x.part).out = false → h = x.svch → h < 4096 → isService h = true →
     base = (x.psaOff + if p.page then 0 else 1) * 0x4000 → base < 0x200000 → 1 ≤ k → k < 256 →
     s.local8 h (base + 64 * k + 0x20) % 2 ^ 63 = 0 →
     (∀ j, 1 ≤ j → j < k → s.local8 h (base + 64 * j + 0x20) % 2 ^ 63 ≠ 0) → bell = (s.local8 h base + 1) % 2 ^ 64 →
     ∃ t, exec i s = .next t ∧ t.cores = s.cores ∧ t.ctxs = s.ctxs ∧
       t.posts = [{ p with copies := p.copies ++ [(h, base + 64 * k)], due := false }] ∧
       (∀ e ∈ recordOffsets.zip p.body, t.local8 h (base + 64 * k + e.1) = e.2.toNat) ∧
       t.local8 h (base + 64 * k + 0x28) = 0 ∧ t.local8 h (base + 64 * k + 0x20) = bell % 2 ^ 63 ∧
       t.local8 h base = bell ∧
       ∀ a, (a < aliasBase h + base ∨ aliasBase h + base + 8 ≤ a) →
         (a < aliasBase h + base + 64 * k ∨ aliasBase h + base + 64 * k + 64 ≤ a) → memGet t.mem a = memGet s.mem a) ∧
  (∀ (v : Word) (s : State) (p : Post) (h r : Nat), s.Inv → h < 4096 → PostedAt s p h r → v.toNat % 256 ≠ 0 →
     (∀ g tid u c t, p.page = false → p.waiter = .trap g tid u → v.toNat % 256 = 1 → s.castled = [] → Settled s →
       s.core g = c →
       c.unit.map (·.id) = some u → tget c.threads tid = some t → t.wait = .trapReply p.id →
       ∃ t', exec (.trapReplyConsume h (r + 0x28) v) s = .next t' ∧ t'.posts = [] ∧ t'.local8 h (r + 0x20) = 0 ∧
         t'.local8 h (r + 0x28) = 0 ∧ t'.thread g tid = { t with
           wait := .none, r := { t.r with pc := BitVec.ofNat 64 (s.local8 h (r + 8)) &&& ~~~3#64 } }) ∧
     (∀ g tid u y z, p.page = false → p.waiter = .trap g tid u → v.toNat % 256 ≠ 1 → s.castled = [] →
       tget s.launches u.lnum = some y → y.ctx = u.ctx → tget y.units u.index = some (.resident g) →
       (s.core g).unit = some z → z.id = u → z.prov = false → (s.core g).evicted = [] →
       Settled (s.cancelUnit u.lnum u.index) →
       ∃ t', exec (.trapReplyConsume h (r + 0x28) v) s = .next t' ∧ t'.posts = [] ∧ t'.local8 h (r + 0x20) = 0 ∧
         t'.local8 h (r + 0x28) = 0 ∧ (t'.core g).unit = some { z with stop := some (z.stop.getD { since := s.now }) } ∧
         (tget t'.launches u.lnum).map (·.cancelled) = some true) ∧
     (∀ c tag x g tid t va kind, p.page = true → p.waiter = .page c tag → tget s.ctxs c = some x →
       tget (s.core g).threads tid = some t → t.wait = .page (.tag c tag) va kind →
       Settled (s.answerTag c tag (v.toNat % 256 != 1)) →
       ∃ t', exec (.pageReplyConsume h (r + 0x28) v) s = .next t' ∧ t'.posts = [] ∧ t'.local8 h (r + 0x20) = 0 ∧
         t'.local8 h (r + 0x28) = 0 ∧ (t'.ctx c).tags = x.tags.filter (fun y => y.tag != tag) ∧
         t'.thread g tid = { t with wait := .page (.replied (decide (v.toNat % 256 ≠ 1))) va kind })) ∧
  (∀ (s : State) (p : Post) (c tag : Nat) (x : Ctx) (g tid : Nat) (t : Thread) (va : Word) (kind : Nat),
     s.posts = [p] → p.mp = true → p.copies = [] → p.waiter = .page c tag → tget s.ctxs c = some x →
     tget (s.core g).threads tid = some t → t.wait = .page (.tag c tag) va kind → Settled (s.answerTag c tag true) →
     ∃ t', exec (.mpServeRootRequest p.id) s = .next t' ∧ t'.posts = [] ∧ t'.mem = s.mem ∧
       (t'.ctx c).tags = x.tags.filter (fun y => y.tag != tag) ∧
       t'.thread g tid = { t with wait := .page (.replied true) va kind })

/-- R291: a write of INVCTL with a SEQ in a page-service area starts a request: the buffers of the module forget the
context where ALL is set, instruction caches too, else the data buffer of every core forgets the range that INVVA names; when the accesses of the
context through its translations have been performed INVDONE takes SEQ, and ERR for a reserved bit. A flush token that
finds nothing of its core in flight changes nothing, and one that finds a load performs it (R419). R36, R38, R122, R297,
R421: a bank format that waited is written once no formatted command runs, FORMAT 13–15 only setting BADW; WDOG only
lowers LIMIT, and never to 0; a loop count is written; WAYMASK writes a mask that is a nonempty subset of PWAYS, sets
BADMASK for another value, and NOTROOT from a context that is no root. -/
def Obligations.InvalidationsAndRegisterEvents : Prop :=
  (∀ (h base c n : Nat) (v : Word) (s : State), s.Inv → h < 4096 → isService h = true → base % 0x4000 = 0 →
     base < 0x200000 →
     (s.invals = [] → s.areaOwner h base = some c → v.toNat / 2 ^ 32 ≠ 0 → v.toNat / 2 ^ 17 % 2 ^ 15 = 0 →
       ∃ t, exec (.invalidationRequest h (base + 0x10) v) s = .next t ∧
         t.invals = [{ h := h, off := base, ctx := c, ctl := v.toNat, va := s.local8 h (base + 8) }] ∧
         t.local8 h (base + 0x10) = v.toNat ∧ (v.toNat / 2 ^ 16 % 2 = 1 → Forgotten t c ∧
           ∀ g r, (t.core g).unit = some r → r.id.ctx = c → (t.core g).icache = []) ∧
         (v.toNat / 2 ^ 16 % 2 = 0 → ∀ first, first = s.local8 h (base + 8) / 2 ^ 16 % 2 ^ 36 →
           ∀ g, ∀ e ∈ (t.core g).dtlb, e.ctx = c → e.big = false →
             e.page < first ∨ first + (v.toNat % 2 ^ 16 + 1) ≤ e.page)) ∧
     (∀ i, s.invals = [i] → i.h = h → i.off = base → s.inForce i.ctx = true →
       (i.ctl / 2 ^ 17 % 2 ^ 15 ≠ 0 ∨ ∀ a ∈ s.inflight, a.unit.ctx ≠ i.ctx ∨ a.va.toNat < 0x200000) →
       ∃ t, exec (.invalidationDone 0) s = .next t ∧ t.invals = [] ∧ t.cores = s.cores ∧
         t.local8 h (base + 0x18) =
           i.ctl / 2 ^ 32 % 2 ^ 32 + if i.ctl / 2 ^ 17 % 2 ^ 15 ≠ 0 then 2 ^ 32 else 0) ∧
     ((∀ a ∈ s.inflight, a.h ≠ n) → exec (.flushTokenReturn n) s = .next s) ∧
     (∀ a sx, s.inflight = [a] → a.h = n → a.kind = .load sx → s.poison = [] →
       s.unitOver a.unit = false →
       ∃ t, exec (.flushTokenReturn n) s = .next t ∧ t.inflight = [] ∧ t.mem = s.mem)) ∧
  (∀ (h tid : Nat) (v : Word) (s : State) (c : Core) (t : Thread) (k : CoreRegs), s.core h = c →
     tget c.threads tid = some t → c.unit.isSome = true → k = c.regs →
     (∀ n b, t.wait = .bfmt n v → c.formattedBusy = false → b = c.bank n →
       ∃ t', exec (.bfmtWrite h tid) s = .next t' ∧ t'.mem = s.mem ∧ t'.thread h tid = t.advance ∧
         ∀ m, (t'.core h).bank m =
           if m ≠ n then c.bank m
           else if 13 ≤ v.toNat % 16 then { b with badw := true }
           else { b with format := v.toNat % 16, sat := v.getLsbD 4, badw := b.badw && !v.getLsbD 5 }) ∧
     (∀ l, l = v.toNat / 2 ^ 48 → exec (.wdogWrite h v) s = .next (s.setCore h
       { c with regs := { k with wdogLimit := if 1 ≤ l ∧ l ≤ k.wdogLimit then l else k.wdogLimit } })) ∧
     exec (.lcntWrite h tid 0 v) s = .next (s.modThread h tid fun x =>
       { x with r := { x.r with loop0 := { x.r.loop0 with cnt := v } } }) ∧
     exec (.lcntWrite h tid 1 v) s = .next (s.modThread h tid fun x =>
       { x with r := { x.r with loop1 := { x.r.loop1 with cnt := v } } }) ∧
     (∀ x p ways m, x = s.ctxAt h → p = (s.ctx x).part → ways = (s.part p).pways.getD k.wayDie 0 → m = v.toNat % 2 ^ 16 →
       (k.wayDef = true ∨ (s.vfOf k.wayVf).part = some p → (s.part p).root = x →
         (m ≠ 0 → m &&& ways = m → exec (.waymaskWrite h v) s = .next (
           if k.wayDef then s.modPart p fun q => { q with defMask := q.defMask.set k.wayDie m }
           else s.modVf k.wayVf fun y => { y with masks := y.masks.set k.wayDie m })) ∧
         (m = 0 ∨ m &&& ways ≠ m → exec (.waymaskWrite h v) s = .next (s.setCore h
           { c with regs := { k with badMask := true } }))) ∧
       ((s.part p).root ≠ x → exec (.waymaskWrite h v) s = .next (s.setCore h
         { c with regs := { k with notRoot := true } }))))

/-! ## Registers, errors, power (R17, R36, R230, R297, R332, R334, R335, R421–R435, R454) -/

/-- R426–R428, R434, R435: a corrected error counts in ERRCNT, which saturates, and a parity error of a TLB, an
instruction cache or the predictor invalidates the entry; a resent flit changes nothing; an uncorrectable error in HBM or
L2 data poisons its granule of 32 bytes (the model's reading of a location, log 47 and log 61); one in a unit is charged
to the unit's tenant, which the report list shows, and the tenant's job is rolled back or, unprotected, ends; a parity
error of an L2 tag fences the way, loses at most the bytes of its line, none where no covering tenant has written the page
in its phase, and is charged to the covering tenants. R17, R230, R332, R334, R335, R454: a waiting request of an engine
takes free leave of its die, none at or beyond the capacity; an engine idle for 2,048 cycles gives its leave back, and not
before; a launch is charged the energy drawn, and where LEBAL falls to 0 or below the raises of its units lapse (the
model's reading, log 27); a unit of the pool 3,200,000 cycles (2 ms) after it entered or was last raised is raised one
class, and not before; throttling, the trip, and clock gating are recorded. That an event which needs core power stops the
run after the trip is the model's choice (log 71). -/
def Obligations.ErrorsAndPower : Prop :=
  (∀ (h die way spa : Nat) (s : State), s.Inv →
     (∀ place, ∃ t, exec (.correctableError { h := h, place := place }) s = .next t ∧ t.mem = s.mem ∧
       (t.core h).errcnt = min (2 ^ 32 - 1) ((s.core h).errcnt + 1) ∧
       (place = .data → t = s.modCore h fun c => { c with errcnt := min (2 ^ 32 - 1) (c.errcnt + 1) }) ∧
       (∀ n, place = .itlb n → (t.core h).itlb = (s.core h).itlb.eraseIdx n) ∧
       (∀ n, place = .dtlb n → (t.core h).dtlb = (s.core h).dtlb.eraseIdx n) ∧
       (∀ n l, place = .clusterTlb n → tget s.clusterTlb (clusterOf h) = some l →
         tget t.clusterTlb (clusterOf h) = some (l.eraseIdx n)) ∧
       (∀ n l, place = .nestedTlb n → tget s.nestedTlb (clusterOf h) = some l →
         tget t.nestedTlb (clusterOf h) = some (l.eraseIdx n)) ∧
       (∀ pc, place = .icache pc → tget (t.core h).icache pc = none) ∧
       (∀ n, place = .predictor n → tget t.preds n = none)) ∧
     exec (.linkCrcError h) s = .next s ∧
     (∀ p ∈ ([.hbm spa, .l2data spa] : List ErrPlace), ∃ t, exec (.uncorrectableError p) s = .next t ∧
       t.mem = s.mem ∧ ∀ g, g ∈ t.poison ↔ g ∈ s.poison ∨ g = spa / 32) ∧
     (∀ r n u, (s.core h).unit = some r → n = s.tenantOf r.id.ctx → 512 ≤ n →
       u = { s with mp := { s.mp with reports := s.mp.reports ++ [.charge n] } } →
       (s.jobsOf n = [] → exec (.uncorrectableError (.unitState h)) s = .next u) ∧
       (∀ c, s.jobsOf n = [c] →
         (s.protectedJob c = true → exec (.uncorrectableError (.unitState h)) s = .next (u.rollback c)) ∧
         (s.protectedJob c = false → exec (.uncorrectableError (.unitState h)) s = .next (u.loseJob c)))) ∧
     (∀ ts, ts = s.tenantsOfWay die way → ∃ u : State, exec (.l2TagParityError die way spa) s = .next (u.chargeAll ts) ∧
       u.cores = s.cores ∧ (u.die die).fenced = (s.die die).fenced ||| BitVec.ofNat 16 (2 ^ way) ∧
       (∀ a, a / 32 ≠ spa / 32 → memGet u.mem a = memGet s.mem a) ∧ (s.writtenBy ts spa = false → u.mem = s.mem))) ∧
  (∀ (die h e lnum nj : Nat) (s : State) (d : Die), d = s.die die →
     (d.cap ≤ d.held → exec (.leaveGrant die) s = .next s) ∧
     (∀ w, d.waiting = [w] → w.agent = e → e < 2 → d.held < d.cap → d.thr < 2 →
       ∃ t, exec (.leaveGrant die) s = .next t ∧ t.mem = s.mem ∧
         t.die die = { d with held := d.held + 1, waiting := [] } ∧
         (t.core w.h).engineLeave e = { held := true, wanted := false, idle := s.now }) ∧
     (dieOf h = die → e < 2 → ((s.core h).engineLeave e).held = true → (s.core h).engineBusy e = false →
       (((s.core h).engineLeave e).idle + 2048 ≤ s.now →
         ∃ t, exec (.leaveRelease h e) s = .next t ∧ t.mem = s.mem ∧ t.die die = { d with held := d.held - 1 } ∧
           (t.core h).engineLeave e = { held := false, wanted := false, idle := 0 }) ∧
       (s.now < ((s.core h).engineLeave e).idle + 2048 → exec (.leaveRelease h e) s = .next s)) ∧
     (∀ l z, tget s.launches lnum = some l → l.done = none →
       z = { l with lebal := l.lebal - nj, charged := l.charged + nj } →
       (∃ t, exec (.energyMeter lnum nj) s = .next t ∧ t.mem = s.mem ∧
         tget t.launches lnum = some (if 0 < l.lebal ∧ z.lebal ≤ 0 then z.lapse else z) ∧
         ∀ i, i ≠ lnum → tget t.launches i = tget s.launches i) ∧
       ∀ i r since last, l.heldBy = none → l.classOf r < 3 →
         (∀ p, tget l.units i = some (.waiting p r since last) →
           (last + 3200000 ≤ s.now → exec (.unitAging lnum i) s = .next (s.setUnit lnum i (.waiting p (r + 1) since s.now))) ∧
           (s.now < last + 3200000 → exec (.unitAging lnum i) s = .next s)) ∧
         (∀ g, tget l.units i = some (.evicted g true r since last) → last + 3200000 ≤ s.now →
           exec (.unitAging lnum i) s = .next (s.setUnit lnum i (.evicted g true (r + 1) since s.now)))) ∧
     (∀ level, exec (.thermalThrottle die level) s =
       .next (s.modDie die fun d => { d with thr := min level 2 })) ∧
     (∀ b, exec (.dieClockGating die b) s = .next (s.modDie die fun d => { d with gated := b })) ∧
     (s.inflight = [] → (∀ c ∈ s.cores, c.2.vec.queue = []) →
       exec (.thermalTrip die) s = .next { s with mp := { s.mp with powerCut := true, boot := 0xF0 } } ∧
       ∀ t e es, exec (.thermalTrip die) s = .next t → t.agenda = e :: es → offCore e = false →
         step t = .fault .powerCut))

/-! ## Units, phases, drains, castling (R83, R128, R137, R293, R303, R309–R313, R318–R345, R417–R420, R429) -/

/-- R83, R128, R137, R311, R321, R330, R331, R345, R429: the first waiting unit of a partition starts on the first
empty core that it may take; a unit that R331 lets go is evicted with its banks in place; a unit whose control context
has exited and which has nothing outstanding completes; one that is asked to stop ends after 2^20 cycles; a boundary
commits a phase and starts its graph. That a phase is told by the order in which GRUNs were accepted is the model's reading
(log 28). -/
def Obligations.UnitsStartLeaveAndEnd : Prop :=
  ∀ (s : State),
    (∀ part w l h hs u, NoneEvicted s → (s.part part).out = false → s.pool part = [w] → w.at_ = none → w.prov = false →
      tget s.launches w.l = some l → s.choices l w.i = h :: hs → (s.core h).unit = none →
      u = ({ ctx := l.ctx, lnum := w.l, index := w.i } : UnitId) → Settled (s.startUnit w.l w.i h false w.raised) →
      ∃ t r th, exec (.unitPlacement part) s = .next t ∧ (t.core h).unit = some r ∧ r.id = u ∧ r.prov = false ∧
        (t.core h).threads = [(0, th)] ∧ th = { Thread.reset with r := th.r } ∧ th.r.pc = l.image.entry ∧
        th.r.fflags = 0 ∧ (∀ n : Reg, th.r.f[n] = 0) ∧
        (∀ n : Reg, th.r.g[n] =
          if n = 2 then (if isService h then 0x200000 else if l.image.bankMask = 0 then 0
            else BitVec.ofNat 64 ((Nat.log2 l.image.bankMask.toNat + 1) * 0x4000))
          else if n = 3 then l.arg + BitVec.ofNat 64 w.i * l.astride else 0) ∧
        (∀ k < 96, l.image.bankMask.getLsbD k = true → ((t.core h).bank k).owner = some u) ∧
        (∀ g, g ≠ h → t.core g = s.core g) ∧
        (tget t.launches w.l).map (fun x => tget x.units w.i) = some (some (.resident h))) ∧
    (∀ h r l, NoneEvicted s → (s.core h).unit = some r → tget s.launches r.id.lnum = some l →
      (s.evictChosen h = false → exec (.unitEvict h) s = .next s) ∧
      (s.evictChosen h = true → ∃ t e ready, exec (.unitEvict h) s = .next t ∧ (t.core h).unit = none ∧
        (t.core h).threads = [] ∧ (t.core h).evicted = [e] ∧ e.res = r ∧ e.regs = (s.core h).regs ∧
        e.tiles = (s.core h).tiles ∧ e.tags = (s.core h).tags ∧ (∀ n, (t.core h).bank n = (s.core h).bank n) ∧
        (∀ b tid, tget (s.core h).regBanks b = some (.live tid) →
          ∃ o, tget (t.core h).regBanks b = some (.parked r.id tid o ((s.core h).thread tid))) ∧
        t.mem = s.mem ∧ (∀ g, g ≠ h → t.core g = s.core g) ∧
        (tget t.launches r.id.lnum).map (fun x => tget x.units r.id.index) = some (some (.evicted h ready r.raised s.now s.now)))) ∧
    (∀ h r, (s.core h).unit = some r →
      (r.exit0 = none ∨ s.ucnt h ≠ 0 → exec (.unitComplete h) s = .next s) ∧
      (∀ v y, r.exit0 = some v → s.ucnt h = 0 → r.prov = false → (∀ a ∈ s.inflight, a.h ≠ h) → (s.part (s.ctx r.id.ctx).part).out = false →
        y = (s.clearUnit h r.id true).setUnit r.id.lnum r.id.index (.completed v) → Settled y →
        exec (.unitComplete h) s = .next y ∧ (y.core h).unit = none ∧ (y.core h).threads = [] ∧ (y.core h).tiles = [] ∧
          (∀ n, ((y.core h).bank n).owner ≠ some r.id) ∧ y.mem = s.mem) ∧
      (∀ q y, r.stop = some q → s.inflight = [] → (s.part (s.ctx r.id.ctx).part).out = false →
        y = (s.clearUnit h r.id true).setUnit r.id.lnum r.id.index .cancelled → Settled y →
        (q.since + 2 ^ 20 ≤ s.now ∨ (∀ t ∈ (s.core h).threads, t.2.exited = none → t.2.wait = .yieldu) →
          exec (.forcedUnitStop h) s = .next y ∧ (y.core h).unit = none ∧ (y.core h).threads = []) ∧
        (s.now < q.since + 2 ^ 20 → (∃ t ∈ (s.core h).threads, t.2.exited = none ∧ t.2.wait = .none) →
          exec (.forcedUnitStop h) s = .next s))) ∧
    (∀ c k x g p, tget s.ctxs c = some x → tget x.graphs k = some g → tget s.parts x.part = some p → g.st = .running →
      g.waiting = true → g.held = none →
      (s.phaseReady c g = false → exec (.phaseCommit c k) s = .next s) ∧
      (∀ y, s.phaseReady c g = true →
        y = (s.boundary c (some (k, g.arg)) g.order).setGraph c k { g with waiting := false } →
        exec (.phaseCommit c k) s = .next y.settle ∧ (y.ctx c).pstart = g.order ∧ (y.ctx c).pnum = (x.pnum + 1) % 2 ^ 48 ∧
          tget (y.ctx c).graphs k = some { g with waiting := false } ∧ (y.ctx c).unprot = !p.cken ∧
          (p.cken = true → (∀ e ∈ (y.part x.part).gated, gateOf c e = false) ∧
            (∀ j ∈ (y.part x.part).jpages, j.ctx ≠ c)) ∧
          (p.cken = false → y.mem = s.mem)))

/-- R155, R158, R161, R293, R303, R309, R312, R313: a core grant, a revocation and a deletion end when nothing that
they cover is in flight and no unit that they stop is left, and not before; a revoked quantity and the balances of a
deleted context return; PREPARE is done when no unit is left on the cores that go; the last user of a draining tile
swaps its banks, or undefines it. -/
def Obligations.DrainsEnd : Prop :=
  ∀ (s : State) (d : Drain),
    (∀ c b n busy, OnlyDrain s d (.coreGrant c b n) → Performed s d →
      busy = s.unitsOn b n (fun k => (s.ctx k).part == (s.ctx c).part && !s.reaches c k) →
      (busy = false → exec (.coreGrantComplete c) s = .next { s with drains := [] }) ∧
      (busy = true → exec (.coreGrantComplete c) s = .next s)) ∧
    (∀ k, OnlyDrain s d k → ¬Performed s d → exec (.revocationComplete d.id) s = .next s) ∧
    (∀ self c b n, OnlyDrain s d (.revokeCores self c b n) → Performed s d →
      (s.unitsOn b n (s.reaches c) = false → exec (.revocationComplete d.id) s = .next { s with drains := [] }) ∧
      (s.unitsOn b n (s.reaches c) = true → exec (.revocationComplete d.id) s = .next s)) ∧
    (∀ c a n rs, OnlyDrain s d (.revokeMem c a n rs) → Performed s d →
      exec (.revocationComplete d.id) s = .next { s with drains := [] }) ∧
    (∀ self q w x, OnlyDrain s d (.revokeQty self q w) → Performed s d → tget s.ctxs self = some x →
      ∃ t, exec (.revocationComplete d.id) s = .next t ∧ t.drains = [] ∧ t.mem = s.mem ∧ t.cores = s.cores ∧
        t.ctx self = { x with queues := x.queues + q, cells := x.cells + w }) ∧
    (∀ self c x y, OnlyDrain s d (.delete self c) → Performed s d → tget s.ctxs self = some x → tget s.ctxs c = some y →
      self ≠ c → y.level ≠ 0 → Leaf s c →
      (s.subtreeBusy [c] = true → exec (.contextDeleteComplete c) s = .next s) ∧
      (s.subtreeBusy [c] = false →
        ∃ t, exec (.contextDeleteComplete c) s = .next t ∧ t.drains = [] ∧ t.mem = s.mem ∧ t.cores = s.cores ∧
          tget t.ctxs c = none ∧ (∀ k, k ≠ c → k ≠ self → t.ctx k = s.ctx k) ∧ (∀ l ∈ t.launches, l.2.ctx ≠ c) ∧
          t.ctx self = { x with
            energy := x.energy + y.energy, queues := x.queues + y.queuesGot, cells := x.cells + y.cellsGot })) ∧
    (s.mp.preparing = true →
      (s.prepareDrained = true → exec .prepareDrainDone s = .next { s with mp := { s.mp with prepared := true } }) ∧
      (s.prepareDrained = false → exec .prepareDrainDone s = .next s)) ∧
    (∀ h e u x c, c = s.core h → c.unit.map (·.id) = some u → c.evicted = [] → tget c.tiles e = some x →
      (s.tileUsed h u e = true → exec (.tileDrainEnd h e) s = .next s) ∧
      (x.st = .draining → s.tileUsed h u e = false → x.nb = 1 → x.vbank ≠ x.sbank →
        (x.freeing = false →
          ∃ t, exec (.tileDrainEnd h e) s = .next t ∧ t.mem = s.mem ∧
            tget (t.core h).tiles e = some { x with st := .ready, shw := false, publ := false } ∧
            ∀ n, (t.core h).phys n =
              if n = x.vbank then c.phys x.sbank else if n = x.sbank then c.phys x.vbank else c.phys n) ∧
        (x.freeing = true →
          ∃ t, exec (.tileDrainEnd h e) s = .next t ∧ t.mem = s.mem ∧ tget (t.core h).tiles e = none ∧
            ∀ n, (t.core h).phys n = c.phys n)))

/-- R417–R420: at the end of its slice a partition whose units have nothing under way leaves its interval with its
cores and their memory, and nothing else changes but that power leave and error counts stay with the cores; when nobody
holds the interval and 32,000 cycles have passed since the stop, it returns with all of it but the instruction caches and
the TLBs, and not before. That power leave and error counts stay with the cores, and how the stop, the 32,000 cycles and
the slices are timed, are the model's readings (log 44). -/
def Obligations.CastlingStoresAndRestores : Prop :=
  ∀ (part : Nat) (s : State) (p : Part), s.Inv → tget s.parts part = some p →
    (p.out = false → s.sliced part = false → exec (.castleStop part) s = .next s) ∧
    (p.out = false → s.sliced part = true → (∀ a ∈ s.inflight, a.h ∉ p.interval) →
      (∀ h ∈ p.interval, (s.core h).vec.queue = []) →
      ∃ t x, exec (.castleStop part) s = .next t ∧ t.part part = { p with out := true } ∧ x ∈ t.castled ∧ x.part = part ∧
        x.stopped = s.now ∧ (∀ h ∈ p.interval, tget x.cores h = tget s.cores h ∧ t.core h = (s.core h).stays) ∧
        (∀ h, h ∉ p.interval → t.core h = s.core h) ∧
        (∀ a, inInterval p.interval a → memGet x.mem a = memGet s.mem a ∧ memGet t.mem a = 0) ∧
        (∀ a, ¬inInterval p.interval a → memGet t.mem a = memGet s.mem a) ∧ t.launches = s.launches ∧ t.ctxs = s.ctxs) ∧
    (p.out = true → ∀ q v, tget s.parts q = some v → q ≠ part → v.out = false → v.hbase < p.hbase + p.hlen →
      p.hbase < v.hbase + v.hlen → exec (.castleResume part) s = .next s) ∧
    (∀ x, p.out = true → s.parts = [(part, p)] → s.castled = [x] → x.part = part → s.now < x.stopped + 32000 →
      0 < p.hlen → exec (.castleResume part) s = .next s) ∧
    (∀ x, p.out = true → s.parts = [(part, p)] → s.castled = [x] → x.part = part → x.stopped + 32000 ≤ s.now →
      (x.cores.map (·.1)).Nodup → Memory.wf x.mem = true →
      ∃ t, exec (.castleResume part) s = .next t ∧ t.part part = { p with out := false } ∧ t.castled = [] ∧
        (∀ e ∈ x.cores, t.core e.1 = { e.2 with
          itlb := [], dtlb := [], icache := [], leave := (s.core e.1).leave, errcnt := (s.core e.1).errcnt }) ∧
        (∀ h, h ∉ x.cores.map (·.1) → t.core h = s.core h) ∧
        ∀ a, memGet t.mem a = if memGet x.mem a = 0 then memGet s.mem a else memGet x.mem a)

/-! ## Engines of a core (R46, R185–R208, R216–R231, R240–R246, R249–R251, R257–R268) -/

/-- R46, R189, R190, R193–R195, R199, R205–R208: the command at the head of the vector queue is performed: one that
fails a check raises its late cause and does nothing else; VSETVL, VSON and VCLRQ write what they name; a sum adds its
element exactly; an element-wise command on one element writes the result rounded once, and each stream advances. -/
def Obligations.VectorCommandsArePerformed : Prop :=
  ∀ (h : Nat) (s : State) (c : Core) (th : Thread) (q : VecCmd) (rest : List VecCmd), s.Inv →
    Serves s h q.tid c th → c.vec.queue = q :: rest →
    (∀ code, th.late.length < 4 → s.vecFault h q = some code →
      ∃ t, exec (.vectorCommandPerform h) s = .next t ∧ t.mem = s.mem ∧ (t.core h).vec = { c.vec with queue := rest } ∧
        t.thread h q.tid = { th with
          late := th.late ++ [{ code := code, ply := q.ply, addr := q.addr, unit := q.op.unit }] }) ∧
    (s.vecFault h q = none →
      (q.op = .vsetvl →
        ∃ t, exec (.vectorCommandPerform h) s = .next t ∧ t.mem = s.mem ∧ (t.core h).vec = { c.vec with queue := rest } ∧
          (t.thread h q.tid).u =
            if 1 ≤ q.a.toNat ∧ q.a.toNat ≤ 4096 then { th.u with vlen := q.a.toNat, vcstat := 0 }
            else { th.u with vcstat := 2 }) ∧
      (q.op = .vclrq →
        ∃ t, exec (.vectorCommandPerform h) s = .next t ∧ t.mem = s.mem ∧ tget (t.core h).vec.q q.dst = some QAcc.clear ∧
          (t.core h).vec.queue = rest) ∧
      (∀ r, q.op = .vson → c.unit = some r → r.streams.getLsbD q.dst = true → (c.stream q.dst).en = false →
        (∀ d ∈ (c.stream q.dst).dims, d.1 ≠ 0) →
        ∃ t, exec (.vectorCommandPerform h) s = .next t ∧ t.mem = s.mem ∧ (t.thread h q.tid).u.vcstat = 0 ∧
          (t.core h).stream q.dst = { c.stream q.dst with en := true, owner := q.tid, pos := 0 }) ∧
      (∀ sx, q.op = .vsumx → th.u.vlen = 1 → sx = c.stream q.src →
        ∃ t, exec (.vectorCommandPerform h) s = .next t ∧ t.mem = s.mem ∧
          tget (t.core h).vec.q q.dst =
            some (((tget c.vec.q q.dst).getD QAcc.clear).add (s.streamElem h sx (sx.position sx.pos))) ∧
          (t.core h).stream q.src = { sx with pos := sx.pos + 1 }) ∧
      (∀ sx sd sat x y o, th.u.vlen = 1 → q.bf < 28 → isService h = false → h < 4096 → (∀ n < 128, c.phys n < 128) →
        sx = c.stream q.src → sd = c.stream q.dst → sd.nb = 1 → (c.bank sd.b0).format = 1 → (c.bank sd.b0).sat = sat →
        sd.position sd.pos = ((o : Nat) : Int) → x = s.streamElem h sx (sx.position sx.pos) →
        y = decodeFloat .fp32 q.scalar.toNat →
        ∀ e ∈ [(VecOp.vadd, addNum x y q.rnd), (.vsub, addNum x y.negate q.rnd), (.vmul, mulNum x y)], q.op = e.1 →
          ∃ t, exec (.vectorCommandPerform h) s = .next t ∧
            numOf (t.localBytes h (sd.b0 * 0x4000 + 4 * o) 4) = (encodeFloat e.2.1 .fp32 q.rnd sat).1 ∧
            (t.thread h q.tid).r.fflags = th.r.fflags ||| ((encodeFloat e.2.1 .fp32 q.rnd sat).2 ||| e.2.2) ∧
            (t.core h).stream q.src = { sx with pos := sx.pos + 1 } ∧
            (t.core h).stream q.dst = { sd with pos := sd.pos + 1 } ∧
            ∀ a p, p = aliasBase h + c.phys sd.b0 * 0x4000 + 4 * o → a < p ∨ p + 4 ≤ a →
              memGet t.mem a = memGet s.mem a))

/-- R195–R200, R203, R204, R456: the results of the vector unit. An element-wise command on one element, whose second
operand and addend are elements of streams or broadcast scalars, forms its exact result and writes it, rounded once, into an
FP32 stream with its flags; the compares write 1 or 0; 2^x at 128 and above overflows. VDOTX adds an exact product; VRDQ
reads an accumulator in a format, or answers BADARG; VMAXR delivers the largest element; VQNT writes the record of its
elements. What a quantised element takes between two levels is the model's free value (log 51). -/
def Obligations.VectorResultsAreEncodedOnce : Prop :=
  ∀ (h : Nat) (s : State) (c : Core) (th : Thread) (q : VecCmd) (rest : List VecCmd), s.Inv →
    Serves s h q.tid c th → c.vec.queue = q :: rest → s.vecFault h q = none → isService h = false → h < 4096 →
    (∀ n < 128, c.phys n < 128) →
    (∀ sx sd sat x y z o, th.u.vlen = 1 → sx = c.stream q.src → sd = c.stream q.dst → sd.nb = 1 →
      (c.bank sd.b0).format = 1 → (c.bank sd.b0).sat = sat → sd.position sd.pos = ((o : Nat) : Int) →
      x = s.streamElem h sx (sx.position sx.pos) →
      y = (match q.bStream with
        | some k => s.streamElem h (c.stream k) ((c.stream k).position (c.stream k).pos)
        | none => decodeFloat .fp32 q.scalar.toNat) →
      z = (match q.cStream with
        | some k => s.streamElem h (c.stream k) ((c.stream k).position (c.stream k).pos)
        | none => decodeFloat .fp32 (q.a.toNat / 2 ^ 32)) →
      (∀ e ∈ [(VecOp.vcvt, ((x, 0) : NumF)), (.vadd, addNum x y q.rnd), (.vsub, addNum x y.negate q.rnd),
          (.vmul, mulNum x y), (.vfma, fmaNum x y z q.rnd), (.vmax, minmaxNum true x y), (.vmin, minmaxNum false x y),
          (.vsel, (if x.isZero || x.isNan then z else y, 0)), (.vscale, (scaleNum x q.a.toInt, 0)), (.vlog2, log2Num x),
          (.vrcp, rcpNum x), (.vrsq, rsqNum x)], q.op = e.1 →
        ∃ t, exec (.vectorCommandPerform h) s = .next t ∧
          t.localBytes h (sd.b0 * 0x4000 + 4 * o) 4 = bytesOf 4 (encodeFloat e.2.1 .fp32 q.rnd sat).1 ∧
          (t.thread h q.tid).r.fflags = th.r.fflags ||| ((encodeFloat e.2.1 .fp32 q.rnd sat).2 ||| e.2.2) ∧
          ∀ k ∈ q.sources ++ q.dests, (t.core h).stream k = { c.stream k with pos := (c.stream k).pos + 1 }) ∧
      (∀ e ∈ [(VecOp.vceq, decide (cmpNum x y = 0)), (.vclt, decide (cmpNum x y < 0)), (.vcle, decide (cmpNum x y ≤ 0))],
        q.op = e.1 →
        ∃ t, exec (.vectorCommandPerform h) s = .next t ∧
          t.localBytes h (sd.b0 * 0x4000 + 4 * o) 4 =
            bytesOf 4 (if x.isNan = false ∧ y.isNan = false ∧ e.2 = true then 0x3F800000 else 0) ∧
          (t.thread h q.tid).r.fflags = th.r.fflags |||
            (if x.isSig = true ∨ y.isSig = true ∨ (q.op ≠ .vceq ∧ (x.isNan = true ∨ y.isNan = true)) then Flags.nv else 0)) ∧
      (q.op = .vexp2 → ∀ r, r = (if exp2Over x then
          (if sat then (0x7F7FFFFF, Flags.of ||| Flags.nx ||| Flags.sat) else (0x7F800000, Flags.of ||| Flags.nx))
          else ((encodeFloat (exp2Num x).1 .fp32 q.rnd sat).1, (encodeFloat (exp2Num x).1 .fp32 q.rnd sat).2 ||| (exp2Num x).2)) →
        ∃ t, exec (.vectorCommandPerform h) s = .next t ∧
          t.localBytes h (sd.b0 * 0x4000 + 4 * o) 4 = bytesOf 4 r.1 ∧
          (t.thread h q.tid).r.fflags = th.r.fflags ||| r.2)) ∧
    (∀ sx x y, q.op = .vdotx → th.u.vlen = 1 → sx = c.stream q.src → x = s.streamElem h sx (sx.position sx.pos) →
      y = (match q.bStream with
        | some k => s.streamElem h (c.stream k) ((c.stream k).position (c.stream k).pos)
        | none => decodeFloat .fp32 q.scalar.toNat) →
      ∃ t, exec (.vectorCommandPerform h) s = .next t ∧ t.mem = s.mem ∧ tget (t.core h).vec.q q.dst =
        some (((tget c.vec.q q.dst).getD QAcc.clear).add (mulExact x y))) ∧
    (∀ k, q.op = .vrdq → k = (tget c.vec.q q.dst).getD QAcc.clear →
      (8 < q.a.toNat % 16 → ∃ t, exec (.vectorCommandPerform h) s = .next t ∧ t.mem = s.mem ∧
        (t.thread h q.tid).u = { th.u with vxstat := 2 }) ∧
      (∀ f v, selFmt (q.a.toNat % 16) = some f → v = k.acc.read k.ovf f q.rnd (q.a.getLsbD 4) →
        ∃ t, exec (.vectorCommandPerform h) s = .next t ∧ t.mem = s.mem ∧
          (t.thread h q.tid).u = { th.u with res := resWord f v.1, vxstat := 0 } ∧
          (t.thread h q.tid).r.fflags = th.r.fflags ||| v.2)) ∧
    (∀ sx xs, q.op = .vmaxr → sx = c.stream q.src → xs = (sx.next th.u.vlen).map (s.streamElem h sx) →
      ∃ t, exec (.vectorCommandPerform h) s = .next t ∧ t.mem = s.mem ∧
        (t.thread h q.tid).u = { th.u with res := maxFp64 (if q.a.getLsbD 0 then xs.map Machine.Num.abs else xs) } ∧
        (t.thread h q.tid).r.fflags = th.r.fflags ||| (if xs.any Machine.Num.isSig then Flags.nv else 0) ∧
        (t.core h).stream q.src = { sx with pos := sx.pos + th.u.vlen }) ∧
    ∀ sx sd code k xs r, q.op = .vqnt → sx = c.stream q.src → sd = c.stream q.dst → sd.nb = 1 →
      code = (c.bank sd.b0).format → code ∈ [9, 10, 11, 12] → th.u.vlen = recElems code →
      sd.position sd.pos = ((recElems code * k : Nat) : Int) → xs = (sx.next th.u.vlen).map (s.streamElem h sx) →
      r = (if code = 12 then vqntBsi q.rnd xs else vqntSuper code (s.steps * 4096) q.scalar xs) →
      ∃ t, exec (.vectorCommandPerform h) s = .next t ∧
        t.localBytes h (sd.b0 * 0x4000 + k * recBytes code) (recBytes code) = r.1 ∧
        (t.thread h q.tid).r.fflags = th.r.fflags ||| r.2

/-- R201, R202, R250, R251: a contribution to a rank-wide maximum is held for its sequence number, the last one
completes the operation, another launch's is discarded unless the core has no unit yet, which holds it, and after 2^24
cycles it ends with status TMO; an arrival that
completes a barrier at its corner releases it along both ranks, one of another rectangle only marks it, and one for
which no unit has the barrier configured is held; a release ends the wait of its member. -/
def Obligations.RankMaximaAndBarriersCombine : Prop :=
  ∀ (s : State) (h : Nat) (c : Core), s.core h = c →
    (∀ m, Arrives s (.vmax m) m.ctx → m.dst = h →
      (∀ r, c.unit = some r → r.id.ctx = m.ctx → r.id.lnum = m.lnum → (∀ q ∈ c.vec.queue, q.op ≠ .vmaxx) →
        (c.vec.vmax = [] → c.vec.vmaxSeq ≤ m.seq → m.seq < c.vec.vmaxSeq + 4 →
          exec (.vmaxxContribution 0) s = .next (({ s with msgs := [] } : State).modCore h fun x =>
            { x with vec := { x.vec with vmaxHeld := x.vec.vmaxHeld ++ [m] } })) ∧
        (∀ o k th, c.vec.vmax = [o] → o.seq < c.vec.vmaxSeq → o.wm1 = 1 → c.vec.vmaxHeld = [k] →
          (∀ w ∈ [k, m], w.seq = o.seq ∧ w.x0 = o.x0 ∧ w.wm1 = 1) → k.fromX = o.x0 + 1 → m.fromX = o.x0 →
          tget c.threads o.tid = some th →
          ∃ t, exec (.vmaxxContribution 0) s = .next t ∧ t.mem = s.mem ∧ (t.core h).vec.vmax = [] ∧
            (t.core h).vec.vmaxHeld = [] ∧ (t.thread h o.tid).u = { th.u with
              vxstat := 0, res := maxFp64 [decodeFloat .fp32 m.value.toNat, decodeFloat .fp32 k.value.toNat] })) ∧
      (∀ r, c.unit = some r → (r.id.ctx ≠ m.ctx ∨ r.id.lnum ≠ m.lnum) → c.evicted = [] →
        exec (.vmaxxContribution 0) s = .next { s with msgs := [] }) ∧
      (c.unit = none → c.evicted = [] → c.vec.vmax = [] → (∀ q ∈ c.vec.queue, q.op ≠ .vmaxx) → c.vec.vmaxSeq ≤ m.seq →
        m.seq < c.vec.vmaxSeq + 4 →
        exec (.vmaxxContribution 0) s = .next (({ s with msgs := [] } : State).modCore h fun x =>
          { x with vec := { x.vec with vmaxHeld := x.vec.vmaxHeld ++ [m] } }))) ∧
    (∀ o th, c.vec.vmax = [o] → tget c.threads o.tid = some th →
      (o.at_ + 2 ^ 24 ≤ s.now →
        ∃ t, exec (.vmaxxTimeout h o.seq) s = .next t ∧ t.mem = s.mem ∧ (t.core h).vec.vmax = [] ∧
          (t.thread h o.tid).u = { th.u with vxstat := 6 }) ∧
      (s.now < o.at_ + 2 ^ 24 → exec (.vmaxxTimeout h o.seq) s = .next s)) ∧
    (∀ m, Arrives s (.bar m) m.ctx → m.dst = h → c.evicted = [] →
      (∀ i ∈ [Instr.barrierArrival 0, .barrierRelease 0], (i = .barrierRelease 0 ↔ m.release = true) → c.unit = none →
        exec i s = .next (({ s with msgs := [] } : State).modCore h fun x =>
          { x with sync := { x.sync with held := x.sync.held ++ [m] } })) ∧
      (∀ r b, c.unit = some r → r.id.ctx = m.ctx → r.id.lnum = m.lnum → b = c.sync.bar m.z → b.cfg = true →
        (b.sameRect m = false → m.release = false →
          ∃ t, exec (.barrierArrival 0) s = .next t ∧ t.msgs = [] ∧ (t.core h).sync.bar m.z = { b with mism := true }) ∧
        (b.sameRect m = true → m.release = false → hilbertXY h = (b.x0, b.y0) → b.own = true →
          (m.alongX = true ∧ (b.fromY = true ∨ b.hm1 = 0) ∨ m.alongX = false ∧ (b.fromX = true ∨ b.wm1 = 0)) →
          ∃ t, exec (.barrierArrival 0) s = .next t ∧ t.mem = s.mem ∧
            (t.core h).sync.bar m.z = { b with own := false, fromX := false, fromY := false, rgen := b.gen } ∧
            t.msgs = (if b.wm1 = 0 then [] else [b.msg r.id m.z (b.x0 + 1) b.y0 true true]) ++
              (if b.hm1 = 0 then [] else [b.msg r.id m.z b.x0 (b.y0 + 1) true false])) ∧
        (∀ x y, b.sameRect m = true → m.release = true → hilbertXY h = (x, y) → b.x0 + b.wm1 ≤ x →
          (m.alongX = true ∨ b.y0 + b.hm1 ≤ y) →
          ∃ t, exec (.barrierRelease 0) s = .next t ∧ t.mem = s.mem ∧ t.msgs = [] ∧
            (t.core h).sync.bar m.z = { b with rgen := b.gen })))

/-- R215–R219, R224–R226, R229, R230, R393: the first command of a matrix stream takes its next step: MCLR clears its tile;
a multiplication without power leave asks for it, and with leave adds the step's exact products to every element of its rows
and columns, MMAQ one addend per element at its last step, and no other element changes; MLD, MST and MRD move the next row
between register and tile, MRD after the step that reads the tile; a command that has taken its last step leaves the queue
with its flags; MCFG configures its register; an MST with a counter increments it. That all rows are read in one event, and
that N of an MMAW grows at the second step of a k, are the model's choices (log 77). -/
def Obligations.MatrixCommandsAreTaken : Prop :=
  ∀ (h : Nat) (s : State) (c : Core) (th : Thread) (q : MatCmd), Serves s h q.tid c th → c.mat.queue = [q] →
    (q.ms < 4 → q.last = false → q.prog = 0 →
      (q.op = .mclr →
        ∃ t, exec (.matrixEngineStep h q.ms) s = .next t ∧ t.mem = s.mem ∧
          tget (t.core h).mat.k q.k = some KTile.clear ∧
          (t.core h).mat.queue = [{ q with prog := 1, last := true }]) ∧
      (q.op.isMma = true → (c.engineLeave q.engine).held = false → (c.engineLeave q.engine).wanted = false →
        (s.die (dieOf h)).waiting = [] →
        ∃ t, exec (.matrixEngineStep h q.ms) s = .next t ∧ t.mem = s.mem ∧ (t.core h).mat = c.mat ∧
          (t.core h).engineLeave q.engine = { c.engineLeave q.engine with wanted := true } ∧
          (t.die (dieOf h)).waiting = [{ h := h, agent := q.engine, cmd := 0, cls := s.resClass h, order := s.nextId }]) ∧
      (q.op = .mrd → ∃ t, exec (.matrixEngineStep h q.ms) s = .next t ∧ t.mem = s.mem ∧ (t.core h).mat.k = c.mat.k ∧
        (t.core h).mat.m = c.mat.m ∧
        (t.core h).mat.queue = [{ q with prog := 1, capA := (c.readTile q).1, flags := (c.readTile q).2 }] ∧
        ∀ x f v, x = c.mat.reg q.rc → q.bankForm = false → fmtOf x.code = some f → x.rows = 1 → x.cols = 1 →
          v = ((tget ((tget c.mat.k q.k).getD KTile.clear).elems 0).getD Acc.clear).read
            ((tget c.mat.k q.k).getD KTile.clear).ovf f q.rnd x.sat →
          c.readTile q = (bytesOf (elemSize x.code) v.1, v.2))) ∧
    (q.ms < 4 → q.last = false → (c.engineLeave q.engine).held = true →
      ∀ xa xb k p old (rowA rowB : Nat → List Byte) cb, xa = c.mat.reg q.ra → xb = c.mat.reg q.rb → p = q.prog →
        k = (tget c.mat.k q.k).getD KTile.clear → old = (fun i j => (tget k.elems (32 * i + j)).getD Acc.clear) →
        xb.rows ≤ 32 → (p = 0 → q.bankForm = false) →
        (∀ i < xa.rows, rowA i = if p = 0 then xa.row i (rowBytes xa.code xa.cols)
          else (q.capA.drop (rowBytes xa.code xa.cols * i)).take (rowBytes xa.code xa.cols)) →
        (∀ j < xb.rows, rowB j = if p = 0 then xb.row j (rowBytes xb.code xb.cols)
          else (q.capB.drop (rowBytes q.codeB xb.cols * j)).take (rowBytes q.codeB xb.cols)) →
        cb = (if p = 0 then xb.code else q.codeB) →
        (q.op ∈ [MatOp.mmaw, .mmah, .mmae, .mmai, .mmas] → (q.op = .mmaw → p / 2 < xa.cols) →
          ∃ t k', exec (.matrixEngineStep h q.ms) s = .next t ∧ t.mem = s.mem ∧ tget (t.core h).mat.k q.k = some k' ∧
            k'.n = k.n + w64 (if q.op = .mmaw then p % 2 else (stepProducts q.op xa.cols p 0).length) ∧
            (∀ i < xa.rows, ∀ j < xb.rows, (tget k'.elems (32 * i + j)).getD Acc.clear =
              ((stepProducts q.op xa.cols p i).map (fun m =>
                mulExact (rowElem xa.code (rowA i) m) (rowElem cb (rowB j) m))).foldl Acc.add (old i j)) ∧
            (∀ i j, j < 32 → xa.rows ≤ i ∨ xb.rows ≤ j → tget k'.elems (32 * i + j) = tget k.elems (32 * i + j)) ∧
            (t.core h).mat.queue.map (fun z => (z.prog, z.last)) =
              [(p + 1, decide ((if q.op = .mmaw then 2 * xa.cols else if q.op = .mmah then (xa.cols + 1) / 2
                else (xa.cols + 3) / 4) ≤ p + 1))]) ∧
        (q.op = .mmaq →
          (p < 31 → ∃ t, exec (.matrixEngineStep h q.ms) s = .next t ∧ t.mem = s.mem ∧
            (tget (t.core h).mat.k q.k).getD KTile.clear = k ∧
            (t.core h).mat.queue.map (fun z => (z.prog, z.last)) = [(p + 1, false)]) ∧
          (∀ x2 (act : Nat → List Machine.Num), p = 31 → x2 = c.mat.reg (q.ra + 1) →
            (∀ i < xa.rows, act i = (List.range 128).map (rowElem xa.code (rowA i)) ++ (List.range 128).map (rowElem x2.code
              ((q.capA.drop (rowBytes xa.code xa.cols * xa.rows + rowBytes x2.code x2.cols * i)).take
                (rowBytes x2.code x2.cols)))) →
            ∃ t k', exec (.matrixEngineStep h q.ms) s = .next t ∧ t.mem = s.mem ∧
              tget (t.core h).mat.k q.k = some k' ∧ k'.n = k.n + 1 ∧
              (∀ i < xa.rows, ∀ j < xb.rows, (tget k'.elems (32 * i + j)).getD Acc.clear =
                (old i j).add (mulExact (decodeFloat .fp32 (encodeFloat (sumExact ((act i).zipIdx.map
                  (fun (y, m) => mulExact (blockValue cb (rowB j) m) y))) .fp32 .rne false).1) (superScale (rowB j)))) ∧
              (∀ i j, j < 32 → xa.rows ≤ i ∨ xb.rows ≤ j → tget k'.elems (32 * i + j) = tget k.elems (32 * i + j)) ∧
              (t.core h).mat.queue.map (fun z => (z.prog, z.last)) = [(32, true)]))) ∧
    (q.ms < 4 → q.last = false → ∀ x y n r a, x = c.mat.reg q.rc →
      (q.op = .mld → n = rowBytes x.code x.cols → r = q.prog → MatrixRow s h c q y r n a →
        ∃ t, exec (.matrixEngineStep h q.ms) s = .next t ∧ t.mem = s.mem ∧ RowTaken t h q q.prog x.rows ∧
          ((t.core h).mat.reg q.rc).row r n = s.localBytes h a n ∧
          (∀ j, j ≠ r → ((t.core h).mat.reg q.rc).row j 136 = x.row j 136) ∧
          ∀ m, m ≠ q.rc → (t.core h).mat.reg m = c.mat.reg m) ∧
      (q.op = .mst → n = rowBytes x.code x.cols → r = q.prog → MatrixRow s h c q y r n a → s.Inv →
        (0 < r → n * (r + 1) ≤ q.capA.length) →
        ∃ t, exec (.matrixEngineStep h q.ms) s = .next t ∧ RowTaken t h q q.prog x.rows ∧ (t.core h).mat.m = c.mat.m ∧
          t.localBytes h a n = (if r = 0 then x.row 0 n else (q.capA.drop (n * r)).take n) ∧
          ∀ z, (∀ i < n, z ≠ s.physAddr h (a + i)) → memGet t.mem z = memGet s.mem z) ∧
      (q.op = .mrd → 0 < q.prog → r = q.prog - 1 → r < x.rows →
        (q.bankForm = false → n = rowBytes x.code x.cols → n ≤ 136 → n * (r + 1) ≤ q.capA.length →
          ∃ t, exec (.matrixEngineStep h q.ms) s = .next t ∧ t.mem = s.mem ∧ RowTaken t h q q.prog (x.rows + 1) ∧
            ((t.core h).mat.reg q.rc).row r n = (q.capA.drop (n * r)).take n ∧ (t.core h).mat.k = c.mat.k ∧
            ∀ j, j ≠ r → ((t.core h).mat.reg q.rc).row j 136 = x.row j 136) ∧
        (q.bankForm = true → MatrixRow s h c q y r n a → n = rowBytes (c.tileCode y q.off) x.cols → s.Inv →
          n * (r + 1) ≤ q.capA.length →
          ∃ t, exec (.matrixEngineStep h q.ms) s = .next t ∧ RowTaken t h q q.prog (x.rows + 1) ∧
            t.localBytes h a n = (q.capA.drop (n * r)).take n ∧ (t.core h).mat.m = c.mat.m ∧ (t.core h).mat.k = c.mat.k ∧
            ∀ z, (∀ i < n, z ≠ s.physAddr h (a + i)) → memGet t.mem z = memGet s.mem z))) ∧
    (q.ms < 4 → q.last = true →
      (q.op ≠ .mst → q.op ≠ .mcfg →
        ∃ t, exec (.matrixCommandComplete h q.ms) s = .next t ∧ t.mem = s.mem ∧ (t.core h).mat = { c.mat with queue := [] } ∧
          t.thread h q.tid = { th with r := { th.r with fflags := th.r.fflags ||| q.flags } }) ∧
      (∀ k, q.op = .mst → q.cinc = true → k ∈ (s.die (dieOf h)).col.queues → k.2.ctx = s.ctxAt h →
        k.2.cnts.contains q.cid = true →
        ∃ t, exec (.matrixCommandComplete h q.ms) s = .next t ∧ (t.core h).mat.queue = [] ∧
          tget (t.die (dieOf h)).col.counters q.cid =
            some ((tget (s.die (dieOf h)).col.counters q.cid).getD 0 + 1))) ∧
    (∀ x, q.op = .mcfg → mconfOf q.a.toNat (c.mat.reg q.m) = some x →
      ∃ t, exec (.matrixCommandComplete h 4) s = .next t ∧ t.mem = s.mem ∧ (t.core h).mat.queue = [] ∧
        (t.core h).mat.reg q.m = x)

/-- R236–R240, R244, R245, R458, R459: a write of a started copy command of a compute core moves the bytes of at most one
8-byte unit, or the S bytes of an element, and counts them in its counter: CHL from the memory that a translation names into
the tile, visible or shadow; CLH and CSCAT from the tile to memory in HBM; CGATH an element into the tile; CBB RAW bytes
unchanged, and one plain element converted once into the format of its destination's bank; CMC RAW bytes that it captured
into the tile of a member, in whose counter they count. That the journal of a protected job is not at work is a premise of
the two that write HBM. -/
def Obligations.CopyWritesMoveBytesAndCountThem : Prop :=
  ∀ (h : Nat) (s : State) (c : Core) (q : CopyCmd) (row col : Nat), s.Inv → CopyRuns s h c q →
    row = q.next / 2 ^ 32 → col = q.next % 2 ^ 32 →
    (∀ o n a u cu bs t, q.op = .chl → o = bits q.b.toNat 8 18 + row * q.shape.dpitch + col →
      n = min (8 - o % 8) (q.shape.rowb - col) →
      s.copyRead h q ((q.a.toNat + row * q.shape.spitch + col) % 2 ^ 64) n = (u, .ok bs) → bs.length = n → u.Inv →
      cu.cpy = [q] → CopySide u h cu q.unit q.b t o n a →
      ∃ z, exec (.homePerformAccess (.copyWrite h q.id)) s = .next z ∧ z.localBytes h a n = bs ∧
        Counted z h cu q.counter n ∧ (z.core h).cpy = [{ q with next := q.advance n q.shape.rowb, page := .none }]) ∧
    (∀ o n a v u cu m t, q.op = .clh → o = bits q.a.toNat 8 18 + row * q.shape.spitch + col →
      v = ((q.b.toNat + row * q.shape.dpitch) % 2 ^ 64 + col) % 2 ^ 64 →
      n = min (8 - ((q.b.toNat + row * q.shape.dpitch) % 2 ^ 64 + col) % 8) (q.shape.rowb - col) →
      formSh h q.a = false → CopySide s h c q.unit q.a t o n a → s.copyPlace h q v .copyWrite = (u, .ok (.mem m)) →
      u.Inv → u.core h = cu → cu.cpy = [q] → cu.unit.map (·.id) = some q.unit → cu.evicted = [] →
      u.protectedJob q.unit.ctx = false → m + n ≤ 2 ^ 41 →
      ∃ z, exec (.homePerformAccess (.copyWrite h q.id)) s = .next z ∧
        (List.range n).map (fun i => memGet z.mem (m + i)) = s.localBytes h a n ∧
        (∀ x, x < m ∨ m + n ≤ x → memGet z.mem x = memGet u.mem x) ∧ Counted z h cu q.counter n ∧
        (z.core h).cpy = [{ q with next := q.advance n q.shape.rowb, page := .none }]) ∧
    (∀ oa od aa ad ta td sc dc sat n, q.op = .cbb → row = 0 → formSh h q.a = false → oa = bits q.a.toNat 8 18 →
      od = bits q.b.toNat 8 18 → sc = (tileFormat c ta oa).1 → (dc, sat) = tileFormat c td od →
      CopySide s h c q.unit q.a ta oa q.shape.rowb aa →
      (sc = 0 → dc = 0 → col < q.shape.rowb → q.shape.rowb ≤ 2 ^ 14 → n = min (8 - (od + col) % 8) (q.shape.rowb - col) →
        CopySide s h c q.unit q.b td od q.shape.rowb ad →
        ∃ z, exec (.homePerformAccess (.copyWrite h q.id)) s = .next z ∧
          z.localBytes h (ad + col) n = s.localBytes h (aa + col) n ∧ Counted z h c q.counter n ∧
          (z.core h).cpy = [{ q with next := q.advance n q.shape.rowb, page := .none }]) ∧
      (∀ f g y, fmtOf sc = some f → fmtOf dc = some g → col = 0 → q.shape.rowb = elemSize sc → n = elemSize dc →
        od % n = 0 → CopySide s h c q.unit q.b td od n ad →
        y = encodeFmt g (decodeFmt f (numOf (s.localBytes h aa (elemSize sc)))) q.rnd sat →
        ∃ z, exec (.homePerformAccess (.copyWrite h q.id)) s = .next z ∧ z.localBytes h ad n = bytesOf n y.1 ∧
          Counted z h c q.counter n ∧
          (z.core h).cpy = [{ q with next := q.advance n n, page := .none, flags := q.flags ||| y.2 }])) ∧
    (∀ m cm v oa od ad ta td aa n, q.op = .cmc → q.shape.rows = 1 → m = (members h q.b).getD row h →
      s.receiver m q.unit = some v → formSh h q.a = false → oa = bits q.a.toNat 8 18 → od = bits q.b.toNat 8 18 →
      (tileFormat c ta oa).1 = 0 → (tileFormat cm td od).1 = 0 → formSh m q.b = true → col < q.shape.rowb →
      q.cap.length = q.shape.rowb → n = min (8 - (od + col) % 8) (q.shape.rowb - col) →
      CopySide s h c q.unit q.a ta oa q.shape.rowb aa → CopySide s m cm v q.b td od q.shape.rowb ad →
      ∃ z, exec (.homePerformAccess (.copyWrite h q.id)) s = .next z ∧
        z.localBytes m (ad + col) n = (q.cap.drop col).take n ∧ Counted z m cm q.counter n ∧
        (z.core h).cpy = [{ q with next := q.advance n q.shape.rowb, page := .none }]) ∧
    (∀ i again o n a u cu bs t, q.op = .cgath → q.nextElem = some (i, again) → n = q.esize →
      o = bits q.b.toNat 8 18 + i * n → o % n = 0 → s.copyRead h q (q.elemVa i) n = (u, .ok bs) → bs.length = n → u.Inv →
      cu.cpy = [q] → CopySide u h cu q.unit q.b t o n a →
      ∃ z, exec (.homePerformAccess (.copyWrite h q.id)) s = .next z ∧ z.localBytes h a n = bs ∧
        Counted z h cu q.counter n ∧ (z.core h).cpy = [q.elemPast i again]) ∧
    ∀ i again o n a u cu m t, q.op = .cscat → q.nextElem = some (i, again) → n = q.esize →
      o = bits q.a.toNat 8 18 + i * n → formSh h q.a = false → CopySide s h c q.unit q.a t o n a →
      s.copyPlace h q (q.elemVa i) .copyWrite = (u, .ok (.mem m)) → u.Inv → u.core h = cu → cu.cpy = [q] →
      cu.unit.map (·.id) = some q.unit → cu.evicted = [] → u.protectedJob q.unit.ctx = false → m + n ≤ 2 ^ 41 →
      ∃ z, exec (.homePerformAccess (.copyWrite h q.id)) s = .next z ∧
        (List.range n).map (fun k => memGet z.mem (m + k)) = s.localBytes h a n ∧
        (∀ x, x < m ∨ m + n ≤ x → memGet z.mem x = memGet u.mem x) ∧ Counted z h cu q.counter n ∧
        (z.core h).cpy = [q.elemPast i again]

/-- R241, R243, R245, R246, R257–R264, R267, R268: the only queued copy command starts, one of more than
1 MiB asking for power leave; a command of a launch that is not cancelled leaves the queue, when it has written
everything, with its flags, DISC for a multicast and the late fault of an access fault; QLD and QSCR load direction and shift
words from the scratchpad; QPT reads a point in either order; QSEQ writes points into its stream and moves the cursor, which
QSKIP sets; a quasi-random command that fails a check raises its late cause. -/
def Obligations.CopyAndPointCommandsArePerformed : Prop :=
  ∀ (h : Nat) (s : State) (c : Core) (r : Resident),
    s.core h = c → c.unit = some r → c.evicted = [] →
    (∀ q th, c.cpy = [q] → q.unit = r.id → tget c.threads q.tid = some th →
      (q.started = false → th.halted = false → q.moved ≤ 2 ^ 20 → q.op ∈ [CopyOp.chl, .clh, .cbb] →
        exec (.copyCommandStart h q.id) s = .next (s.setCore h { c with
          cpy := [{ q with started := true, cap := [], leave := { q.leave with wanted := false, held := false } }] })) ∧
      (q.started = false → th.halted = false → 2 ^ 20 < q.moved → q.op ∈ [CopyOp.chl, .clh, .cbb] →
        (c.engineLeave 2).held = false → (s.die (dieOf h)).waiting = [] →
        ∃ t, exec (.copyCommandStart h q.id) s = .next t ∧ t.mem = s.mem ∧
          (t.core h).cpy = [{ q with started := true, cap := [], leave := { q.leave with wanted := true, held := false } }] ∧
          (t.die (dieOf h)).waiting =
            [{ h := h, agent := 2, cmd := q.id, cls := s.resClass h, order := s.nextId }]) ∧
      (q.started = true → (if q.op.indexed then q.nextElem = none else q.total h ≤ q.next) →
        ((s.launch? r.id.lnum).map (·.cancelled)).getD false = false → q.aside = [] → q.resume = [] → q.page = .none → q.leave.held = false →
        q.xpden = false → q.denied = [] → q.cref = false →
        (q.xaflt = false →
          ∃ t, exec (.copyCommandComplete h q.id) s = .next t ∧ t.mem = s.mem ∧ (t.core h).cpy = [] ∧
            t.thread h q.tid = { th with
              r := { th.r with fflags := th.r.fflags ||| q.flags }
              u := if q.op = .cmc then { th.u with disc := q.disc } else th.u }) ∧
        (q.xaflt = true → th.late.length < 4 →
          ∃ t, exec (.copyCommandComplete h q.id) s = .next t ∧ t.mem = s.mem ∧ (t.core h).cpy = [] ∧
            (t.thread h q.tid).late = th.late ++ [{ code := 0x28, ply := q.ply, addr := q.addr, unit := 7 }]))) ∧
    (∀ q rest th, c.qrn.queue = q :: rest → tget c.threads q.tid = some th → th.halted = false →
      (q.op = .qskip → q.a.toNat < 2 ^ 48 →
        ∃ t, exec (.qrnCommandPerform h) s = .next t ∧ t.mem = s.mem ∧ (t.core h).qrn = { c.qrn with queue := rest } ∧
          t.thread h q.tid = { th with u := { th.u with qcur := q.a.toNat } }) ∧
      (∀ m y, q.op = .qpt → q.b.toNat < 64 → q.a.toNat < 2 ^ 48 →
        m = (if q.gray then q.a.toNat ^^^ (q.a.toNat / 2) else q.a.toNat) →
        y = ((List.range 48).filter (fun i => m.testBit i)).foldl (fun y i => y ^^^ c.qrn.tab.vWord q.b.toNat i) 0 ^^^
          c.qrn.tab.shWord q.b.toNat →
        ∃ t, exec (.qrnCommandPerform h) s = .next t ∧ t.mem = s.mem ∧ (t.core h).qrn = { c.qrn with queue := rest } ∧
          t.thread h q.tid = { th with
            u := { th.u with qres := y, qresf := BitVec.ofNat 32 (toUnit y .fp32 q.rnd).1 }
            r := { th.r with fflags := th.r.fflags ||| (toUnit y .fp32 q.rnd).2 } }) ∧
      (∀ d n, s.qrnFault h q = none → d = q.b.toNat % 64 → n = q.b.toNat / 2 ^ 8 % 64 + 1 →
        (q.op = .qld → ∃ t, exec (.qrnCommandPerform h) s = .next t ∧ t.mem = s.mem ∧ (t.core h).qrn.queue = rest ∧
          (∀ j < n, (t.core h).qrn.tab.dim.getLsbD (d + j) = true ∧ ∀ i < 48, (t.core h).qrn.tab.vWord (d + j) i =
            BitVec.ofNat 48 (numOf (s.localBytes h (q.a.toNat + 384 * j + 8 * i) 8))) ∧
          (∀ e i, e < d ∨ d + n ≤ e → i < 48 → (t.core h).qrn.tab.vWord e i = c.qrn.tab.vWord e i) ∧
          (t.core h).qrn.tab.sh = c.qrn.tab.sh) ∧
        (q.op = .qscr → ∃ t, exec (.qrnCommandPerform h) s = .next t ∧ t.mem = s.mem ∧ (t.core h).qrn.queue = rest ∧
          (∀ j < n, (t.core h).qrn.tab.shWord (d + j) =
            BitVec.ofNat 48 (numOf (s.localBytes h (q.a.toNat + 8 * j) 8))) ∧
          (∀ e, e < d ∨ d + n ≤ e → (t.core h).qrn.tab.shWord e = c.qrn.tab.shWord e) ∧
          (t.core h).qrn.tab.v = c.qrn.tab.v)) ∧
      (∀ sd n, s.qrnFault h q = none → q.op = .qseq → isService h = false → h < 4096 → (∀ i < 128, c.phys i < 128) →
        sd = c.stream q.stream → n = q.b.toNat / 2 ^ 8 % 64 + 1 →
        (∃ t, exec (.qrnCommandPerform h) s = .next t ∧ (t.core h).qrn = { c.qrn with queue := rest } ∧
          (t.thread h q.tid).u = { th.u with qcur := th.u.qcur + q.a.toNat } ∧
          (t.core h).stream q.stream = { sd with pos := sd.pos + q.a.toNat * n }) ∧
        (∀ o y d, s.Inv → sd.nb = 1 → q.a = 1 → n = 1 →
          d = q.b.toNat % 64 → sd.position sd.pos = ((o : Nat) : Int) → y = c.qrn.tab.point d th.u.qcur q.gray →
          ∀ e ∈ [(0, y.toNat / 2 ^ 16, (0 : Flags)), (8, y.toNat / 2 ^ 17, 0), (1, toUnit y .fp32 q.rnd)],
            (c.bank sd.b0).format = e.1 →
            ∃ t, exec (.qrnCommandPerform h) s = .next t ∧ t.localBytes h (sd.b0 * 0x4000 + 4 * o) 4 = bytesOf 4 e.2.1 ∧
              (t.thread h q.tid).r.fflags = th.r.fflags ||| e.2.2)) ∧
      ((q.op = .qskip ∨ q.op = .qpt) → 2 ^ 48 ≤ q.a.toNat → th.late.length < 4 →
        ∃ t, exec (.qrnCommandPerform h) s = .next t ∧ t.mem = s.mem ∧ (t.core h).qrn = { c.qrn with queue := rest } ∧
          t.thread h q.tid = { th with
            late := th.late ++ [{ code := 0x2A, ply := q.ply, addr := q.addr, unit := 8 }] }))

/-! ## Events of the bus and of the collective engine (R353–R371, R377–R379, R387–R397) -/

/-- R349, R353–R359, R361, R362, R364–R366, R369–R372, R377, R379, R397, R447: a join is decided here where this module is
the segment's master, and otherwise by the answer to the request that goes there; the first operation of a handle, of a
thread that is not halted, asks for leave and, for rank 0, takes a lease, of its own cells, of lent ones and of the pool, or
ends with NOSLOT, or asks another module's master for it; the frame that carries a chunk reads its sum and counts the
checks that fail, and the next frame's replies accept it, which writes the agreed bytes (OBMAX) or the sum in the
destination's format (OBRED) and ends the operation, or reject it, which sends it again and the third time asks for a
calibration, or differ, which ends it with BUSERR at every member; a port or segment that carries nothing ends an
operation with BUSERR, 10^9 ns from its acceptance with TMO; a calibration and a training, which brings the port's new
entry into force, set their segment and the ports of dies that are not gated; other members join and leave and end an
operation. That a lease takes its own cells, then lent ones, then pool cells, and the lenders in the order of their numbers
(log 41), how wide a position is (log 39) and that two frames are two events (log 40) are the model's choices. -/
def Obligations.BusEventsActOnTheirSegment : Prop :=
  ∀ (h n : Nat) (s : State) (c : Core) (r : Resident) (b : Handle) (g : Seg) (sg : Nat), s.Inv → OneHandle s h n c r b →
    sg = (s.port b.port).seg → tget s.segs sg = some g →
    (b.asking = false → exec (.groupJoinCheck h n) s = .next s) ∧
    (∀ th p, b.st = 1 → b.asking = true → tget c.threads b.jtid = some th → p = (s.ctx r.id.ctx).part →
      (b.masters = none → s.masters sg = true →
        (tget g.groups b.gid = none → b.rank ≤ b.nm1 → g.groups.length < 256 →
          ∃ t, exec (.groupJoinCheck h n) s = .next t ∧ t.mem = s.mem ∧
            tget (t.seg sg).groups b.gid = some { part := p, n := b.nm1 + 1, ranks := [b.rank] } ∧
            t.mp.sent = s.mp.sent ++ [.joined sg b.gid b.rank p (b.nm1 + 1)] ∧
            (t.core h).bus = [(n, { b with asking := false, st := if b.nm1 = 0 then 2 else 1 })] ∧
            (t.thread h b.jtid).u = { th.u with bstat := 0 }) ∧
        (∀ x, tget g.groups b.gid = some x →
          (x.part ≠ p → ∃ t, exec (.groupJoinCheck h n) s = .next t ∧ t.mem = s.mem ∧ t.segs = s.segs ∧
            (t.core h).bus = [] ∧ (t.thread h b.jtid).u = { th.u with bstat := 9 }) ∧
          (x.part = p → x.n = b.nm1 + 1 → b.rank ≤ b.nm1 → b.rank ∈ x.ranks →
            ∃ t, exec (.groupJoinCheck h n) s = .next t ∧ t.mem = s.mem ∧ t.segs = s.segs ∧ (t.core h).bus = [] ∧
              (t.thread h b.jtid).u = { th.u with bstat := 7 }) ∧
          (x.part = p → x.n = b.nm1 + 1 → b.rank ≤ b.nm1 → b.rank ∉ x.ranks →
            ∃ t, exec (.groupJoinCheck h n) s = .next t ∧ t.mem = s.mem ∧
              tget (t.seg sg).groups b.gid = some { x with ranks := x.ranks ++ [b.rank] } ∧
              (t.core h).bus = [(n, { b with asking := false, st := if x.n ≤ x.ranks.length + 1 then 2 else 1 })] ∧
              (t.thread h b.jtid).u = { th.u with bstat := 0 }))) ∧
      (b.masters = none → s.masters sg = false →
        ∃ t, exec (.groupJoinCheck h n) s = .next t ∧ t.mem = s.mem ∧ t.segs = s.segs ∧
          t.mp.sent = s.mp.sent ++ [.joinRequest sg b.gid b.rank p (b.nm1 + 1)] ∧
          (t.core h).bus = [(n, { b with masters := some [sg] })]) ∧
      (b.masters = some [sg] → s.masters sg = false → ∀ st,
        (st % 16 = 0 → tget g.groups b.gid = none →
          ∃ t, exec (.managementNetworkMessage (.joinResult sg b.gid b.rank st)) s = .next t ∧ t.mem = s.mem ∧
            tget (t.seg sg).groups b.gid = some { part := p, n := b.nm1 + 1, ranks := [b.rank] } ∧
            (t.core h).bus = [(n, { b with asking := false, masters := none, st := if b.nm1 = 0 then 2 else 1 })] ∧
            (t.thread h b.jtid).u = { th.u with bstat := 0 }) ∧
        (st % 16 ≠ 0 →
          ∃ t, exec (.managementNetworkMessage (.joinResult sg b.gid b.rank st)) s = .next t ∧ t.mem = s.mem ∧
            t.segs = s.segs ∧ (t.core h).bus = [] ∧ (t.thread h b.jtid).u = { th.u with bstat := st % 16 }))) ∧
    (∀ o os th, b.ops = o :: os → b.st = 2 → b.asking = false → tget c.threads o.tid = some th →
      (s.busDown b = true → ∀ rx, BusEnds (exec (.leaseRequest h n 0 0) s) h n b o th 15 ∧
        BusEnds (exec (.busFrame h n rx) s) h n b o th 15) ∧
      (s.busDown b = false → o.started = false → th.halted = true → ∀ lent pool rx,
        exec (.leaseRequest h n lent pool) s = .next s ∧ exec (.busFrame h n rx) s = .next s) ∧
      (∀ lent pool, s.busDown b = false → o.started = false → th.halted = false → s.groupWhole b = true →
        (o.leave.wanted = false → ∃ t w, exec (.leaseRequest h n lent pool) s = .next t ∧ t.mem = s.mem ∧
          (t.core h).bus = [(n, { b with ops := { o with leave := { o.leave with wanted := true } } :: os })] ∧
          ((s.die (dieOf h)).waiting = [] → (t.die (dieOf h)).waiting = [w] ∧ w.h = h ∧ w.agent = 3)) ∧
        (o.leave.wanted = true → o.leave.held = true → b.rank = 0 → o.lease = Lease.none → o.rails = [] → os = [] →
          (∀ own room fromLent fromPool p, s.masters sg = true → g.far = [] → g.quar = [] → (∀ q ∈ s.parts, q.1 < 32) →
            p = (s.ctx o.unit.ctx).part → o.unit = r.id → p < 32 → (s.part p).out = false →
            own = min o.asks (s.freeCells sg o.unit.ctx) → room = s.openCells sg - own →
            fromLent = min (min (o.asks - own) room) (min lent (s.lentCells sg p)) →
            fromPool = min (min (o.asks - own) room - fromLent) (min pool (s.poolCells sg)) →
            (own + fromLent + fromPool = 0 → BusEnds (exec (.leaseRequest h n lent pool) s) h n b o th 13) ∧
            (0 < own + fromLent + fromPool → ∃ t l, exec (.leaseRequest h n lent pool) s = .next t ∧ t.mem = s.mem ∧
              (t.core h).bus = [(n, { b with ops := [{ o with lease := l }] })] ∧
              l.own = own ∧ l.lentSum = fromLent ∧ l.pool = fromPool ∧ l.given = 0 ∧
              (∀ q k, tget l.lent q = some k → tget (s.allLenders sg p) q ≠ none) ∧
              (t.thread h o.tid).u = { th.u with bshort := decide (own + fromLent + fromPool < o.asks) } ∧
              t.mp.sent = s.mp.sent ++ [.leaseGrant sg b.gid own fromLent fromPool])) ∧
          (∀ p, s.masters sg = false → o.asked = [] → p = (s.ctx o.unit.ctx).part →
            ∃ t, exec (.leaseRequest h n lent pool) s = .next t ∧ t.mem = s.mem ∧
              (t.core h).bus = [(n, { b with ops := [{ o with asked := [sg] }] })] ∧
              t.mp.sent = s.mp.sent ++ [.leaseRequest sg b.gid p (s.part p).weight o.asks]))) ∧
      (∀ own lent pool, s.masters sg = false → b.rank = 0 → o.asked = [sg] → o.started = false → o.lease = Lease.none →
        o.rails = [] →
        ∃ t l, exec (.managementNetworkMessage (.leaseGrant sg b.gid own lent pool)) s = .next t ∧ t.mem = s.mem ∧
          (t.core h).bus = [(n, { b with ops := { o with lease := l } :: os })] ∧
          l.own = own ∧ l.lentSum = lent ∧ l.pool = pool ∧
          (t.thread h o.tid).u = { th.u with bshort := decide (own + lent + pool < o.asks) }) ∧
      (o.started = false → BusEnds (exec (.managementNetworkMessage (.noSlot sg b.gid)) s) h n b o th 13) ∧
      BusEnds (exec (.managementNetworkMessage (.abort sg b.gid)) s) h n b o th 14 ∧
      BusEnds (exec (.managementNetworkMessage (.busErr sg b.gid)) s) h n b o th 15 ∧
      (∀ x, s.busDown b = false → s.frameOpen { h := h, u := r.id, n := n } b o = true → o.total = 1 → o.accepted = [] →
        (x.differ = true → BusEnds (exec (.busFrame h n [x]) s) h n b o th 15) ∧
        (∀ o' xst v m, x.differ = false → o.awaiting = [] → o.next = 0 ∧ o.rejected = [] ∨ o.next = 1 ∧ o.rejected = [(0, m)] →
          o' = (if o.started then o else s.busRead h o) → s.receiveOne b o' 0 x.passes = ([xst], v) →
          (∃ t, exec (.busFrame h n [x]) s = .next t ∧ t.mem = s.mem ∧
            (t.core h).bus = [(n, { b with ops := { o' with
              next := 1
              awaiting := [{
                chunk := 0, value := v
                stages := [{
                  port := b.port, members := b.nm1 + 1, first := 0, passes := xst.rx.length, ok := xst.ok }] }] } :: os })] ∧
            t.port b.port = ({ s.port b.port with lit := [], replied := [] } : Port).sees (o.slots false) 0 xst) ∧
          (∀ (cn : Counts) p, x.passes = [cn] → b.nm1 + 1 ≤ g.wlim → o.max = false → p = Nat.max o.planes 8 →
            ∀ w < 31, v.getD w 0 = (((List.range (p - 1)).map (fun k => cn.at_ (1 + k) w * 2 ^ k)).sum : Int) -
              (cn.at_ p w * 2 ^ (p - 1) : Int))) ∧
        (∀ k st, x.differ = false → o.started = true → o.next = 1 → o.awaiting = [k] → k.chunk = 0 → k.stages = [st] →
          st.port = b.port → st.members = b.nm1 + 1 →
          (replyAccepts x.reply (b.nm1 + 1) = true → st.ok = true → (o.rejected = [] ∨ ∃ m, o.rejected = [(0, m)]) →
            ∃ t, exec (.busFrame h n [x]) s = .next t ∧ (t.core h).bus = [(n, { b with ops := os })] ∧
              (t.thread h o.tid).u.bstat = 0 ∧
              ∀ tile a, tget c.tiles o.dent = some tile → tile.nosh = false → tile.freeing = false → o.unit = r.id →
                o.counter = none → isService h = false → h < 4096 → (∀ i < 128, c.phys i < 128) →
                a = tile.sbank * 0x4000 + o.doff → o.doff + (if o.max then o.ne else 4) ≤ tile.nb * 0x4000 →
                tile.sbank + tile.nb ≤ 128 →
                (o.max = true → o.doff % 0x4000 + o.ne ≤ 0x4000 →
                  ∀ w < o.ne, (t.localBytes h (a + w) 1).map (·.toNat) = [((k.value.getD w 0) % 256).toNat]) ∧
                (∀ e, o.max = false → o.ne = 1 → (c.bank (tile.vbank + o.doff / 0x4000)).format = 1 → o.doff % 4 = 0 →
                  e = o.exps.getD 0 127 →
                  numOf (t.localBytes h a 4) = (encodeFloat (if e = 0xFF then .nan false else
                    .exact (decide (k.value.getD 0 0 < 0)) (k.value.getD 0 0).natAbs ((e : Int) - 127)) .fp32 o.rnd
                    (c.bank (tile.vbank + o.doff / 0x4000)).sat).1)) ∧
          (replyAccepts x.reply (b.nm1 + 1) = true → st.ok = false → BusEnds (exec (.busFrame h n [x]) s) h n b o th 15) ∧
          (replyAccepts x.reply (b.nm1 + 1) = false →
            (o.rejected = [] → ∃ t, exec (.busFrame h n [x]) s = .next t ∧ t.mem = s.mem ∧
              (t.core h).bus = [(n, { b with ops := { o with awaiting := [], rejected := [(0, 1)] } :: os })] ∧
              t.seg sg = g) ∧
            (o.rejected = [(0, 2)] → ∃ t, exec (.busFrame h n [x]) s = .next t ∧ t.mem = s.mem ∧
              (t.core h).bus = [(n, { b with ops := { o with awaiting := [], rejected := [(0, 0)] } :: os })] ∧
              t.seg sg = { g with recal := true })))) ∧
      (o.since + 1600000000 ≤ s.now → BusEnds (exec (.busOpTimeout h n) s) h n b o th 6) ∧
      (s.now < o.since + 1600000000 → os = [] → exec (.busOpTimeout h n) s = .next s)) ∧
    (∀ wlim excluded, ∃ t, exec (.calibration sg wlim excluded) s = .next t ∧ t.mem = s.mem ∧ t.cores = s.cores ∧
      t.seg sg = { g with
        wlim := if g.recal then min (min wlim 15) (max 1 (g.wlim / 2)) else min wlim 15
        calWlim := min wlim 15, down := decide (wlim = 0), cal := false, recal := false } ∧
      ∀ p q, tget s.ports p = some q → q.seg = sg → q.en = true → (s.die (p / 4)).gated = false →
        (t.port p).excluded = excluded.contains p) ∧
    (∀ p q e rate lim w, tget s.ports p = some q → e = q.enter → e.en = true → (s.die (p / 4)).gated = false →
      lim = min rate (if e.asked = 0 then 32 else if e.asked = 1 then 24 else 16) →
      w = (if 32 ≤ lim then 32 else if 24 ≤ lim then 24 else 16) →
      (∃ t, exec (.portTrainingDone p rate false) s = .next t ∧ t.mem = s.mem ∧ t.port p = { e with excluded := true } ∧
        t.mp.reports = s.mp.reports ++ [.portExcluded p]) ∧
      (s.parts = [] → e.seg = sg → g.far = [] →
        ∃ t, exec (.portTrainingDone p rate true) s = .next t ∧ t.mem = s.mem ∧
          t.port p = { e with rate := w, excluded := false } ∧
          t.seg sg = { g with rate := min w g.others, cal := true }) ∧
      (s.parts = [] → tget s.segs e.seg = none →
        ∃ t, exec (.portTrainingDone p rate true) s = .next t ∧ t.mem = s.mem ∧
          t.port p = { e with rate := w, excluded := false } ∧
          t.seg e.seg = { Seg.fresh e.seg with rate := w, cal := true })) ∧
    (∀ gid rank part m, b.st = 2 → s.groupEnt gid = none → tget g.groups gid = none → rank < m → g.groups.length < 256 →
      ∃ t, exec (.managementNetworkMessage (.joined sg gid rank part m)) s = .next t ∧ t.cores = s.cores ∧
        t.seg sg = { g with groups := tput g.groups gid { part := part, n := m, ranks := [rank] } }) ∧
    (∀ gid rank part m, s.groupEnt gid = none → g.groups = [(gid, { part := part, n := m, ranks := [rank] })] →
      ∃ t, exec (.managementNetworkMessage (.left sg gid rank)) s = .next t ∧ t.cores = s.cores ∧
        t.seg sg = { g with groups := [] })

/-- R387–R397: the step of a BARRIER, which the credits of its next hops let start, ends it at a member
that is alone, and at a leaf sends its part up; an engine without leave for the VF asks for it; the part of its only child
lets the root send the result down and end; the part of an ALLRED is combined exactly with the root's own, sent down and
delivered; the result that comes down delivers to a leaf all the elements of an ALLRED, its block of a REDSCAT, and the
bytes of an ALLGATH or BCAST, into the destination tile; a FWD packet goes on to its next node; an ABT ends the collective
with ABORT; a collective that has waited COLTMO ends with TMO. -/
def Obligations.CollectiveEventsCombineAndDeliver : Prop :=
  ∀ (die q : Nat) (s : State) (k : ColQ) (o : ColOp), s.Inv → OneCollective s die q k o →
    (∀ leave, FreshBarrier o → (s.die die).col.cur = none → k.vf < 512 → 1 ≤ (s.vfOf k.vf).weight →
      k.hops.all (s.credit die k) = true → leave = (s.die die).col.vfLeave k.vf →
      (leave.held = true → k.children = [] → k.root = true →
        CollectiveEnds (exec (.collectiveChunkStep die) s) die q k o 0 (fun m => m = s.msgs)) ∧
      (leave.held = true → k.children = [] → k.root = false → k.comm < 2 ^ 16 → k.parent < 2 ^ 13 →
        ∃ t n pk, exec (.collectiveChunkStep die) s = .next t ∧ t.mem = s.mem ∧
          t.msgs = s.msgs ++ [.col (s.nodeId die) n pk] ∧
          Pk.comm pk = k.comm ∧ Pk.seq pk = o.seq % 256 ∧ Pk.op pk = 4 ∧ Pk.chunk pk = 0 ∧
          (k.parent / 16 = s.mp.modnum → n = k.parent ∧ Pk.hop pk = 2 ∧ Pk.node pk = k.parent) ∧
          (t.die die).col.queues = [(q, { k with ops := [{ o with sent := [0], started := s.now }] })]) ∧
      (leave.held = false → leave.wanted = false →
        ∃ t, exec (.collectiveChunkStep die) s = .next t ∧ t.mem = s.mem ∧ ((t.die die).col.vfLeave k.vf).wanted = true ∧
          (t.die die).col.queues = (s.die die).col.queues ∧
          ((s.die die).waiting = [] → ∃ w, (t.die die).waiting = [w] ∧ w.agent = 5 ∧ w.cmd = k.vf))) ∧
    (∀ node p, Pk.hop p = 1 → s.msgs = [.col node (s.nodeId die) p] →
      exec (.collectivePacketReceive die p) s = .next { s with msgs := [.col (s.nodeId die) (Pk.node p) (Pk.pop p)] }) ∧
    (∀ node p, Pk.hop p ≠ 1 → Pk.comm p = k.comm → Pk.seq p = o.seq % 256 → s.msgs = [.col node (s.nodeId die) p] →
      (∀ child x, Pk.hop p = 2 → Pk.op p = Cd.op o.desc → Pk.chunk p = 0 → k.root = true → k.children = [child] →
        child < 2 ^ 13 → o.written = [] → o.pages = [] → o.partials = [x] → x.chunk = 0 → x.own = true → x.final = false →
        (Cd.op o.desc = 4 → Cd.ne o.desc = 1 →
          CollectiveEnds (exec (.collectivePacketReceive die p) s) die q k o 0
            (fun m => ∃ n pk, m = [.col (s.nodeId die) n pk] ∧ (child / 16 = s.mp.modnum → n = child ∧ Pk.hop pk = 3))) ∧
        (∀ h c tile a vs, Cd.op o.desc = 0 → Cd.sfmt o.desc ∈ [6, 7, 8] → Cd.ne o.desc ≤ 1024 →
          p.payload.length = Cd.ne o.desc → x.sums.length = Cd.ne o.desc →
          vs = x.sums.zipWith (fun y z => if Cd.fn o.desc = 0 then y + z else max y z) p.payload →
          CollectiveTile s o h c tile 1 (4 * Cd.ne o.desc) a →
          CollectiveEnds (exec (.collectivePacketReceive die p) s) die q k o 0
            (fun m => ∃ n pk, m = [.col (s.nodeId die) n pk] ∧ pk.payload = vs ∧
              (child / 16 = s.mp.modnum → n = child ∧ Pk.hop pk = 3)) ∧
          ∃ t, exec (.collectivePacketReceive die p) s = .next t ∧
            HoldsEncoded t h a (Cd.rnd o.desc) (c.bank (tile.vbank + formOff h (Cd.dst o.desc) / 0x4000)).sat vs)) ∧
      (∀ h c tile a, k.root = false → k.children = [] → Pk.op p = Cd.op o.desc → Pk.chunk p = 0 → o.written = [] →
        o.pages = [] →
        (∀ vs, Cd.op o.desc ≤ 1 → Pk.hop p = (if Cd.op o.desc = 0 then 3 else 4) → Cd.sfmt o.desc ∈ [6, 7, 8] →
          Cd.ne o.desc ≤ 1024 → p.payload.length = Cd.ne o.desc → 1 ≤ k.members →
          vs = (if Cd.op o.desc = 0 then p.payload
            else
              let b := (Cd.ne o.desc + k.members - 1) / k.members
              (p.payload.drop (k.rank * b)).take b) →
          (vs = [] → CollectiveEnds (exec (.collectivePacketReceive die p) s) die q k o 0 (fun m => m = [])) ∧
          (CollectiveTile s o h c tile 1 (4 * vs.length) a →
            CollectiveEnds (exec (.collectivePacketReceive die p) s) die q k o 0 (fun m => m = []) ∧
            ∃ t, exec (.collectivePacketReceive die p) s = .next t ∧
              HoldsEncoded t h a (Cd.rnd o.desc) (c.bank (tile.vbank + formOff h (Cd.dst o.desc) / 0x4000)).sat vs)) ∧
        (∀ n, Cd.op o.desc = 2 ∨ Cd.op o.desc = 3 → Pk.hop p = 3 → Cd.sfmt o.desc = 6 →
          n = (if Cd.op o.desc = 2 then k.members * Cd.ne o.desc else Cd.ne o.desc) → 1 ≤ n → n ≤ 1024 → p.raw.length = n →
          CollectiveTile s o h c tile 6 n a →
          CollectiveEnds (exec (.collectivePacketReceive die p) s) die q k o 0 (fun m => m = []) ∧
          ∃ t, exec (.collectivePacketReceive die p) s = .next t ∧ t.localBytes h a n = p.raw)) ∧
      (Pk.hop p = 5 → k.root = true → k.children = [] →
        CollectiveEnds (exec (.collectivePacketReceive die p) s) die q k o 14 (fun m => m = []))) ∧
    (o.started + k.tmo * 1600 ≤ s.now → k.root = true → k.children = [] →
      CollectiveEnds (exec (.collectiveTimeout die q o.seq) s) die q k o 6 (fun m => m = s.msgs)) ∧
    (s.now < o.started + k.tmo * 1600 → exec (.collectiveTimeout die q o.seq) s = .next s)

/-! ## The host link (R428, R437–R442, R449) -/

/-- R428, R438–R442, R449: a BAR2 access goes through the stage 2 of the bound context or fails with ERR, a failing
read completing as an Unsupported Request and one of poisoned bytes as poisoned; JOBGO starts the job or shows why it
does not, behind a GO that waits for a page; HMSG stores the message, adds one and sets MSG, or fails with ERR, and one
whose store is done adds alone when its page request is answered; one behind a message that waits waits too; writes of
JOBIMG, JOBARG, MBOXGPA and INTSTAT write them; a reset clears the registers of a function, and ends when nothing that it
began still runs; BOOT checks the firmware's signature and version and leaves the state after reset, or recovery with the
code of the step that failed, with the memory outside the module as it was; in recovery the functions do nothing. That
GOs and messages wait in order and what they hold while they wait (log 55), the order of the steps of a reset (log 56),
how an HMSG is told from one that has been stored (log 57), the checks of BOOT as functions of the image (log 45) and the
assignment that the ports keep over it (log 60) are the model's choices, and so are the values of State.reset that no rule
gives (log 1). -/
def Obligations.TheHostDrivesItsFunctions : Prop :=
  ∀ (vf : Nat) (s : State) (x : Vf), x = s.vfOf vf →
    (s.mp.boot ≠ 0 → s.mp.boot ≠ 0xF0 → ∀ off size st v, ∀ i ∈ ([.hostBar2Access vf off size st, .jobgoWrite vf, .hmsgWrite vf v,
      .bar0RegisterWrite vf off v] : List Instr), exec i s = .next s) ∧
    (s.mp.boot = 0 ∨ s.mp.boot = 0xF0 →
      (∀ off size, x.bound = none →
        (∃ t, exec (.hostBar2Access vf off size none) s = .next t ∧ t.mem = s.mem ∧ SetsErr s t vf ∧
          t.mp.hostReads = s.mp.hostReads ++ [.unsupported]) ∧
        ∀ v, ∃ t, exec (.hostBar2Access vf off size (some v)) s = .next t ∧ t.mem = s.mem ∧ SetsErr s t vf ∧
          t.mp.hostReads = s.mp.hostReads) ∧
      (∀ c off u ls, x.bound = some c → off + 8 ≤ 2 ^ 36 →
        (s.guest c off 8 .load = (u, .ok ls) →
          exec (.hostBar2Access vf off 8 none) s = .next (
            if u.guestPoisoned ls then { u with mp := { u.mp with hostReads := u.mp.hostReads ++ [.poisoned] } }
            else { u with mp := { u.mp with
              hostReads := u.mp.hostReads ++ [.data (BitVec.ofNat 64 (numOf (u.guestView ls)))] } })) ∧
        (∀ v a, s.guest c off 8 .store = (u, .ok [(.mem a, 0, 8)]) → u.Inv → a + 8 ≤ 2 ^ 41 →
          u.protectedJob outside = false →
          ∃ t, exec (.hostBar2Access vf off 8 (some v)) s = .next t ∧ memRead t.mem a 8 = v.toNat ∧
            ∀ b, b < a ∨ a + 8 ≤ b → memGet t.mem b = memGet u.mem b)) ∧
      (x.resetting = none → x.gos = [] →
        (x.bound = none → ∃ t, exec (.jobgoWrite vf) s = .next t ∧ t.mem = s.mem ∧
          t.vfOf vf = { x with jobstat := 3, goWait := .none }) ∧
        (∀ c y, x.bound = some c → tget s.ctxs c = some y →
          (y.st ≠ .live → ∃ t, exec (.jobgoWrite vf) s = .next t ∧ t.mem = s.mem ∧
            t.vfOf vf = { x with jobstat := 3, goWait := .none }) ∧
          (y.st = .live → y.job.isSome = true → ∃ t, exec (.jobgoWrite vf) s = .next t ∧ t.mem = s.mem ∧
            t.vfOf vf = { x with jobstat := 7, goWait := .none }) ∧
          (∀ p u img, y.st = .live → y.job = none → x.goWait = .none →
            p = s.modVf vf (fun z => { z with gos := [(x.jobimg, x.jobarg)] }) →
            p.beginJob c 0 0 x.jobimg x.jobarg (some vf) = (u, .ok img) →
            ∃ t, exec (.jobgoWrite vf) s = .next t ∧ t.mem = u.mem ∧ t.launches = u.launches ∧
              t.vfOf vf = { u.vfOf vf with
                gos := (u.vfOf vf).gos.drop 1, jobstat := 0, run := true, goWait := .none }))) ∧
      (∀ c y e es, x.resetting = none → x.gos = e :: es → x.bound = some c → tget s.ctxs c = some y → y.st = .live →
        y.job = none → x.goWait ≠ .replied true → s.pageClear x.goWait = false →
        exec (.jobgoWrite vf) s = .next (s.modVf vf fun z => { z with gos := e :: es ++ [(x.jobimg, x.jobarg)] })) ∧
      (x.msgs = [] →
        (∀ v, x.bound = none → ∃ t, exec (.hmsgWrite vf v) s = .next t ∧ t.mem = s.mem ∧ SetsErr s t vf ∧
          (t.vfOf vf).hmsg = v ∧ (t.vfOf vf).msgs = []) ∧
        (∀ v c p u u1 w a b, x.bound = some c → x.msgWait = .none → x.msgStored = false →
          p = s.modVf vf (fun y => { y with hmsg := v, msgs := [v] }) →
          p.guest c x.mboxgpa.toNat 8 .copyWrite = (u, .ok [(.mem a, 0, 8)]) →
          u1 = (u.storeLoc outside (.mem a) (bytesOf 8 v.toNat)).modVf vf (fun y => { y with msgStored := true }) →
          u1.guest c (x.mboxgpa.toNat + 8) 8 .atomic = (w, .ok [(.mem b, 0, 8)]) → u.Inv → w.Inv →
          u.protectedJob outside = false → w.protectedJob outside = false → w.mem = u1.mem → w.vfOf vf = u1.vfOf vf →
          a + 8 ≤ 2 ^ 41 → b + 8 ≤ 2 ^ 41 → a + 8 ≤ b ∨ b + 8 ≤ a → w.guestPoisoned [(.mem b, 0, 8)] = false →
          ∃ t, exec (.hmsgWrite vf v) s = .next t ∧ memRead t.mem a 8 = v.toNat ∧
            memRead t.mem b 8 = (memRead w.mem b 8 + 1) % 2 ^ 64 ∧ (t.vfOf vf).intstat.getLsbD 1 = true ∧
            (t.vfOf vf).msgs = (u.vfOf vf).msgs.drop 1 ∧ (t.vfOf vf).msgStored = false)) ∧
      (∀ v c m ms, x.msgs = m :: ms → x.bound = some c → x.msgWait ≠ .replied true → s.pageClear x.msgWait = false →
        exec (.hmsgWrite vf v) s = .next (s.modVf vf fun z => { z with hmsg := v, msgs := m :: ms ++ [v] })) ∧
      (∀ v c w b, x.bound = some c → x.msgs = [v] → x.msgWait ≠ .replied true → s.pageClear x.msgWait = true →
        x.msgStored = true → s.guest c (x.mboxgpa.toNat + 8) 8 .atomic = (w, .ok [(.mem b, 0, 8)]) → w.Inv →
        w.protectedJob outside = false → w.vfOf vf = x → b + 8 ≤ 2 ^ 41 → w.guestPoisoned [(.mem b, 0, 8)] = false →
        ∃ t, exec (.walkRestart (.message vf)) s = .next t ∧ memRead t.mem b 8 = (memRead w.mem b 8 + 1) % 2 ^ 64 ∧
          (∀ q, q < b ∨ b + 8 ≤ q → memGet t.mem q = memGet w.mem q) ∧ (t.vfOf vf).intstat.getLsbD 1 = true ∧
          (t.vfOf vf).msgs = [] ∧ (t.vfOf vf).msgStored = false) ∧
      (∀ v, ∀ e ∈ ([(0x008, { x with jobimg := v }), (0x010, { x with jobarg := v }),
          (0x038, { x with mboxgpa := v &&& 0x0000FFFFFFFFFFF0#64 }),
          (0x040, { x with intstat := x.intstat &&& ~~~(v.setWidth 3) }), (0x020, x), (0x048, x)] : List (Nat × Vf)),
        ∃ t, exec (.bar0RegisterWrite vf e.1 v) s = .next t ∧ t.vfOf vf = e.2 ∧ t.mem = s.mem)) ∧
    (512 ≤ vf ∨ x.resetting.isSome = true → exec (.functionLevelReset vf) s = .next s) ∧
    (vf < 512 → x.resetting = none → x.bound = none → Idle s →
      ∃ t, exec (.functionLevelReset vf) s = .next t ∧ t.mem = s.mem ∧
        t.vfOf vf = { Vf.reset with part := x.part, weight := x.weight, masks := x.masks, resetting := some [] } ∧
        ∀ v, v ≠ vf → t.vfOf v = s.vfOf v) ∧
    (Idle s → (∀ v, (s.vfOf v).bound = none ∧ (s.vfOf v).resetting = none) →
      ∃ t, exec .vfEnableClear s = .next t ∧ t.mem = s.mem ∧ ∀ v < 512, t.vfOf v = { Vf.reset with
        part := (s.vfOf v).part, weight := (s.vfOf v).weight, masks := (s.vfOf v).masks, resetting := some [] }) ∧
    (∀ cs, x.resetting = some cs →
      (s.resetOver cs = false → exec (.vfResetEnd vf) s = .next s) ∧
      (s.resetOver cs = true → s.mp.job = none → ∃ t, exec (.vfResetEnd vf) s = .next t ∧ t.mem = s.mem ∧
        t.vfOf vf = { x with resetting := none } ∧ t.mp.reports = s.mp.reports ++ [.reset vf])) ∧
    (∀ (b : BootImage) code,
      code = (if digestNum (sha256 b.key) ≠ Config.fusedKeyDigest ∨
          Config.slhDsaVerifies b.key b.signature b.firmware = false then 1
        else if b.version < Config.fusedVersion then 2 else b.failing) →
      exec (.boot b) s = .next { State.reset with
        mem := outsideMem s.mem, ports := tmap s.ports (fun _ => Port.boot)
        mp := { Mp.reset with
          boot := code, measured := if code = 1 ∨ code = 2 ∨ code = 3 then none else some (bootMeasured b) }
        agenda := s.agenda, defer := s.defer, picks := s.picks, steps := s.steps, nextId := s.nextId }) ∧
    (∀ a, s.Inv → memGet (outsideMem s.mem) a =
      match homeOf a with
      | .host | .far _ => memGet s.mem a
      | _ => 0)

/-! ## The management processor (R293, R424, R435, R443–R451, R454) -/

/-- R443, R444: a command of a module in recovery has no effect, one that comes while another is under way or waits
waits behind it with STATUS 0xFF, a stale EGEN answers STALE before any other check, and an OP that is not listed answers
BADARG. That STALE comes before BADARG is the model's choice (log 23), and so is the event form of a command that waits
(log 53). -/
def Obligations.ManagementCommandsAreAcceptedInOrder : Prop :=
  ∀ (slot : Fin 16) (cmd : BitVec 512) (s : State),
    (s.mp.boot ≠ 0 → s.mp.boot ≠ 0xF0 → (∀ e ∈ commandForms slot cmd, exec e.1 s = .next s) ∧ exec (.summary slot cmd) s = .next s ∧
      exec (.vfreset slot cmd) s = .next s) ∧
    (Booted s →
      (∀ w, s.mp.job.isSome = true ∨ (s.mp.queue ≠ [] ∧ s.mp.serving = false) → w = putBytes cmd 0 1 0x10 →
        (∀ e ∈ (.summary slot cmd, .summary slot cmd) :: commandForms slot cmd,
          exec e.1 s = .next { s with mp := { s.mp with
            queue := s.mp.queue ++ [e.2], slots := tput s.mp.slots slot.val (putBytes cmd 1 1 0xFF) } }) ∧
        exec (.vfreset slot cmd) s = .next { s with mp := { s.mp with
          queue := s.mp.queue ++ [.vfreset slot w], slots := tput s.mp.slots slot.val (putBytes w 1 1 0xFF) } }) ∧
      (FirstInOrder s → mc cmd 4 4 ≠ s.mp.gen.toNat →
        ∀ e ∈ commandForms slot cmd, Responds (exec e.1 s) slot cmd 0x0E false s) ∧
      (FirstInOrder s → mc cmd 4 4 = s.mp.gen.toNat → Responds (exec (.mcmdReservedOp slot cmd) s) slot cmd 2 false s))

/-- R22, R293, R297, R417, R443–R446: MODNUM numbers an empty module; PCREATE makes a partition with a live root,
or answers NORES where all 48 exist, INUSE where the number is taken, OVERLAP where an interval, region or extent is, and
HOSTERR where its block ends beyond the host's memory; PDESTROY deletes the root and completes later; PREPARE, COMMIT and ABORT change a
layout in two phases; VFASSIGN gives a function to a partition; VFRESET begins a reset and completes later; SLICE makes two
partitions of one interval partners. The order of their checks (log 23), which partitions an interval is compared with
(log 64), which pages overlap (log 65), and that COMMIT waits while a partition that has come back holds cores that the layout
gives away (log 66) are the model's choices; so is that a slice time begins at least 4,096 cycles ahead (log 67). -/
def Obligations.PartitionCommandsAct : Prop :=
  ∀ (slot : Fin 16) (cmd : BitVec 512) (s : State),
    (∀ m, Commanded s cmd [(8, 2)] → m = mc cmd 8 2 →
      (432 ≤ m → Responds (exec (.modnum slot cmd) s) slot cmd 2 false s) ∧
      (m < 432 → s.parts = [] → Responds (exec (.modnum slot cmd) s) slot cmd 0 true { s with mp := { s.mp with
        modnum := m
        present := (s.mp.present &&& ~~~(BitVec.ofNat 448 (2 ^ s.mp.modnum))) ||| BitVec.ofNat 448 (2 ^ m) } }) ∧
      (m < 432 → s.parts ≠ [] → Responds (exec (.modnum slot cmd) s) slot cmd 7 false s)) ∧
    (∀ p base n pdet a b c u, Commanded s cmd [(8, 1), (0x0A, 2), (0x0C, 2), (0x0E, 1), (0x10, 8)] → p = mc cmd 8 1 →
      base = mc cmd 0x0A 2 → n = mc cmd 0x0C 2 → pdet = mc cmd 0x0E 1 → a = mc cmd 0x10 8 → b = s.pblock a →
      (n < 16 → Responds (exec (.pcreate slot cmd) s) slot cmd 2 false s) ∧
      (p < 48 → 16 ≤ n → base + n ≤ 4096 → pdet < 4 → a % 64 = 0 →
        (2 ^ 48 < a + 0x80 + 16 * memRead s.mem (spaHost + (a + 4)) 2 →
          Responds (exec (.pcreate slot cmd) s) slot cmd 0x0B false s) ∧
        (a + 0x80 + 16 * memRead s.mem (spaHost + (a + 4)) 2 ≤ 2 ^ 48 → b.bad = false →
          (48 ≤ s.parts.length → Responds (exec (.pcreate slot cmd) s) slot cmd 1 false s) ∧
          (s.parts.length < 48 → (tget s.parts p).isSome = true → Responds (exec (.pcreate slot cmd) s) slot cmd 8 false s) ∧
          (s.parts.length < 48 → tget s.parts p = none →
            s.intervalUsed base n = true ∨ s.blockUsed b = true ∨ extentsClash b.exts = true →
            Responds (exec (.pcreate slot cmd) s) slot cmd 0x0A false s))) ∧
      (p < 48 → 16 ≤ n → base + n ≤ 4096 → pdet < 4 → a % 64 = 0 →
        a + 0x80 + 16 * memRead s.mem (spaHost + (a + 4)) 2 ≤ 2 ^ 48 → b.bad = false → s.parts.length < 48 →
        tget s.parts p = none →
        s.intervalUsed base n = false → s.blockUsed b = false → extentsClash b.exts = false →
        tfree s.ctxs 0 4096 = some c → (served s).makePart p c base n pdet b = some u →
        CommandDone (exec (.pcreate slot cmd) s) s slot (putBytes cmd 8 8 c) fun t =>
          (t.part p).hbase = base ∧ (t.part p).hlen = n ∧ (t.part p).root = c ∧ (t.part p).det = pdet.testBit 0 ∧
          (t.part p).cken = pdet.testBit 1 ∧ (t.ctx c).part = p ∧ (t.ctx c).st = .live ∧ (t.ctx c).level = 0 ∧
          (t.ctx c).coreBase = base ∧ (t.ctx c).coreLen = n ∧ (t.ctx c).energy = b.energy)) ∧
    (Commanded s cmd [(8, 1)] →
      (tget s.parts (mc cmd 8 1) = none → Responds (exec (.pdestroy slot cmd) s) slot cmd 3 false s) ∧
      (∀ p x, tget s.parts (mc cmd 8 1) = some p → s.ctxs = [(p.root, x)] → Leaf s p.root → NoTables s x → x.vf = none →
        x.graphs = [] → x.job = none → s.launches = [] → s.dies = [] → s.posts = [] →
        ∃ t d, exec (.pdestroy slot cmd) s = .next t ∧ t.mp.job = some (slot.val, cmd) ∧ t.mp.gen = s.mp.gen ∧
          (t.ctx p.root).st = .draining ∧ d ∈ t.drains ∧ d.kind = .delete p.root p.root)) ∧
    (∀ a q b n p, Commanded s cmd [(8, 8), (0x10, 8)] → mc cmd 8 8 = 1 → a = mc cmd 0x10 8 → Buffer a →
      layoutOf (memRead s.mem (spaHost + a) 8) = some (q, b, n) → tget s.parts q = some p → b + n ≤ 4096 →
      (s.mp.preparing = true → Responds (exec (.prepare slot cmd) s) slot cmd 7 false s) ∧
      (s.mp.preparing = false → n < 16 ∨ s.leavesGrant q b n = true ∨ s.layoutClash [(q, b, n)] q b n = true →
        Responds (exec (.prepare slot cmd) s) slot cmd 8 false s) ∧
      (∀ x, s.mp.preparing = false → s.launches = [] → s.ctxs = [(p.root, x)] → x.level = 0 → 16 ≤ n →
        s.layoutClash [(q, b, n)] q b n = false →
        CommandDone (exec (.prepare slot cmd) s) s slot cmd fun t =>
          t.part q = { p with prepared := some (b, n) } ∧ t.mp.preparing = true ∧ t.mp.prepared = false)) ∧
    (Commanded s cmd [] →
      (s.mp.prepared = false ∨ s.preparedLayout.any (fun l => s.layoutClash s.preparedLayout l.1 l.2.1 l.2.2) = true →
        Responds (exec (.commit slot cmd) s) slot cmd 7 false s) ∧
      (∀ q p b n x, s.mp.prepared = true → s.parts = [(q, p)] → p.prepared = some (b, n) → tget s.ctxs p.root = some x →
        CommandDone (exec (.commit slot cmd) s) s slot cmd fun t =>
          t.part q = { p with hbase := b, hlen := n, prepared := none } ∧ (t.ctx p.root).coreBase = b ∧
          (t.ctx p.root).coreLen = n ∧ t.mp.preparing = false ∧ t.mp.prepared = false) ∧
      (s.mp.preparing = false → Responds (exec (.abort slot cmd) s) slot cmd 7 false s) ∧
      (s.mp.preparing = true → Responds (exec (.abort slot cmd) s) slot cmd 0 true { s with
        parts := tmap s.parts (fun _ p => { p with prepared := none })
        mp := { s.mp with preparing := false, prepared := false } })) ∧
    (∀ v x, Commanded s cmd [(8, 2), (0x0A, 2), (0x0C, 1), (0x0D, 1)] → v = mc cmd 8 2 → mc cmd 0x0A 2 = 0 → v < 512 →
      x = s.vfOf v → x.resetting = none →
      (mc cmd 0x0C 1 = 0xFF → x.bound = none → Responds (exec (.vfassign slot cmd) s) slot cmd 0 true
        (s.modVf v fun y => { y with part := none, weight := 1, masks := [] })) ∧
      (mc cmd 0x0C 1 = 0xFF → x.bound.isSome = true → Responds (exec (.vfassign slot cmd) s) slot cmd 8 false s) ∧
      (∀ p w q, p = mc cmd 0x0C 1 → p ≠ 0xFF → w = mc cmd 0x0D 1 → w ≠ 0 → tget s.parts p = some q → x.part = none →
        Responds (exec (.vfassign slot cmd) s) slot cmd 0 true
          (s.modVf v fun y => { y with part := some p, weight := w, masks := q.pways }))) ∧
    (Commanded s cmd [(8, 2)] → mc cmd 0 1 = 0x10 →
      (512 ≤ mc cmd 8 2 → Responds (exec (.vfreset slot cmd) s) slot cmd 2 false s) ∧
      (mc cmd 8 2 < 512 → Idle s → (s.vfOf (mc cmd 8 2)).bound = none →
        ∃ t, exec (.vfreset slot cmd) s = .next t ∧ t.mp.job = some (slot.val, cmd) ∧ t.mp.gen = s.mp.gen ∧
          (t.vfOf (mc cmd 8 2)).resetting.isSome = true)) ∧
    (∀ a b pa pb, Commanded s cmd [(8, 1), (9, 1), (0x0C, 4), (0x10, 4), (0x18, 8)] → a = mc cmd 8 1 → b = mc cmd 9 1 →
      tget s.parts a = some pa → b ≠ 0xFF → tget s.parts b = some pb → a ≠ b → pa.hbase = pb.hbase → pa.hlen = pb.hlen →
      s.mp.slices = [] →
      (mc cmd 0x18 8 < s.now + 4096 → Responds (exec (.slice slot cmd) s) slot cmd 2 false s) ∧
      (s.now + 4096 ≤ mc cmd 0x18 8 → CommandDone (exec (.slice slot cmd) s) s slot cmd fun t =>
        t.part a = { pa with partner := some b } ∧ t.part b = { pb with partner := some a } ∧
        t.mp.slices = [{ a := a, b := some b, sa := mc cmd 0x0C 4, sb := mc cmd 0x10 4, t0 := mc cmd 0x18 8 }]))

/-- R416, R424, R425, R435, R443, R445, R447, R448, R450, R451, R454: LEAVECAP and UNFENCE set what they name; DEBUG halts,
steps, resumes, marks, reads and writes one thread, with its ring, answers NOCTX for a thread that is not there, and reads
a thread of an evicted unit; ATTEST writes nonce, measurements and GEN with the signature over the digest of the report, and
SUMMARY its report, to the host, and change no other state; DOMAIN sets the PRESENT map and what each port's next training
brings into force, GROUPTAB clears an entry. The layouts of the two reports (log 62), what measurements and a signature are
(log 45), and what the words of DOMAIN and GROUPTAB do while ports train (log 60) are the model's choices, and so are a port's
counters and their reset (log 68) and the DEBUG forms of log 76; log 69 names the order of the reports. -/
def Obligations.ModuleAndDebugCommandsAct : Prop :=
  ∀ (slot : Fin 16) (cmd : BitVec 512) (s : State), s.Inv →
    (∀ d v, Commanded s cmd [(8, 1), (0x0A, 2)] → d = mc cmd 8 1 → v = mc cmd 0x0A 2 →
      (d < 16 → v ≤ 1024 → Responds (exec (.leavecap slot cmd) s) slot cmd 0 true
        (s.modDie d fun x => { x with cap := v })) ∧
      (16 ≤ d ∨ 1024 < v → Responds (exec (.leavecap slot cmd) s) slot cmd 2 false s)) ∧
    (∀ d w, Commanded s cmd [(8, 1), (9, 1)] → d = mc cmd 8 1 → w = mc cmd 9 1 →
      (d < 16 → w < 16 → Responds (exec (.unfence slot cmd) s) slot cmd 0 true
        (s.modDie d fun x => { x with fenced := x.fenced &&& ~~~(BitVec.ofNat 16 (2 ^ w)) })) ∧
      (16 ≤ d ∨ 16 ≤ w → Responds (exec (.unfence slot cmd) s) slot cmd 2 false s)) ∧
    (∀ h tid c th, Debugs s cmd h tid c th →
      ((∀ x ∈ s.inflight, ¬(x.h = h ∧ x.tid = tid)) → th.refused = [] →
        Responds (exec (.debugHalt slot cmd) s) slot cmd 0 true
          (s.modThread h tid fun t => { t with halted := true, stepping := false })) ∧
      Responds (exec (.debugResume slot cmd) s) slot cmd 0 true
        (s.modThread h tid fun t => { t with halted := false, stepping := false }) ∧
      Responds (exec (.debugHalten slot cmd) s) slot cmd 0 true
        (s.modThread h tid fun t => { t with t := { t.t with halten := decide (mc cmd 0x0E 1 = 1) } }) ∧
      (th.halted = false → ∀ i ∈ ([.debugStep slot cmd] : List Instr), Responds (exec i s) slot cmd 7 false s) ∧
      (th.halted = false → mc cmd 0x10 8 < 32 →
        ∀ i ∈ ([.debugRead slot cmd, .debugWrite slot cmd] : List Instr), Responds (exec i s) slot cmd 7 false s) ∧
      (th.halted = true →
        Responds (exec (.debugStep slot cmd) s) slot cmd 0 true
          (s.modThread h tid fun t => { t with halted := false, stepping := true }) ∧
        (mc cmd 0x10 8 = 64 →
          Responds (exec (.debugRead slot cmd) s) slot (putBytes cmd 8 8 th.r.pc.toNat) 0 false s ∧
          Responds (exec (.debugWrite slot cmd) s) slot cmd 0 true (s.modThread h tid fun t =>
            { t with r := { t.r with pc := BitVec.ofNat 64 (mc cmd 0x18 8) &&& ~~~3#64 } })) ∧
        (∀ n : Reg, mc cmd 0x10 8 = n.val →
          Responds (exec (.debugRead slot cmd) s) slot (putBytes cmd 8 8 (th.r.readG n).toNat) 0 false s ∧
          Responds (exec (.debugWrite slot cmd) s) slot cmd 0 true (s.modThread h tid fun t =>
            { t with r := t.r.writeG n (BitVec.ofNat 64 (mc cmd 0x18 8)) })) ∧
        (∀ e a, a = mc cmd 0x18 8 → Buffer a → a + 1024 ≤ 2 ^ 48 → th.ring = [e] → ∃ t, exec (.debugRing slot cmd) s = .next t ∧
          t.mp.gen = s.mp.gen ∧ t.cores = s.cores ∧ memRead t.mem (spaHost + a + 1008) 4 = e.ply.toNat ∧
          memRead t.mem (spaHost + a + 1012) 8 = e.addr.toNat ∧ memRead t.mem (spaHost + a + 1020) 4 = e.word.toNat))) ∧
    (∀ h tid, Commanded s cmd dbgUsed → h = mc cmd 0x0A 2 → tid = mc cmd 0x0C 1 → h < 4096 → mc cmd 0x0D 1 < 2 →
      mc cmd 0x0E 1 < 2 → s.hasThread h tid = false →
      (∀ i ∈ ([.debugStep slot cmd, .debugHalten slot cmd, .debugWrite slot cmd] : List Instr),
        Responds (exec i s) slot cmd 3 false s) ∧
      (mc cmd 0x0D 1 = 0 → ∀ i ∈ ([.debugHalt slot cmd, .debugResume slot cmd] : List Instr),
        Responds (exec i s) slot cmd 3 false s) ∧
      (∀ v, (served s).dbgView h tid = some v → mc cmd 0x10 8 = 64 →
        Responds (exec (.debugRead slot cmd) s) slot (putBytes cmd 8 8 (v.thread h tid).r.pc.toNat) 0 false s) ∧
      ((served s).dbgView h tid = none → ∀ i ∈ ([.debugRead slot cmd, .debugRing slot cmd] : List Instr),
        Responds (exec i s) slot cmd 3 false s)) ∧
    (∀ a room, Commanded s cmd [(8, 32), (0x28, 8), (0x30, 8)] → a = mc cmd 0x28 8 → room = mc cmd 0x30 8 → Buffer a →
      s.parts = [] →
      (room < 64 → Responds (exec (.attest slot cmd) s) slot cmd 2 false s) ∧
      (∀ m, 2 ^ 15 ≤ room → a + 2 ^ 15 ≤ 2 ^ 48 → m = s.mp.measured.getD ((List.range 96).map Config.measurement) →
        m.length = 96 →
        ∃ t, exec (.attest slot cmd) s = .next t ∧ t.mp.gen = s.mp.gen ∧ t.cores = s.cores ∧
          memRead t.mem (spaHost + a) 32 = mc cmd 8 32 ∧
          (∀ i < 96, memGet t.mem (spaHost + a + 32 + i) = m.getD i 0) ∧
          memRead t.mem (spaHost + a + 128) 4 = s.mp.gen.toNat ∧
          ∀ i < 16224, memGet t.mem (spaHost + a + 136 + i) =
            Config.attestSignature (digestNum (sha256 (bytesOf 32 (mc cmd 8 32) ++ m ++ bytesOf 4 s.mp.gen.toNat ++
              bytesOf 4 0))) i)) ∧
    (∀ a room, Booted s → FirstInOrder s → mcBad cmd [(8, 8), (0x10, 8)] = false → a = mc cmd 8 8 →
      room = mc cmd 0x10 8 → Buffer a → a + s.summaryBytes.length ≤ 2 ^ 48 →
      (room < s.summaryBytes.length →
        Responds (exec (.summary slot cmd) s) slot (putBytes cmd 0x10 8 s.summaryBytes.length) 2 false s) ∧
      (s.summaryBytes.length ≤ room → Responds (exec (.summary slot cmd) s) slot
        (putBytes cmd 8 8 s.summaryBytes.length) 0 false
        { s.hostPut s.nextId (spaHost + a) s.summaryBytes with mp := { s.mp with reports := [] } })) ∧
    (∀ a m, Commanded s cmd [(8, 8)] → a = mc cmd 8 8 → a % 64 = 0 → a + 0x240 ≤ 2 ^ 48 → m = memRead s.mem (spaHost + a + 8) 56 → m < 2 ^ 432 →
      (∀ p < 64, ∀ v, v = memRead s.mem (spaHost + a + 0x40 + 8 * p) 8 → v / 2 ^ 20 % 4 ≠ 3 ∧ v < 2 ^ 23) →
      (memRead s.mem (spaHost + a) 8 = 2 → Responds (exec (.domain slot cmd) s) slot cmd 0 true { s with mp := { s.mp with
        present := BitVec.ofNat 448 m ||| BitVec.ofNat 448 (2 ^ s.mp.modnum) } }) ∧
      (memRead s.mem (spaHost + a) 8 = 1 → s.parts = [] → CommandDone (exec (.domain slot cmd) s) s slot cmd fun t =>
        ∀ p < 64, ∀ e, e = portEntry (memRead s.mem (spaHost + a + 0x40 + 8 * p) 8) →
          t.port p = { s.port p with entry := if e.en = true ∨ (tget s.ports p).isSome = true then some e else none }) ∧
      (memRead s.mem (spaHost + a) 8 = 1 → s.parts ≠ [] → Responds (exec (.domain slot cmd) s) slot cmd 7 false s)) ∧
    (∀ a g, Commanded s cmd [(8, 8), (0x10, 8)] → a = mc cmd 8 8 → mc cmd 0x10 8 = 1 → Buffer a →
      memRead s.mem (spaHost + a) 8 = g → g < 2 ^ 8 → memRead s.mem (spaHost + a + 8) 8 = 0 →
      (s.groupBound g = false → Responds (exec (.grouptab slot cmd) s) slot cmd 0 true
        { s with mp := { s.mp with groups := s.mp.groups.filter (fun x => x.gid != g) } }) ∧
      (s.groupBound g = true → Responds (exec (.grouptab slot cmd) s) slot cmd 7 false s))

/-! ## Encodings -/

/-- R53, R88, R92, R93, R114, R116, R181: words written out in the spec's text and from its formats decode to the
instructions that they stand for. -/
def Obligations.WrittenOutWordsDecode : Prop :=
  decodeWord 0b00001_00100_00101_00110_0000000_0000 = .ok (.add 4 5 6) ∧
  decodeWord 0x20850003 = .ok (.slli 4 5 3) ∧
  decodeWord 0x30855808 = .ok (.bextz 4 5 8 11) ∧
  decodeWord 0x88A03FFD = .ok (.bne 5 0 0x1FFD) ∧
  decodeWord 0x94010000 = .ok (.jr 1) ∧
  decodeWord 0x94250100 = .ok (.jalr 1 5) ∧
  decodeWord 0xEC000000 = .error .illegalMajor

/-- R53, R56, R58: decoding the word of a well-formed instruction gives the instruction back, with every operand at
every value that its encoding admits. -/
def Obligations.DecodingAnEncodedInstructionGivesItBack : Prop :=
  ∀ (i : Instr) (w : Nat), i.WellFormed → encode? i = some w → w < 2 ^ 32 ∧ decodeWord w = .ok i

/-- R5, R53, R58: a word that decodes is the one word of its instruction, which is well formed: every bit of it has a
meaning, and a word with a nonzero reserved field or a reserved code decodes to nothing. Majors 0x00, 0x3F and
0x3B–0x3E hold no instruction. -/
def Obligations.EveryLegalWordIsTheWordOfItsInstruction : Prop :=
  (∀ (w : Nat) (i : Instr), decodeWord w = .ok i → i.WellFormed ∧ encode? i = some w) ∧
  ∀ w : Nat, w / 2 ^ 26 ∈ [0x00, 0x3B, 0x3C, 0x3D, 0x3E, 0x3F] → ∃ r, decodeWord w = .error r

/-! ## Steps -/

/-- R53, R58, R60, R63, R104, R118, R424, R443: what a step adds around an instruction. The event at the head of the agenda
acts on the state a tick later, after some cycles; where there is none, the oldest command that waits for the management
processor. A thread that issues reads the word at its program counter, from its instruction cache or
from the four bytes at the place that its address translates to, the lowest byte first; the step is then the meaning
of the instruction that the word decodes to, ILL with the word in INFO where it decodes to none or its unit is
lacking, and LAV where a lookahead window is open on one of its registers. The thread that the debugger steps then
halts. That a step is one event or one instruction (log 2), how its cycles pass (log 3), the instruction cache (log 10) and
when its entries go (log 11) are the model's choices. -/
def Obligations.AStepRunsTheDecodedInstruction : Prop :=
  (∀ (s : State) (e : Event) (es : List Event), s.unpowered = false → s.agenda = e :: es →
    step s = exec e.toInstr ({ s.tick with agenda := es } : State).advance) ∧
  (∀ (s : State) (e : Event) (es : List Event), s.unpowered = false → s.agenda = [] → s.mp.queue = e :: es →
    s.mp.job = none →
    step s = exec e.toInstr ({ s.tick with mp := { s.tick.mp with queue := es, serving := true } } : State).advance) ∧
  (∀ (s t u : State) (h tid : Nat) (w : Word32) (after : Out → Out), s.unpowered = false →
    s.turnOf = (.issue h tid, t) → t.issue h tid = .word w u →
    after = State.afterStep (u.thread h tid).stepping h tid →
    (∀ r, decodeWord w.toNat = .error r →
      step s = after (.next (({ u with curWord := w } : State).trap 0x01 w.toNat))) ∧
    (∀ i, decodeWord w.toNat = .ok i →
      (lacking u.curCore w.toNat = true →
        step s = after (.next (({ u with curWord := w } : State).trap 0x01 w.toNat))) ∧
      (lacking u.curCore w.toNat = false →
        (∀ info, u.cur.violation w.toNat = some info →
          step s = after (.next (({ u with curWord := w } : State).trap 0x02 info))) ∧
        (u.cur.violation w.toNat = none → step s = after (exec i { u with curWord := w }))))) ∧
  (∀ (s u v : State) (h tid spa : Nat), u = s.take h tid → (u.thread h tid).deliverable = false →
    (∀ p ∈ u.cur.pend, p.since < p.look) → (u.thread h tid).refused = [] →
    u.translate h u.curCtx u.cur.r.pc .fetch = (v, .ok spa) →
    (∀ w, tget (v.core h).icache u.cur.r.pc.toNat = some w → s.issue h tid = .word w v) ∧
    (∀ l b0 b1 b2 b3, tget (v.core h).icache u.cur.r.pc.toNat = none → v.routeOpen (v.canon spa) = true →
      v.locOf v.curCtx (v.canon spa) = some l → v.poisoned l 4 = false → v.readLoc l 4 = [b0, b1, b2, b3] →
      ∃ t, s.issue h tid = .word (b3 ++ b2 ++ b1 ++ b0) t ∧ t = { v with cores := t.cores })) ∧
  (∀ (out : Out) (h tid : Nat), State.afterStep false h tid out = out) ∧
  ∀ (s : State) (h tid : Nat), s.hasThread h tid = true → (∀ x ∈ s.inflight, ¬(x.h = h ∧ x.tid = tid)) →
    (s.thread h tid).refused = [] →
    State.afterStep true h tid (.next s) =
      .next (s.modThread h tid fun t => { t with halted := true, stepping := false })

/-! ## Reset and the invariants -/

/-- R15, R111, R385, R439, R442, R454: after reset no unit is resident on any core, every context, partition and VF is
cleared, a VF reads weight 1 and registers 0, CYCLE is 0, each die may hold 1,024 units of leave, nothing is under
way, and every core keeps the bounds of its queues and its tile table. That every byte of memory reads 0 is the model's choice (log 1), and so are the values of a thread's registers
before a unit starts (log 6). -/
def Obligations.ResetLeavesTheModuleCleared : Prop :=
  ∃ s : State, s = State.reset ∧
    (∀ h tid, (s.core h).unit = none ∧ s.hasThread h tid = false) ∧ s.ctxs = [] ∧ s.parts = [] ∧
    (∀ v, s.vfOf v = Vf.reset ∧ (s.vfOf v).part = none ∧ (s.vfOf v).bound = none ∧ (s.vfOf v).weight = 1 ∧
      (s.vfOf v).jobimg = 0 ∧ (s.vfOf v).intstat = 0) ∧
    (∀ d, (s.die d).cap = 1024 ∧ (s.die d).held = 0) ∧ s.cycle = 0 ∧ s.inflight = [] ∧ s.msgs = [] ∧ s.posts = [] ∧
    s.launches = [] ∧ s.mp.boot = 0 ∧ (∀ a, memGet s.mem a = 0) ∧ s.Bounded

/-- R15: the invariant holds after reset: memory is in its canonical form. -/
def Obligations.MemoryIsCanonicalAfterReset : Prop :=
  State.reset.Inv

/-- R15: every step keeps the memory of the module in its canonical form: addresses rise strictly and no listed byte
is what an unlisted address reads as, so that equal memories are equal data. -/
def Obligations.EveryStepKeepsMemoryCanonical : Prop :=
  ∀ s t : State, s.Inv → step s = .next t → t.Inv

/-- R152, R153, R185, R212, R234, R255, R403, R406: every step keeps what a core holds within the bounds of the spec: 8
commands in the vector unit, in the quasi-random unit and on each matrix stream, 16 copy commands, 4 late faults of a thread
wherever it is held, and a tile table of entries below 64 whose tiles name 1 to 16 banks each, among bank numbers 0 to 95, no
bank number twice; so in the module and in the castle stores. -/
def Obligations.EveryStepKeepsTheBoundsOfTheCores : Prop :=
  ∀ s t : State, s.Bounded → step s = .next t → t.Bounded
end

