-- ==== Sys2Proof/Laws/Home.lean ====
section
/-! SUPPORT. The Hilbert order of the cores and its inverse (R10), and the global aliases (R15). -/

namespace Sys2Proof.Machine

/-- The step of one level of hilbert_to_xy. -/
def hilbertUp (s t : Nat) (p : Nat × Nat) : Nat × Nat :=
  let rx := t / 2 % 2
  let ry := (t + rx) % 2
  let q := hilbertRot s p.1 p.2 rx ry
  (q.1 + s * rx, q.2 + s * ry)

theorem hilbertGo_succ (n s t x y : Nat) :
    hilbertGo (n + 1) s t x y = hilbertUp (s * 2 ^ n) (t / 4 ^ n) (hilbertGo n s t x y) := by
  induction n generalizing s t x y with
  | zero => simp [hilbertGo, hilbertUp]
  | succ n ih =>
    show hilbertGo (n + 1) (2 * s) (t / 4) _ _ = hilbertUp _ _ (hilbertGo n (2 * s) (t / 4) _ _)
    rw [ih, Nat.div_div_eq_div_mul, show 2 * s * 2 ^ n = s * 2 ^ (n + 1) by rw [Nat.pow_succ]; ac_rfl,
      show 4 * 4 ^ n = 4 ^ (n + 1) by rw [Nat.pow_succ]; omega]

theorem hilbertGo_lt (n t : Nat) : (hilbertGo n 1 t 0 0).1 < 2 ^ n ∧ (hilbertGo n 1 t 0 0).2 < 2 ^ n := by
  induction n with
  | zero => simp [hilbertGo]
  | succ n ih =>
    rw [hilbertGo_succ]
    generalize hilbertGo n 1 t 0 0 = p at ih ⊢
    simp only [hilbertUp, Nat.one_mul, hilbertRot]
    have hx : t / 4 ^ n / 2 % 2 = 0 ∨ t / 4 ^ n / 2 % 2 = 1 := by omega
    have hp : 2 ^ (n + 1) = 2 * 2 ^ n := by rw [Nat.pow_succ]; omega
    generalize t / 4 ^ n = u at hx ⊢
    generalize 2 ^ n = s at *
    have hy : (u + u / 2 % 2) % 2 = 0 ∨ (u + u / 2 % 2) % 2 = 1 := by omega
    rcases hx with hx | hx <;> rcases hy with hy | hy <;> simp [hx] at hy ⊢ <;> simp [hy] <;> omega

theorem hilbertInv_go (n t : Nat) :
    hilbertInv n (hilbertGo n 1 t 0 0).1 (hilbertGo n 1 t 0 0).2 = t % 4 ^ n := by
  induction n with
  | zero => simp [hilbertInv]; omega
  | succ n ih =>
    have hlt := hilbertGo_lt n t
    rw [hilbertGo_succ]
    have h4 : t % 4 ^ (n + 1) = t / 4 ^ n % 4 * (2 ^ n * 2 ^ n) + t % 4 ^ n := by
      have e : 2 ^ n * 2 ^ n = 4 ^ n := by rw [← Nat.mul_pow]
      rw [e, Nat.pow_succ, Nat.mod_mul, Nat.mul_comm (4 ^ n)]; omega
    rw [h4, ← ih]
    generalize hilbertGo n 1 t 0 0 = p at hlt ⊢
    obtain ⟨x, y⟩ := p
    simp only at hlt
    simp only [hilbertInv, hilbertUp, Nat.one_mul]
    generalize t / 4 ^ n = u
    have hs : 0 < 2 ^ n := Nat.two_pow_pos n
    generalize 2 ^ n = s at *
    have d0 {a : Nat} (h : a < s) : a / s = 0 := Nat.div_eq_of_lt h
    have m0 {a : Nat} (h : a < s) : a % s = a := Nat.mod_eq_of_lt h
    have d1 {a : Nat} (h : a < s) : (a + s) / s = 1 := by rw [Nat.add_div_right _ hs, d0 h]
    have m1 {a : Nat} (h : a < s) : (a + s) % s = a := by rw [Nat.add_mod_right, m0 h]
    have i1 {a : Nat} (h : a < s) : s - 1 - (s - 1 - a) = a := by omega
    have r1 {a : Nat} (h : a < s) : s - 1 - a < s := by omega
    have hu : u % 4 = 0 ∨ u % 4 = 1 ∨ u % 4 = 2 ∨ u % 4 = 3 := by omega
    have hx : u / 2 % 2 = u % 4 / 2 := by omega
    have hy : (u + u % 4 / 2) % 2 = (u % 4 + u % 4 / 2) % 2 := by omega
    simp only [hx, hy]
    rcases hu with h | h | h | h <;> rw [h] <;>
      simp [hilbertRot, d0, d1, m0, m1, i1, r1, hlt.1, hlt.2]

/-- The Hilbert index of the coordinates of a core is its number (R10). -/
theorem hilbertH_hilbertXY {h : Nat} (hh : h < 4096) : hilbertH (hilbertXY h).1 (hilbertXY h).2 = h := by
  have := hilbertInv_go 6 h
  rw [Nat.mod_eq_of_lt (by omega)] at this
  exact this

theorem hilbertXY_lt (h : Nat) : (hilbertXY h).1 < 64 ∧ (hilbertXY h).2 < 64 := hilbertGo_lt 6 h

/-- An address of a core's alias names that core and the offset (R15). -/
theorem aliasParts_alias {h off : Nat} (hh : h < 4096) (ho : off < 0x200000) :
    aliasParts (aliasBase h + off - spaAlias) = (h, off) := by
  have hxy := hilbertXY_lt h
  have hH := hilbertH_hilbertXY hh
  simp only [aliasBase, aliasParts, bits]
  generalize hilbertXY h = p at hxy hH ⊢
  obtain ⟨x, y⟩ := p
  simp only at hxy hH ⊢
  have e1 : (spaAlias + x * 2 ^ 27 + y * 2 ^ 21 + off - spaAlias) / 2 ^ 27 % 2 ^ 6 = x := by omega
  have e2 : (spaAlias + x * 2 ^ 27 + y * 2 ^ 21 + off - spaAlias) / 2 ^ 21 % 2 ^ 6 = y := by omega
  have e3 : (spaAlias + x * 2 ^ 27 + y * 2 ^ 21 + off - spaAlias) / 2 ^ 0 % 2 ^ 21 = off := by omega
  rw [e1, e2, e3, hH]

end Sys2Proof.Machine
end

