-- ==== Sys2Proof/Laws/Memory.lean ====
section
/-! SUPPORT. Memory: a read after a write, and the canonical form that every operation keeps. -/

namespace Sys2Proof.Machine

/-! ## A lower bound of the addresses -/

theorem memOk_mono {m : Memory} {lo lo' : Nat} (h : lo' ≤ lo) (hm : memOk lo m = true) : memOk lo' m = true := by
  cases m with
  | nil => rfl
  | cons e m => simp only [memOk, Bool.and_eq_true, decide_eq_true_eq] at hm ⊢; exact ⟨⟨by omega, hm.1.2⟩, hm.2⟩

theorem memGet_below {m : Memory} {lo a : Nat} (hm : memOk lo m = true) (h : a < lo) : memGet m a = 0 := by
  induction m generalizing lo with
  | nil => rfl
  | cons e m ih =>
    simp only [memOk, Bool.and_eq_true, decide_eq_true_eq] at hm
    simp only [memGet, show e.1 ≠ a by omega, if_false]
    exact ih hm.2 (by omega)

/-! ## A read after a write -/

theorem memGet_memSet_ne (m : Memory) {a c : Nat} (b : Byte) (h : a ≠ c) : memGet (memSet m a b) c = memGet m c := by
  induction m with
  | nil => simp only [memSet]; split <;> simp [memGet, h]
  | cons e m ih =>
    obtain ⟨k, v⟩ := e
    simp only [memSet]
    split
    · split <;> simp [memGet, h]
    · split
      · rename_i h'; subst h'; split <;> simp [memGet, h]
      · simp [memGet, ih]

theorem memGet_memSet_same {m : Memory} {lo : Nat} (a : Nat) (b : Byte) (hm : memOk lo m = true) :
    memGet (memSet m a b) a = b := by
  induction m generalizing lo with
  | nil => simp only [memSet]; split <;> simp_all [memGet]
  | cons e m ih =>
    obtain ⟨k, v⟩ := e
    simp only [memOk, Bool.and_eq_true, decide_eq_true_eq] at hm
    simp only [memSet]
    split
    · rename_i hlt
      split
      · rename_i hb
        simp only [memGet, show k ≠ a by omega, if_false, hb]
        exact memGet_below hm.2 (by omega)
      · simp [memGet]
    · split
      · rename_i heq
        split
        · rename_i hb; rw [hb]; exact memGet_below hm.2 (by omega)
        · simp [memGet]
      · rename_i hne
        simp only [memGet, show k ≠ a from fun h => hne h.symm, if_false]
        exact ih hm.2

/-- A byte after one byte is written. -/
theorem memGet_memSet {m : Memory} (hm : Memory.wf m = true) (a c : Nat) (b : Byte) :
    memGet (memSet m a b) c = if a = c then b else memGet m c := by
  split
  · rename_i h; subst h; exact memGet_memSet_same a b hm
  · rename_i h; exact memGet_memSet_ne m b h

theorem memGet_memStore_ne (m : Memory) (a c : Nat) (bs : List Byte) (h : c < a ∨ a + bs.length ≤ c) :
    memGet (memStore m a bs) c = memGet m c := by
  induction bs generalizing m a with
  | nil => rfl
  | cons b bs ih =>
    simp only [List.length_cons] at h
    rw [memStore, ih _ _ (by omega), memGet_memSet_ne _ _ (by omega)]

/-! ## The canonical form is kept -/

theorem memSet_ok {m : Memory} {lo : Nat} (a : Nat) (b : Byte) (hm : memOk lo m = true) :
    memOk (min lo a) (memSet m a b) = true := by
  induction m generalizing lo with
  | nil =>
    simp only [memSet]
    split
    · rfl
    · rename_i h; simp only [memOk, Bool.and_eq_true, decide_eq_true_eq, bne_iff_ne]
      exact ⟨⟨by omega, h⟩, trivial⟩
  | cons e m ih =>
    obtain ⟨k, v⟩ := e
    have hm' := hm
    simp only [memOk, Bool.and_eq_true, decide_eq_true_eq] at hm
    simp only [memSet]
    split
    · rename_i hlt
      split
      · exact memOk_mono (by omega) hm'
      · rename_i hb
        simp only [memOk, Bool.and_eq_true, decide_eq_true_eq, bne_iff_ne]
        exact ⟨⟨by omega, hb⟩, ⟨by omega, bne_iff_ne.1 hm.1.2⟩, hm.2⟩
    · split
      · rename_i heq
        split
        · exact memOk_mono (by omega) hm.2
        · rename_i hb
          simp only [memOk, Bool.and_eq_true, decide_eq_true_eq, bne_iff_ne]
          exact ⟨⟨by omega, hb⟩, by subst heq; exact hm.2⟩
      · rename_i hlt hne
        have := ih hm.2
        rw [show min (k + 1) a = k + 1 by omega] at this
        simp only [memOk, Bool.and_eq_true, decide_eq_true_eq]
        exact ⟨⟨by omega, hm.1.2⟩, this⟩

theorem memSet_wf {m : Memory} (a : Nat) (b : Byte) (hm : Memory.wf m = true) : Memory.wf (memSet m a b) = true :=
  memOk_mono (Nat.zero_le _) (memSet_ok a b hm)

theorem memStore_wf {m : Memory} (a : Nat) (bs : List Byte) (hm : Memory.wf m = true) :
    Memory.wf (memStore m a bs) = true := by
  induction bs generalizing m a with
  | nil => exact hm
  | cons b bs ih => exact ih _ (memSet_wf a b hm)

theorem memWrite_wf {m : Memory} (a n v : Nat) (hm : Memory.wf m = true) : Memory.wf (memWrite m a n v) = true :=
  memStore_wf a _ hm

theorem memFilter_ok {m : Memory} {lo : Nat} (p : Host.Cell → Bool) (hm : memOk lo m = true) :
    memOk lo (m.filter p) = true := by
  induction m generalizing lo with
  | nil => rfl
  | cons e m ih =>
    obtain ⟨k, v⟩ := e
    simp only [memOk, Bool.and_eq_true, decide_eq_true_eq] at hm
    rw [List.filter_cons]
    split
    · simp only [memOk, Bool.and_eq_true, decide_eq_true_eq]; exact ⟨hm.1, ih hm.2⟩
    · exact memOk_mono (by omega) (ih hm.2)

theorem memFilter_wf {m : Memory} (p : Host.Cell → Bool) (hm : Memory.wf m = true) :
    Memory.wf (m.filter p) = true := memFilter_ok p hm

end Sys2Proof.Machine
end

