-- ==== Sys2Proof/Laws/State.lean ====
section
/-! SUPPORT. What each named update of the state leaves alone, one lemma per field, so that no proof unfolds a record
update. -/

namespace Sys2Proof.Machine

variable (s : State)

/-! ## setCore -/

@[simp] theorem State.setCore_mem (h : Nat) (c : Core) : (s.setCore h c).mem = s.mem := rfl
@[simp] theorem State.setCore_poison (h : Nat) (c : Core) : (s.setCore h c).poison = s.poison := rfl
@[simp] theorem State.setCore_struck (h : Nat) (c : Core) : (s.setCore h c).struck = s.struck := rfl
@[simp] theorem State.setCore_ctxs (h : Nat) (c : Core) : (s.setCore h c).ctxs = s.ctxs := rfl
@[simp] theorem State.setCore_parts (h : Nat) (c : Core) : (s.setCore h c).parts = s.parts := rfl
@[simp] theorem State.setCore_vfs (h : Nat) (c : Core) : (s.setCore h c).vfs = s.vfs := rfl
@[simp] theorem State.setCore_launches (h : Nat) (c : Core) : (s.setCore h c).launches = s.launches := rfl
@[simp] theorem State.setCore_preds (h : Nat) (c : Core) : (s.setCore h c).preds = s.preds := rfl
@[simp] theorem State.setCore_recs (h : Nat) (c : Core) : (s.setCore h c).recs = s.recs := rfl
@[simp] theorem State.setCore_cmds (h : Nat) (c : Core) : (s.setCore h c).cmds = s.cmds := rfl
@[simp] theorem State.setCore_dies (h : Nat) (c : Core) : (s.setCore h c).dies = s.dies := rfl
@[simp] theorem State.setCore_segs (h : Nat) (c : Core) : (s.setCore h c).segs = s.segs := rfl
@[simp] theorem State.setCore_ports (h : Nat) (c : Core) : (s.setCore h c).ports = s.ports := rfl
@[simp] theorem State.setCore_clusterTlb (h : Nat) (c : Core) : (s.setCore h c).clusterTlb = s.clusterTlb := rfl
@[simp] theorem State.setCore_nestedTlb (h : Nat) (c : Core) : (s.setCore h c).nestedTlb = s.nestedTlb := rfl
@[simp] theorem State.setCore_inflight (h : Nat) (c : Core) : (s.setCore h c).inflight = s.inflight := rfl
@[simp] theorem State.setCore_msgs (h : Nat) (c : Core) : (s.setCore h c).msgs = s.msgs := rfl
@[simp] theorem State.setCore_posts (h : Nat) (c : Core) : (s.setCore h c).posts = s.posts := rfl
@[simp] theorem State.setCore_drains (h : Nat) (c : Core) : (s.setCore h c).drains = s.drains := rfl
@[simp] theorem State.setCore_invals (h : Nat) (c : Core) : (s.setCore h c).invals = s.invals := rfl
@[simp] theorem State.setCore_castled (h : Nat) (c : Core) : (s.setCore h c).castled = s.castled := rfl
@[simp] theorem State.setCore_cycle (h : Nat) (c : Core) : (s.setCore h c).cycle = s.cycle := rfl
@[simp] theorem State.setCore_mp (h : Nat) (c : Core) : (s.setCore h c).mp = s.mp := rfl
@[simp] theorem State.setCore_agenda (h : Nat) (c : Core) : (s.setCore h c).agenda = s.agenda := rfl
@[simp] theorem State.setCore_defer (h : Nat) (c : Core) : (s.setCore h c).defer = s.defer := rfl
@[simp] theorem State.setCore_picks (h : Nat) (c : Core) : (s.setCore h c).picks = s.picks := rfl
@[simp] theorem State.setCore_curCore (h : Nat) (c : Core) : (s.setCore h c).curCore = s.curCore := rfl
@[simp] theorem State.setCore_curTid (h : Nat) (c : Core) : (s.setCore h c).curTid = s.curTid := rfl
@[simp] theorem State.setCore_curWord (h : Nat) (c : Core) : (s.setCore h c).curWord = s.curWord := rfl
@[simp] theorem State.setCore_turn (h : Nat) (c : Core) : (s.setCore h c).turn = s.turn := rfl
@[simp] theorem State.setCore_steps (h : Nat) (c : Core) : (s.setCore h c).steps = s.steps := rfl
@[simp] theorem State.setCore_nextId (h : Nat) (c : Core) : (s.setCore h c).nextId = s.nextId := rfl

/-! ## modCore -/

@[simp] theorem State.modCore_mem (h : Nat) (f : Core → Core) : (s.modCore h f).mem = s.mem := rfl
@[simp] theorem State.modCore_poison (h : Nat) (f : Core → Core) : (s.modCore h f).poison = s.poison := rfl
@[simp] theorem State.modCore_struck (h : Nat) (f : Core → Core) : (s.modCore h f).struck = s.struck := rfl
@[simp] theorem State.modCore_ctxs (h : Nat) (f : Core → Core) : (s.modCore h f).ctxs = s.ctxs := rfl
@[simp] theorem State.modCore_parts (h : Nat) (f : Core → Core) : (s.modCore h f).parts = s.parts := rfl
@[simp] theorem State.modCore_vfs (h : Nat) (f : Core → Core) : (s.modCore h f).vfs = s.vfs := rfl
@[simp] theorem State.modCore_launches (h : Nat) (f : Core → Core) : (s.modCore h f).launches = s.launches := rfl
@[simp] theorem State.modCore_preds (h : Nat) (f : Core → Core) : (s.modCore h f).preds = s.preds := rfl
@[simp] theorem State.modCore_recs (h : Nat) (f : Core → Core) : (s.modCore h f).recs = s.recs := rfl
@[simp] theorem State.modCore_cmds (h : Nat) (f : Core → Core) : (s.modCore h f).cmds = s.cmds := rfl
@[simp] theorem State.modCore_dies (h : Nat) (f : Core → Core) : (s.modCore h f).dies = s.dies := rfl
@[simp] theorem State.modCore_segs (h : Nat) (f : Core → Core) : (s.modCore h f).segs = s.segs := rfl
@[simp] theorem State.modCore_ports (h : Nat) (f : Core → Core) : (s.modCore h f).ports = s.ports := rfl
@[simp] theorem State.modCore_clusterTlb (h : Nat) (f : Core → Core) : (s.modCore h f).clusterTlb = s.clusterTlb := rfl
@[simp] theorem State.modCore_nestedTlb (h : Nat) (f : Core → Core) : (s.modCore h f).nestedTlb = s.nestedTlb := rfl
@[simp] theorem State.modCore_inflight (h : Nat) (f : Core → Core) : (s.modCore h f).inflight = s.inflight := rfl
@[simp] theorem State.modCore_msgs (h : Nat) (f : Core → Core) : (s.modCore h f).msgs = s.msgs := rfl
@[simp] theorem State.modCore_posts (h : Nat) (f : Core → Core) : (s.modCore h f).posts = s.posts := rfl
@[simp] theorem State.modCore_drains (h : Nat) (f : Core → Core) : (s.modCore h f).drains = s.drains := rfl
@[simp] theorem State.modCore_invals (h : Nat) (f : Core → Core) : (s.modCore h f).invals = s.invals := rfl
@[simp] theorem State.modCore_castled (h : Nat) (f : Core → Core) : (s.modCore h f).castled = s.castled := rfl
@[simp] theorem State.modCore_cycle (h : Nat) (f : Core → Core) : (s.modCore h f).cycle = s.cycle := rfl
@[simp] theorem State.modCore_mp (h : Nat) (f : Core → Core) : (s.modCore h f).mp = s.mp := rfl
@[simp] theorem State.modCore_agenda (h : Nat) (f : Core → Core) : (s.modCore h f).agenda = s.agenda := rfl
@[simp] theorem State.modCore_defer (h : Nat) (f : Core → Core) : (s.modCore h f).defer = s.defer := rfl
@[simp] theorem State.modCore_picks (h : Nat) (f : Core → Core) : (s.modCore h f).picks = s.picks := rfl
@[simp] theorem State.modCore_curCore (h : Nat) (f : Core → Core) : (s.modCore h f).curCore = s.curCore := rfl
@[simp] theorem State.modCore_curTid (h : Nat) (f : Core → Core) : (s.modCore h f).curTid = s.curTid := rfl
@[simp] theorem State.modCore_curWord (h : Nat) (f : Core → Core) : (s.modCore h f).curWord = s.curWord := rfl
@[simp] theorem State.modCore_turn (h : Nat) (f : Core → Core) : (s.modCore h f).turn = s.turn := rfl
@[simp] theorem State.modCore_steps (h : Nat) (f : Core → Core) : (s.modCore h f).steps = s.steps := rfl
@[simp] theorem State.modCore_nextId (h : Nat) (f : Core → Core) : (s.modCore h f).nextId = s.nextId := rfl

/-! ## modThread -/

@[simp] theorem State.modThread_mem (h tid : Nat) (f : Thread → Thread) : (s.modThread h tid f).mem = s.mem := rfl
@[simp] theorem State.modThread_poison (h tid : Nat) (f : Thread → Thread) : (s.modThread h tid f).poison = s.poison := rfl
@[simp] theorem State.modThread_struck (h tid : Nat) (f : Thread → Thread) : (s.modThread h tid f).struck = s.struck := rfl
@[simp] theorem State.modThread_ctxs (h tid : Nat) (f : Thread → Thread) : (s.modThread h tid f).ctxs = s.ctxs := rfl
@[simp] theorem State.modThread_parts (h tid : Nat) (f : Thread → Thread) : (s.modThread h tid f).parts = s.parts := rfl
@[simp] theorem State.modThread_vfs (h tid : Nat) (f : Thread → Thread) : (s.modThread h tid f).vfs = s.vfs := rfl
@[simp] theorem State.modThread_launches (h tid : Nat) (f : Thread → Thread) : (s.modThread h tid f).launches = s.launches := rfl
@[simp] theorem State.modThread_preds (h tid : Nat) (f : Thread → Thread) : (s.modThread h tid f).preds = s.preds := rfl
@[simp] theorem State.modThread_recs (h tid : Nat) (f : Thread → Thread) : (s.modThread h tid f).recs = s.recs := rfl
@[simp] theorem State.modThread_cmds (h tid : Nat) (f : Thread → Thread) : (s.modThread h tid f).cmds = s.cmds := rfl
@[simp] theorem State.modThread_dies (h tid : Nat) (f : Thread → Thread) : (s.modThread h tid f).dies = s.dies := rfl
@[simp] theorem State.modThread_segs (h tid : Nat) (f : Thread → Thread) : (s.modThread h tid f).segs = s.segs := rfl
@[simp] theorem State.modThread_ports (h tid : Nat) (f : Thread → Thread) : (s.modThread h tid f).ports = s.ports := rfl
@[simp] theorem State.modThread_clusterTlb (h tid : Nat) (f : Thread → Thread) : (s.modThread h tid f).clusterTlb = s.clusterTlb := rfl
@[simp] theorem State.modThread_nestedTlb (h tid : Nat) (f : Thread → Thread) : (s.modThread h tid f).nestedTlb = s.nestedTlb := rfl
@[simp] theorem State.modThread_inflight (h tid : Nat) (f : Thread → Thread) : (s.modThread h tid f).inflight = s.inflight := rfl
@[simp] theorem State.modThread_msgs (h tid : Nat) (f : Thread → Thread) : (s.modThread h tid f).msgs = s.msgs := rfl
@[simp] theorem State.modThread_posts (h tid : Nat) (f : Thread → Thread) : (s.modThread h tid f).posts = s.posts := rfl
@[simp] theorem State.modThread_drains (h tid : Nat) (f : Thread → Thread) : (s.modThread h tid f).drains = s.drains := rfl
@[simp] theorem State.modThread_invals (h tid : Nat) (f : Thread → Thread) : (s.modThread h tid f).invals = s.invals := rfl
@[simp] theorem State.modThread_castled (h tid : Nat) (f : Thread → Thread) : (s.modThread h tid f).castled = s.castled := rfl
@[simp] theorem State.modThread_cycle (h tid : Nat) (f : Thread → Thread) : (s.modThread h tid f).cycle = s.cycle := rfl
@[simp] theorem State.modThread_mp (h tid : Nat) (f : Thread → Thread) : (s.modThread h tid f).mp = s.mp := rfl
@[simp] theorem State.modThread_agenda (h tid : Nat) (f : Thread → Thread) : (s.modThread h tid f).agenda = s.agenda := rfl
@[simp] theorem State.modThread_defer (h tid : Nat) (f : Thread → Thread) : (s.modThread h tid f).defer = s.defer := rfl
@[simp] theorem State.modThread_picks (h tid : Nat) (f : Thread → Thread) : (s.modThread h tid f).picks = s.picks := rfl
@[simp] theorem State.modThread_curCore (h tid : Nat) (f : Thread → Thread) : (s.modThread h tid f).curCore = s.curCore := rfl
@[simp] theorem State.modThread_curTid (h tid : Nat) (f : Thread → Thread) : (s.modThread h tid f).curTid = s.curTid := rfl
@[simp] theorem State.modThread_curWord (h tid : Nat) (f : Thread → Thread) : (s.modThread h tid f).curWord = s.curWord := rfl
@[simp] theorem State.modThread_turn (h tid : Nat) (f : Thread → Thread) : (s.modThread h tid f).turn = s.turn := rfl
@[simp] theorem State.modThread_steps (h tid : Nat) (f : Thread → Thread) : (s.modThread h tid f).steps = s.steps := rfl
@[simp] theorem State.modThread_nextId (h tid : Nat) (f : Thread → Thread) : (s.modThread h tid f).nextId = s.nextId := rfl

/-! ## modCur -/

@[simp] theorem State.modCur_mem (f : Thread → Thread) : (s.modCur f).mem = s.mem := rfl
@[simp] theorem State.modCur_poison (f : Thread → Thread) : (s.modCur f).poison = s.poison := rfl
@[simp] theorem State.modCur_struck (f : Thread → Thread) : (s.modCur f).struck = s.struck := rfl
@[simp] theorem State.modCur_ctxs (f : Thread → Thread) : (s.modCur f).ctxs = s.ctxs := rfl
@[simp] theorem State.modCur_parts (f : Thread → Thread) : (s.modCur f).parts = s.parts := rfl
@[simp] theorem State.modCur_vfs (f : Thread → Thread) : (s.modCur f).vfs = s.vfs := rfl
@[simp] theorem State.modCur_launches (f : Thread → Thread) : (s.modCur f).launches = s.launches := rfl
@[simp] theorem State.modCur_preds (f : Thread → Thread) : (s.modCur f).preds = s.preds := rfl
@[simp] theorem State.modCur_recs (f : Thread → Thread) : (s.modCur f).recs = s.recs := rfl
@[simp] theorem State.modCur_cmds (f : Thread → Thread) : (s.modCur f).cmds = s.cmds := rfl
@[simp] theorem State.modCur_dies (f : Thread → Thread) : (s.modCur f).dies = s.dies := rfl
@[simp] theorem State.modCur_segs (f : Thread → Thread) : (s.modCur f).segs = s.segs := rfl
@[simp] theorem State.modCur_ports (f : Thread → Thread) : (s.modCur f).ports = s.ports := rfl
@[simp] theorem State.modCur_clusterTlb (f : Thread → Thread) : (s.modCur f).clusterTlb = s.clusterTlb := rfl
@[simp] theorem State.modCur_nestedTlb (f : Thread → Thread) : (s.modCur f).nestedTlb = s.nestedTlb := rfl
@[simp] theorem State.modCur_inflight (f : Thread → Thread) : (s.modCur f).inflight = s.inflight := rfl
@[simp] theorem State.modCur_msgs (f : Thread → Thread) : (s.modCur f).msgs = s.msgs := rfl
@[simp] theorem State.modCur_posts (f : Thread → Thread) : (s.modCur f).posts = s.posts := rfl
@[simp] theorem State.modCur_drains (f : Thread → Thread) : (s.modCur f).drains = s.drains := rfl
@[simp] theorem State.modCur_invals (f : Thread → Thread) : (s.modCur f).invals = s.invals := rfl
@[simp] theorem State.modCur_castled (f : Thread → Thread) : (s.modCur f).castled = s.castled := rfl
@[simp] theorem State.modCur_cycle (f : Thread → Thread) : (s.modCur f).cycle = s.cycle := rfl
@[simp] theorem State.modCur_mp (f : Thread → Thread) : (s.modCur f).mp = s.mp := rfl
@[simp] theorem State.modCur_agenda (f : Thread → Thread) : (s.modCur f).agenda = s.agenda := rfl
@[simp] theorem State.modCur_defer (f : Thread → Thread) : (s.modCur f).defer = s.defer := rfl
@[simp] theorem State.modCur_picks (f : Thread → Thread) : (s.modCur f).picks = s.picks := rfl
@[simp] theorem State.modCur_curCore (f : Thread → Thread) : (s.modCur f).curCore = s.curCore := rfl
@[simp] theorem State.modCur_curTid (f : Thread → Thread) : (s.modCur f).curTid = s.curTid := rfl
@[simp] theorem State.modCur_curWord (f : Thread → Thread) : (s.modCur f).curWord = s.curWord := rfl
@[simp] theorem State.modCur_turn (f : Thread → Thread) : (s.modCur f).turn = s.turn := rfl
@[simp] theorem State.modCur_steps (f : Thread → Thread) : (s.modCur f).steps = s.steps := rfl
@[simp] theorem State.modCur_nextId (f : Thread → Thread) : (s.modCur f).nextId = s.nextId := rfl

/-! ## setG -/

@[simp] theorem State.setG_mem (n : Reg) (v : Word) : (s.setG n v).mem = s.mem := rfl
@[simp] theorem State.setG_poison (n : Reg) (v : Word) : (s.setG n v).poison = s.poison := rfl
@[simp] theorem State.setG_struck (n : Reg) (v : Word) : (s.setG n v).struck = s.struck := rfl
@[simp] theorem State.setG_ctxs (n : Reg) (v : Word) : (s.setG n v).ctxs = s.ctxs := rfl
@[simp] theorem State.setG_parts (n : Reg) (v : Word) : (s.setG n v).parts = s.parts := rfl
@[simp] theorem State.setG_vfs (n : Reg) (v : Word) : (s.setG n v).vfs = s.vfs := rfl
@[simp] theorem State.setG_launches (n : Reg) (v : Word) : (s.setG n v).launches = s.launches := rfl
@[simp] theorem State.setG_preds (n : Reg) (v : Word) : (s.setG n v).preds = s.preds := rfl
@[simp] theorem State.setG_recs (n : Reg) (v : Word) : (s.setG n v).recs = s.recs := rfl
@[simp] theorem State.setG_cmds (n : Reg) (v : Word) : (s.setG n v).cmds = s.cmds := rfl
@[simp] theorem State.setG_dies (n : Reg) (v : Word) : (s.setG n v).dies = s.dies := rfl
@[simp] theorem State.setG_segs (n : Reg) (v : Word) : (s.setG n v).segs = s.segs := rfl
@[simp] theorem State.setG_ports (n : Reg) (v : Word) : (s.setG n v).ports = s.ports := rfl
@[simp] theorem State.setG_clusterTlb (n : Reg) (v : Word) : (s.setG n v).clusterTlb = s.clusterTlb := rfl
@[simp] theorem State.setG_nestedTlb (n : Reg) (v : Word) : (s.setG n v).nestedTlb = s.nestedTlb := rfl
@[simp] theorem State.setG_inflight (n : Reg) (v : Word) : (s.setG n v).inflight = s.inflight := rfl
@[simp] theorem State.setG_msgs (n : Reg) (v : Word) : (s.setG n v).msgs = s.msgs := rfl
@[simp] theorem State.setG_posts (n : Reg) (v : Word) : (s.setG n v).posts = s.posts := rfl
@[simp] theorem State.setG_drains (n : Reg) (v : Word) : (s.setG n v).drains = s.drains := rfl
@[simp] theorem State.setG_invals (n : Reg) (v : Word) : (s.setG n v).invals = s.invals := rfl
@[simp] theorem State.setG_castled (n : Reg) (v : Word) : (s.setG n v).castled = s.castled := rfl
@[simp] theorem State.setG_cycle (n : Reg) (v : Word) : (s.setG n v).cycle = s.cycle := rfl
@[simp] theorem State.setG_mp (n : Reg) (v : Word) : (s.setG n v).mp = s.mp := rfl
@[simp] theorem State.setG_agenda (n : Reg) (v : Word) : (s.setG n v).agenda = s.agenda := rfl
@[simp] theorem State.setG_defer (n : Reg) (v : Word) : (s.setG n v).defer = s.defer := rfl
@[simp] theorem State.setG_picks (n : Reg) (v : Word) : (s.setG n v).picks = s.picks := rfl
@[simp] theorem State.setG_curCore (n : Reg) (v : Word) : (s.setG n v).curCore = s.curCore := rfl
@[simp] theorem State.setG_curTid (n : Reg) (v : Word) : (s.setG n v).curTid = s.curTid := rfl
@[simp] theorem State.setG_curWord (n : Reg) (v : Word) : (s.setG n v).curWord = s.curWord := rfl
@[simp] theorem State.setG_turn (n : Reg) (v : Word) : (s.setG n v).turn = s.turn := rfl
@[simp] theorem State.setG_steps (n : Reg) (v : Word) : (s.setG n v).steps = s.steps := rfl
@[simp] theorem State.setG_nextId (n : Reg) (v : Word) : (s.setG n v).nextId = s.nextId := rfl

/-! ## setF -/

@[simp] theorem State.setF_mem (n : Reg) (v : Word) : (s.setF n v).mem = s.mem := rfl
@[simp] theorem State.setF_poison (n : Reg) (v : Word) : (s.setF n v).poison = s.poison := rfl
@[simp] theorem State.setF_struck (n : Reg) (v : Word) : (s.setF n v).struck = s.struck := rfl
@[simp] theorem State.setF_ctxs (n : Reg) (v : Word) : (s.setF n v).ctxs = s.ctxs := rfl
@[simp] theorem State.setF_parts (n : Reg) (v : Word) : (s.setF n v).parts = s.parts := rfl
@[simp] theorem State.setF_vfs (n : Reg) (v : Word) : (s.setF n v).vfs = s.vfs := rfl
@[simp] theorem State.setF_launches (n : Reg) (v : Word) : (s.setF n v).launches = s.launches := rfl
@[simp] theorem State.setF_preds (n : Reg) (v : Word) : (s.setF n v).preds = s.preds := rfl
@[simp] theorem State.setF_recs (n : Reg) (v : Word) : (s.setF n v).recs = s.recs := rfl
@[simp] theorem State.setF_cmds (n : Reg) (v : Word) : (s.setF n v).cmds = s.cmds := rfl
@[simp] theorem State.setF_dies (n : Reg) (v : Word) : (s.setF n v).dies = s.dies := rfl
@[simp] theorem State.setF_segs (n : Reg) (v : Word) : (s.setF n v).segs = s.segs := rfl
@[simp] theorem State.setF_ports (n : Reg) (v : Word) : (s.setF n v).ports = s.ports := rfl
@[simp] theorem State.setF_clusterTlb (n : Reg) (v : Word) : (s.setF n v).clusterTlb = s.clusterTlb := rfl
@[simp] theorem State.setF_nestedTlb (n : Reg) (v : Word) : (s.setF n v).nestedTlb = s.nestedTlb := rfl
@[simp] theorem State.setF_inflight (n : Reg) (v : Word) : (s.setF n v).inflight = s.inflight := rfl
@[simp] theorem State.setF_msgs (n : Reg) (v : Word) : (s.setF n v).msgs = s.msgs := rfl
@[simp] theorem State.setF_posts (n : Reg) (v : Word) : (s.setF n v).posts = s.posts := rfl
@[simp] theorem State.setF_drains (n : Reg) (v : Word) : (s.setF n v).drains = s.drains := rfl
@[simp] theorem State.setF_invals (n : Reg) (v : Word) : (s.setF n v).invals = s.invals := rfl
@[simp] theorem State.setF_castled (n : Reg) (v : Word) : (s.setF n v).castled = s.castled := rfl
@[simp] theorem State.setF_cycle (n : Reg) (v : Word) : (s.setF n v).cycle = s.cycle := rfl
@[simp] theorem State.setF_mp (n : Reg) (v : Word) : (s.setF n v).mp = s.mp := rfl
@[simp] theorem State.setF_agenda (n : Reg) (v : Word) : (s.setF n v).agenda = s.agenda := rfl
@[simp] theorem State.setF_defer (n : Reg) (v : Word) : (s.setF n v).defer = s.defer := rfl
@[simp] theorem State.setF_picks (n : Reg) (v : Word) : (s.setF n v).picks = s.picks := rfl
@[simp] theorem State.setF_curCore (n : Reg) (v : Word) : (s.setF n v).curCore = s.curCore := rfl
@[simp] theorem State.setF_curTid (n : Reg) (v : Word) : (s.setF n v).curTid = s.curTid := rfl
@[simp] theorem State.setF_curWord (n : Reg) (v : Word) : (s.setF n v).curWord = s.curWord := rfl
@[simp] theorem State.setF_turn (n : Reg) (v : Word) : (s.setF n v).turn = s.turn := rfl
@[simp] theorem State.setF_steps (n : Reg) (v : Word) : (s.setF n v).steps = s.steps := rfl
@[simp] theorem State.setF_nextId (n : Reg) (v : Word) : (s.setF n v).nextId = s.nextId := rfl

/-! ## raise -/

@[simp] theorem State.raise_mem (f : Flags) : (s.raise f).mem = s.mem := rfl
@[simp] theorem State.raise_poison (f : Flags) : (s.raise f).poison = s.poison := rfl
@[simp] theorem State.raise_struck (f : Flags) : (s.raise f).struck = s.struck := rfl
@[simp] theorem State.raise_ctxs (f : Flags) : (s.raise f).ctxs = s.ctxs := rfl
@[simp] theorem State.raise_parts (f : Flags) : (s.raise f).parts = s.parts := rfl
@[simp] theorem State.raise_vfs (f : Flags) : (s.raise f).vfs = s.vfs := rfl
@[simp] theorem State.raise_launches (f : Flags) : (s.raise f).launches = s.launches := rfl
@[simp] theorem State.raise_preds (f : Flags) : (s.raise f).preds = s.preds := rfl
@[simp] theorem State.raise_recs (f : Flags) : (s.raise f).recs = s.recs := rfl
@[simp] theorem State.raise_cmds (f : Flags) : (s.raise f).cmds = s.cmds := rfl
@[simp] theorem State.raise_dies (f : Flags) : (s.raise f).dies = s.dies := rfl
@[simp] theorem State.raise_segs (f : Flags) : (s.raise f).segs = s.segs := rfl
@[simp] theorem State.raise_ports (f : Flags) : (s.raise f).ports = s.ports := rfl
@[simp] theorem State.raise_clusterTlb (f : Flags) : (s.raise f).clusterTlb = s.clusterTlb := rfl
@[simp] theorem State.raise_nestedTlb (f : Flags) : (s.raise f).nestedTlb = s.nestedTlb := rfl
@[simp] theorem State.raise_inflight (f : Flags) : (s.raise f).inflight = s.inflight := rfl
@[simp] theorem State.raise_msgs (f : Flags) : (s.raise f).msgs = s.msgs := rfl
@[simp] theorem State.raise_posts (f : Flags) : (s.raise f).posts = s.posts := rfl
@[simp] theorem State.raise_drains (f : Flags) : (s.raise f).drains = s.drains := rfl
@[simp] theorem State.raise_invals (f : Flags) : (s.raise f).invals = s.invals := rfl
@[simp] theorem State.raise_castled (f : Flags) : (s.raise f).castled = s.castled := rfl
@[simp] theorem State.raise_cycle (f : Flags) : (s.raise f).cycle = s.cycle := rfl
@[simp] theorem State.raise_mp (f : Flags) : (s.raise f).mp = s.mp := rfl
@[simp] theorem State.raise_agenda (f : Flags) : (s.raise f).agenda = s.agenda := rfl
@[simp] theorem State.raise_defer (f : Flags) : (s.raise f).defer = s.defer := rfl
@[simp] theorem State.raise_picks (f : Flags) : (s.raise f).picks = s.picks := rfl
@[simp] theorem State.raise_curCore (f : Flags) : (s.raise f).curCore = s.curCore := rfl
@[simp] theorem State.raise_curTid (f : Flags) : (s.raise f).curTid = s.curTid := rfl
@[simp] theorem State.raise_curWord (f : Flags) : (s.raise f).curWord = s.curWord := rfl
@[simp] theorem State.raise_turn (f : Flags) : (s.raise f).turn = s.turn := rfl
@[simp] theorem State.raise_steps (f : Flags) : (s.raise f).steps = s.steps := rfl
@[simp] theorem State.raise_nextId (f : Flags) : (s.raise f).nextId = s.nextId := rfl

/-! ## raiseAt -/

@[simp] theorem State.raiseAt_mem (h tid : Nat) (f : Flags) : (s.raiseAt h tid f).mem = s.mem := rfl
@[simp] theorem State.raiseAt_poison (h tid : Nat) (f : Flags) : (s.raiseAt h tid f).poison = s.poison := rfl
@[simp] theorem State.raiseAt_struck (h tid : Nat) (f : Flags) : (s.raiseAt h tid f).struck = s.struck := rfl
@[simp] theorem State.raiseAt_ctxs (h tid : Nat) (f : Flags) : (s.raiseAt h tid f).ctxs = s.ctxs := rfl
@[simp] theorem State.raiseAt_parts (h tid : Nat) (f : Flags) : (s.raiseAt h tid f).parts = s.parts := rfl
@[simp] theorem State.raiseAt_vfs (h tid : Nat) (f : Flags) : (s.raiseAt h tid f).vfs = s.vfs := rfl
@[simp] theorem State.raiseAt_launches (h tid : Nat) (f : Flags) : (s.raiseAt h tid f).launches = s.launches := rfl
@[simp] theorem State.raiseAt_preds (h tid : Nat) (f : Flags) : (s.raiseAt h tid f).preds = s.preds := rfl
@[simp] theorem State.raiseAt_recs (h tid : Nat) (f : Flags) : (s.raiseAt h tid f).recs = s.recs := rfl
@[simp] theorem State.raiseAt_cmds (h tid : Nat) (f : Flags) : (s.raiseAt h tid f).cmds = s.cmds := rfl
@[simp] theorem State.raiseAt_dies (h tid : Nat) (f : Flags) : (s.raiseAt h tid f).dies = s.dies := rfl
@[simp] theorem State.raiseAt_segs (h tid : Nat) (f : Flags) : (s.raiseAt h tid f).segs = s.segs := rfl
@[simp] theorem State.raiseAt_ports (h tid : Nat) (f : Flags) : (s.raiseAt h tid f).ports = s.ports := rfl
@[simp] theorem State.raiseAt_clusterTlb (h tid : Nat) (f : Flags) : (s.raiseAt h tid f).clusterTlb = s.clusterTlb := rfl
@[simp] theorem State.raiseAt_nestedTlb (h tid : Nat) (f : Flags) : (s.raiseAt h tid f).nestedTlb = s.nestedTlb := rfl
@[simp] theorem State.raiseAt_inflight (h tid : Nat) (f : Flags) : (s.raiseAt h tid f).inflight = s.inflight := rfl
@[simp] theorem State.raiseAt_msgs (h tid : Nat) (f : Flags) : (s.raiseAt h tid f).msgs = s.msgs := rfl
@[simp] theorem State.raiseAt_posts (h tid : Nat) (f : Flags) : (s.raiseAt h tid f).posts = s.posts := rfl
@[simp] theorem State.raiseAt_drains (h tid : Nat) (f : Flags) : (s.raiseAt h tid f).drains = s.drains := rfl
@[simp] theorem State.raiseAt_invals (h tid : Nat) (f : Flags) : (s.raiseAt h tid f).invals = s.invals := rfl
@[simp] theorem State.raiseAt_castled (h tid : Nat) (f : Flags) : (s.raiseAt h tid f).castled = s.castled := rfl
@[simp] theorem State.raiseAt_cycle (h tid : Nat) (f : Flags) : (s.raiseAt h tid f).cycle = s.cycle := rfl
@[simp] theorem State.raiseAt_mp (h tid : Nat) (f : Flags) : (s.raiseAt h tid f).mp = s.mp := rfl
@[simp] theorem State.raiseAt_agenda (h tid : Nat) (f : Flags) : (s.raiseAt h tid f).agenda = s.agenda := rfl
@[simp] theorem State.raiseAt_defer (h tid : Nat) (f : Flags) : (s.raiseAt h tid f).defer = s.defer := rfl
@[simp] theorem State.raiseAt_picks (h tid : Nat) (f : Flags) : (s.raiseAt h tid f).picks = s.picks := rfl
@[simp] theorem State.raiseAt_curCore (h tid : Nat) (f : Flags) : (s.raiseAt h tid f).curCore = s.curCore := rfl
@[simp] theorem State.raiseAt_curTid (h tid : Nat) (f : Flags) : (s.raiseAt h tid f).curTid = s.curTid := rfl
@[simp] theorem State.raiseAt_curWord (h tid : Nat) (f : Flags) : (s.raiseAt h tid f).curWord = s.curWord := rfl
@[simp] theorem State.raiseAt_turn (h tid : Nat) (f : Flags) : (s.raiseAt h tid f).turn = s.turn := rfl
@[simp] theorem State.raiseAt_steps (h tid : Nat) (f : Flags) : (s.raiseAt h tid f).steps = s.steps := rfl
@[simp] theorem State.raiseAt_nextId (h tid : Nat) (f : Flags) : (s.raiseAt h tid f).nextId = s.nextId := rfl

/-! ## retire -/

@[simp] theorem State.retire_mem : (s.retire).mem = s.mem := rfl
@[simp] theorem State.retire_poison : (s.retire).poison = s.poison := rfl
@[simp] theorem State.retire_struck : (s.retire).struck = s.struck := rfl
@[simp] theorem State.retire_ctxs : (s.retire).ctxs = s.ctxs := rfl
@[simp] theorem State.retire_parts : (s.retire).parts = s.parts := rfl
@[simp] theorem State.retire_vfs : (s.retire).vfs = s.vfs := rfl
@[simp] theorem State.retire_launches : (s.retire).launches = s.launches := rfl
@[simp] theorem State.retire_preds : (s.retire).preds = s.preds := rfl
@[simp] theorem State.retire_recs : (s.retire).recs = s.recs := rfl
@[simp] theorem State.retire_cmds : (s.retire).cmds = s.cmds := rfl
@[simp] theorem State.retire_dies : (s.retire).dies = s.dies := rfl
@[simp] theorem State.retire_segs : (s.retire).segs = s.segs := rfl
@[simp] theorem State.retire_ports : (s.retire).ports = s.ports := rfl
@[simp] theorem State.retire_clusterTlb : (s.retire).clusterTlb = s.clusterTlb := rfl
@[simp] theorem State.retire_nestedTlb : (s.retire).nestedTlb = s.nestedTlb := rfl
@[simp] theorem State.retire_inflight : (s.retire).inflight = s.inflight := rfl
@[simp] theorem State.retire_msgs : (s.retire).msgs = s.msgs := rfl
@[simp] theorem State.retire_posts : (s.retire).posts = s.posts := rfl
@[simp] theorem State.retire_drains : (s.retire).drains = s.drains := rfl
@[simp] theorem State.retire_invals : (s.retire).invals = s.invals := rfl
@[simp] theorem State.retire_castled : (s.retire).castled = s.castled := rfl
@[simp] theorem State.retire_cycle : (s.retire).cycle = s.cycle := rfl
@[simp] theorem State.retire_mp : (s.retire).mp = s.mp := rfl
@[simp] theorem State.retire_agenda : (s.retire).agenda = s.agenda := rfl
@[simp] theorem State.retire_defer : (s.retire).defer = s.defer := rfl
@[simp] theorem State.retire_picks : (s.retire).picks = s.picks := rfl
@[simp] theorem State.retire_curCore : (s.retire).curCore = s.curCore := rfl
@[simp] theorem State.retire_curTid : (s.retire).curTid = s.curTid := rfl
@[simp] theorem State.retire_curWord : (s.retire).curWord = s.curWord := rfl
@[simp] theorem State.retire_turn : (s.retire).turn = s.turn := rfl
@[simp] theorem State.retire_steps : (s.retire).steps = s.steps := rfl
@[simp] theorem State.retire_nextId : (s.retire).nextId = s.nextId := rfl

/-! ## jumpTo -/

@[simp] theorem State.jumpTo_mem (a : Word) (c : Bool) : (s.jumpTo a c).mem = s.mem := rfl
@[simp] theorem State.jumpTo_poison (a : Word) (c : Bool) : (s.jumpTo a c).poison = s.poison := rfl
@[simp] theorem State.jumpTo_struck (a : Word) (c : Bool) : (s.jumpTo a c).struck = s.struck := rfl
@[simp] theorem State.jumpTo_ctxs (a : Word) (c : Bool) : (s.jumpTo a c).ctxs = s.ctxs := rfl
@[simp] theorem State.jumpTo_parts (a : Word) (c : Bool) : (s.jumpTo a c).parts = s.parts := rfl
@[simp] theorem State.jumpTo_vfs (a : Word) (c : Bool) : (s.jumpTo a c).vfs = s.vfs := rfl
@[simp] theorem State.jumpTo_launches (a : Word) (c : Bool) : (s.jumpTo a c).launches = s.launches := rfl
@[simp] theorem State.jumpTo_preds (a : Word) (c : Bool) : (s.jumpTo a c).preds = s.preds := rfl
@[simp] theorem State.jumpTo_recs (a : Word) (c : Bool) : (s.jumpTo a c).recs = s.recs := rfl
@[simp] theorem State.jumpTo_cmds (a : Word) (c : Bool) : (s.jumpTo a c).cmds = s.cmds := rfl
@[simp] theorem State.jumpTo_dies (a : Word) (c : Bool) : (s.jumpTo a c).dies = s.dies := rfl
@[simp] theorem State.jumpTo_segs (a : Word) (c : Bool) : (s.jumpTo a c).segs = s.segs := rfl
@[simp] theorem State.jumpTo_ports (a : Word) (c : Bool) : (s.jumpTo a c).ports = s.ports := rfl
@[simp] theorem State.jumpTo_clusterTlb (a : Word) (c : Bool) : (s.jumpTo a c).clusterTlb = s.clusterTlb := rfl
@[simp] theorem State.jumpTo_nestedTlb (a : Word) (c : Bool) : (s.jumpTo a c).nestedTlb = s.nestedTlb := rfl
@[simp] theorem State.jumpTo_inflight (a : Word) (c : Bool) : (s.jumpTo a c).inflight = s.inflight := rfl
@[simp] theorem State.jumpTo_msgs (a : Word) (c : Bool) : (s.jumpTo a c).msgs = s.msgs := rfl
@[simp] theorem State.jumpTo_posts (a : Word) (c : Bool) : (s.jumpTo a c).posts = s.posts := rfl
@[simp] theorem State.jumpTo_drains (a : Word) (c : Bool) : (s.jumpTo a c).drains = s.drains := rfl
@[simp] theorem State.jumpTo_invals (a : Word) (c : Bool) : (s.jumpTo a c).invals = s.invals := rfl
@[simp] theorem State.jumpTo_castled (a : Word) (c : Bool) : (s.jumpTo a c).castled = s.castled := rfl
@[simp] theorem State.jumpTo_cycle (a : Word) (c : Bool) : (s.jumpTo a c).cycle = s.cycle := rfl
@[simp] theorem State.jumpTo_mp (a : Word) (c : Bool) : (s.jumpTo a c).mp = s.mp := rfl
@[simp] theorem State.jumpTo_agenda (a : Word) (c : Bool) : (s.jumpTo a c).agenda = s.agenda := rfl
@[simp] theorem State.jumpTo_defer (a : Word) (c : Bool) : (s.jumpTo a c).defer = s.defer := rfl
@[simp] theorem State.jumpTo_picks (a : Word) (c : Bool) : (s.jumpTo a c).picks = s.picks := rfl
@[simp] theorem State.jumpTo_curCore (a : Word) (c : Bool) : (s.jumpTo a c).curCore = s.curCore := rfl
@[simp] theorem State.jumpTo_curTid (a : Word) (c : Bool) : (s.jumpTo a c).curTid = s.curTid := rfl
@[simp] theorem State.jumpTo_curWord (a : Word) (c : Bool) : (s.jumpTo a c).curWord = s.curWord := rfl
@[simp] theorem State.jumpTo_turn (a : Word) (c : Bool) : (s.jumpTo a c).turn = s.turn := rfl
@[simp] theorem State.jumpTo_steps (a : Word) (c : Bool) : (s.jumpTo a c).steps = s.steps := rfl
@[simp] theorem State.jumpTo_nextId (a : Word) (c : Bool) : (s.jumpTo a c).nextId = s.nextId := rfl

/-! ## block -/

@[simp] theorem State.block_mem (w : Wait) : (s.block w).mem = s.mem := rfl
@[simp] theorem State.block_poison (w : Wait) : (s.block w).poison = s.poison := rfl
@[simp] theorem State.block_struck (w : Wait) : (s.block w).struck = s.struck := rfl
@[simp] theorem State.block_ctxs (w : Wait) : (s.block w).ctxs = s.ctxs := rfl
@[simp] theorem State.block_parts (w : Wait) : (s.block w).parts = s.parts := rfl
@[simp] theorem State.block_vfs (w : Wait) : (s.block w).vfs = s.vfs := rfl
@[simp] theorem State.block_launches (w : Wait) : (s.block w).launches = s.launches := rfl
@[simp] theorem State.block_preds (w : Wait) : (s.block w).preds = s.preds := rfl
@[simp] theorem State.block_recs (w : Wait) : (s.block w).recs = s.recs := rfl
@[simp] theorem State.block_cmds (w : Wait) : (s.block w).cmds = s.cmds := rfl
@[simp] theorem State.block_dies (w : Wait) : (s.block w).dies = s.dies := rfl
@[simp] theorem State.block_segs (w : Wait) : (s.block w).segs = s.segs := rfl
@[simp] theorem State.block_ports (w : Wait) : (s.block w).ports = s.ports := rfl
@[simp] theorem State.block_clusterTlb (w : Wait) : (s.block w).clusterTlb = s.clusterTlb := rfl
@[simp] theorem State.block_nestedTlb (w : Wait) : (s.block w).nestedTlb = s.nestedTlb := rfl
@[simp] theorem State.block_inflight (w : Wait) : (s.block w).inflight = s.inflight := rfl
@[simp] theorem State.block_msgs (w : Wait) : (s.block w).msgs = s.msgs := rfl
@[simp] theorem State.block_posts (w : Wait) : (s.block w).posts = s.posts := rfl
@[simp] theorem State.block_drains (w : Wait) : (s.block w).drains = s.drains := rfl
@[simp] theorem State.block_invals (w : Wait) : (s.block w).invals = s.invals := rfl
@[simp] theorem State.block_castled (w : Wait) : (s.block w).castled = s.castled := rfl
@[simp] theorem State.block_cycle (w : Wait) : (s.block w).cycle = s.cycle := rfl
@[simp] theorem State.block_mp (w : Wait) : (s.block w).mp = s.mp := rfl
@[simp] theorem State.block_agenda (w : Wait) : (s.block w).agenda = s.agenda := rfl
@[simp] theorem State.block_defer (w : Wait) : (s.block w).defer = s.defer := rfl
@[simp] theorem State.block_picks (w : Wait) : (s.block w).picks = s.picks := rfl
@[simp] theorem State.block_curCore (w : Wait) : (s.block w).curCore = s.curCore := rfl
@[simp] theorem State.block_curTid (w : Wait) : (s.block w).curTid = s.curTid := rfl
@[simp] theorem State.block_curWord (w : Wait) : (s.block w).curWord = s.curWord := rfl
@[simp] theorem State.block_turn (w : Wait) : (s.block w).turn = s.turn := rfl
@[simp] theorem State.block_steps (w : Wait) : (s.block w).steps = s.steps := rfl
@[simp] theorem State.block_nextId (w : Wait) : (s.block w).nextId = s.nextId := rfl

/-! ## modCtx -/

@[simp] theorem State.modCtx_cores (c : Nat) (f : Ctx → Ctx) : (s.modCtx c f).cores = s.cores := rfl
@[simp] theorem State.modCtx_mem (c : Nat) (f : Ctx → Ctx) : (s.modCtx c f).mem = s.mem := rfl
@[simp] theorem State.modCtx_poison (c : Nat) (f : Ctx → Ctx) : (s.modCtx c f).poison = s.poison := rfl
@[simp] theorem State.modCtx_struck (c : Nat) (f : Ctx → Ctx) : (s.modCtx c f).struck = s.struck := rfl
@[simp] theorem State.modCtx_parts (c : Nat) (f : Ctx → Ctx) : (s.modCtx c f).parts = s.parts := rfl
@[simp] theorem State.modCtx_vfs (c : Nat) (f : Ctx → Ctx) : (s.modCtx c f).vfs = s.vfs := rfl
@[simp] theorem State.modCtx_launches (c : Nat) (f : Ctx → Ctx) : (s.modCtx c f).launches = s.launches := rfl
@[simp] theorem State.modCtx_preds (c : Nat) (f : Ctx → Ctx) : (s.modCtx c f).preds = s.preds := rfl
@[simp] theorem State.modCtx_recs (c : Nat) (f : Ctx → Ctx) : (s.modCtx c f).recs = s.recs := rfl
@[simp] theorem State.modCtx_cmds (c : Nat) (f : Ctx → Ctx) : (s.modCtx c f).cmds = s.cmds := rfl
@[simp] theorem State.modCtx_dies (c : Nat) (f : Ctx → Ctx) : (s.modCtx c f).dies = s.dies := rfl
@[simp] theorem State.modCtx_segs (c : Nat) (f : Ctx → Ctx) : (s.modCtx c f).segs = s.segs := rfl
@[simp] theorem State.modCtx_ports (c : Nat) (f : Ctx → Ctx) : (s.modCtx c f).ports = s.ports := rfl
@[simp] theorem State.modCtx_clusterTlb (c : Nat) (f : Ctx → Ctx) : (s.modCtx c f).clusterTlb = s.clusterTlb := rfl
@[simp] theorem State.modCtx_nestedTlb (c : Nat) (f : Ctx → Ctx) : (s.modCtx c f).nestedTlb = s.nestedTlb := rfl
@[simp] theorem State.modCtx_inflight (c : Nat) (f : Ctx → Ctx) : (s.modCtx c f).inflight = s.inflight := rfl
@[simp] theorem State.modCtx_msgs (c : Nat) (f : Ctx → Ctx) : (s.modCtx c f).msgs = s.msgs := rfl
@[simp] theorem State.modCtx_posts (c : Nat) (f : Ctx → Ctx) : (s.modCtx c f).posts = s.posts := rfl
@[simp] theorem State.modCtx_drains (c : Nat) (f : Ctx → Ctx) : (s.modCtx c f).drains = s.drains := rfl
@[simp] theorem State.modCtx_invals (c : Nat) (f : Ctx → Ctx) : (s.modCtx c f).invals = s.invals := rfl
@[simp] theorem State.modCtx_castled (c : Nat) (f : Ctx → Ctx) : (s.modCtx c f).castled = s.castled := rfl
@[simp] theorem State.modCtx_cycle (c : Nat) (f : Ctx → Ctx) : (s.modCtx c f).cycle = s.cycle := rfl
@[simp] theorem State.modCtx_mp (c : Nat) (f : Ctx → Ctx) : (s.modCtx c f).mp = s.mp := rfl
@[simp] theorem State.modCtx_agenda (c : Nat) (f : Ctx → Ctx) : (s.modCtx c f).agenda = s.agenda := rfl
@[simp] theorem State.modCtx_defer (c : Nat) (f : Ctx → Ctx) : (s.modCtx c f).defer = s.defer := rfl
@[simp] theorem State.modCtx_picks (c : Nat) (f : Ctx → Ctx) : (s.modCtx c f).picks = s.picks := rfl
@[simp] theorem State.modCtx_curCore (c : Nat) (f : Ctx → Ctx) : (s.modCtx c f).curCore = s.curCore := rfl
@[simp] theorem State.modCtx_curTid (c : Nat) (f : Ctx → Ctx) : (s.modCtx c f).curTid = s.curTid := rfl
@[simp] theorem State.modCtx_curWord (c : Nat) (f : Ctx → Ctx) : (s.modCtx c f).curWord = s.curWord := rfl
@[simp] theorem State.modCtx_turn (c : Nat) (f : Ctx → Ctx) : (s.modCtx c f).turn = s.turn := rfl
@[simp] theorem State.modCtx_steps (c : Nat) (f : Ctx → Ctx) : (s.modCtx c f).steps = s.steps := rfl
@[simp] theorem State.modCtx_nextId (c : Nat) (f : Ctx → Ctx) : (s.modCtx c f).nextId = s.nextId := rfl

/-! ## modPart -/

@[simp] theorem State.modPart_cores (p : Nat) (f : Part → Part) : (s.modPart p f).cores = s.cores := rfl
@[simp] theorem State.modPart_mem (p : Nat) (f : Part → Part) : (s.modPart p f).mem = s.mem := rfl
@[simp] theorem State.modPart_poison (p : Nat) (f : Part → Part) : (s.modPart p f).poison = s.poison := rfl
@[simp] theorem State.modPart_struck (p : Nat) (f : Part → Part) : (s.modPart p f).struck = s.struck := rfl
@[simp] theorem State.modPart_ctxs (p : Nat) (f : Part → Part) : (s.modPart p f).ctxs = s.ctxs := rfl
@[simp] theorem State.modPart_vfs (p : Nat) (f : Part → Part) : (s.modPart p f).vfs = s.vfs := rfl
@[simp] theorem State.modPart_launches (p : Nat) (f : Part → Part) : (s.modPart p f).launches = s.launches := rfl
@[simp] theorem State.modPart_preds (p : Nat) (f : Part → Part) : (s.modPart p f).preds = s.preds := rfl
@[simp] theorem State.modPart_recs (p : Nat) (f : Part → Part) : (s.modPart p f).recs = s.recs := rfl
@[simp] theorem State.modPart_cmds (p : Nat) (f : Part → Part) : (s.modPart p f).cmds = s.cmds := rfl
@[simp] theorem State.modPart_dies (p : Nat) (f : Part → Part) : (s.modPart p f).dies = s.dies := rfl
@[simp] theorem State.modPart_segs (p : Nat) (f : Part → Part) : (s.modPart p f).segs = s.segs := rfl
@[simp] theorem State.modPart_ports (p : Nat) (f : Part → Part) : (s.modPart p f).ports = s.ports := rfl
@[simp] theorem State.modPart_clusterTlb (p : Nat) (f : Part → Part) : (s.modPart p f).clusterTlb = s.clusterTlb := rfl
@[simp] theorem State.modPart_nestedTlb (p : Nat) (f : Part → Part) : (s.modPart p f).nestedTlb = s.nestedTlb := rfl
@[simp] theorem State.modPart_inflight (p : Nat) (f : Part → Part) : (s.modPart p f).inflight = s.inflight := rfl
@[simp] theorem State.modPart_msgs (p : Nat) (f : Part → Part) : (s.modPart p f).msgs = s.msgs := rfl
@[simp] theorem State.modPart_posts (p : Nat) (f : Part → Part) : (s.modPart p f).posts = s.posts := rfl
@[simp] theorem State.modPart_drains (p : Nat) (f : Part → Part) : (s.modPart p f).drains = s.drains := rfl
@[simp] theorem State.modPart_invals (p : Nat) (f : Part → Part) : (s.modPart p f).invals = s.invals := rfl
@[simp] theorem State.modPart_castled (p : Nat) (f : Part → Part) : (s.modPart p f).castled = s.castled := rfl
@[simp] theorem State.modPart_cycle (p : Nat) (f : Part → Part) : (s.modPart p f).cycle = s.cycle := rfl
@[simp] theorem State.modPart_mp (p : Nat) (f : Part → Part) : (s.modPart p f).mp = s.mp := rfl
@[simp] theorem State.modPart_agenda (p : Nat) (f : Part → Part) : (s.modPart p f).agenda = s.agenda := rfl
@[simp] theorem State.modPart_defer (p : Nat) (f : Part → Part) : (s.modPart p f).defer = s.defer := rfl
@[simp] theorem State.modPart_picks (p : Nat) (f : Part → Part) : (s.modPart p f).picks = s.picks := rfl
@[simp] theorem State.modPart_curCore (p : Nat) (f : Part → Part) : (s.modPart p f).curCore = s.curCore := rfl
@[simp] theorem State.modPart_curTid (p : Nat) (f : Part → Part) : (s.modPart p f).curTid = s.curTid := rfl
@[simp] theorem State.modPart_curWord (p : Nat) (f : Part → Part) : (s.modPart p f).curWord = s.curWord := rfl
@[simp] theorem State.modPart_turn (p : Nat) (f : Part → Part) : (s.modPart p f).turn = s.turn := rfl
@[simp] theorem State.modPart_steps (p : Nat) (f : Part → Part) : (s.modPart p f).steps = s.steps := rfl
@[simp] theorem State.modPart_nextId (p : Nat) (f : Part → Part) : (s.modPart p f).nextId = s.nextId := rfl

/-! ## modVf -/

@[simp] theorem State.modVf_cores (v : Nat) (f : Vf → Vf) : (s.modVf v f).cores = s.cores := rfl
@[simp] theorem State.modVf_mem (v : Nat) (f : Vf → Vf) : (s.modVf v f).mem = s.mem := rfl
@[simp] theorem State.modVf_poison (v : Nat) (f : Vf → Vf) : (s.modVf v f).poison = s.poison := rfl
@[simp] theorem State.modVf_struck (v : Nat) (f : Vf → Vf) : (s.modVf v f).struck = s.struck := rfl
@[simp] theorem State.modVf_ctxs (v : Nat) (f : Vf → Vf) : (s.modVf v f).ctxs = s.ctxs := rfl
@[simp] theorem State.modVf_parts (v : Nat) (f : Vf → Vf) : (s.modVf v f).parts = s.parts := rfl
@[simp] theorem State.modVf_launches (v : Nat) (f : Vf → Vf) : (s.modVf v f).launches = s.launches := rfl
@[simp] theorem State.modVf_preds (v : Nat) (f : Vf → Vf) : (s.modVf v f).preds = s.preds := rfl
@[simp] theorem State.modVf_recs (v : Nat) (f : Vf → Vf) : (s.modVf v f).recs = s.recs := rfl
@[simp] theorem State.modVf_cmds (v : Nat) (f : Vf → Vf) : (s.modVf v f).cmds = s.cmds := rfl
@[simp] theorem State.modVf_dies (v : Nat) (f : Vf → Vf) : (s.modVf v f).dies = s.dies := rfl
@[simp] theorem State.modVf_segs (v : Nat) (f : Vf → Vf) : (s.modVf v f).segs = s.segs := rfl
@[simp] theorem State.modVf_ports (v : Nat) (f : Vf → Vf) : (s.modVf v f).ports = s.ports := rfl
@[simp] theorem State.modVf_clusterTlb (v : Nat) (f : Vf → Vf) : (s.modVf v f).clusterTlb = s.clusterTlb := rfl
@[simp] theorem State.modVf_nestedTlb (v : Nat) (f : Vf → Vf) : (s.modVf v f).nestedTlb = s.nestedTlb := rfl
@[simp] theorem State.modVf_inflight (v : Nat) (f : Vf → Vf) : (s.modVf v f).inflight = s.inflight := rfl
@[simp] theorem State.modVf_msgs (v : Nat) (f : Vf → Vf) : (s.modVf v f).msgs = s.msgs := rfl
@[simp] theorem State.modVf_posts (v : Nat) (f : Vf → Vf) : (s.modVf v f).posts = s.posts := rfl
@[simp] theorem State.modVf_drains (v : Nat) (f : Vf → Vf) : (s.modVf v f).drains = s.drains := rfl
@[simp] theorem State.modVf_invals (v : Nat) (f : Vf → Vf) : (s.modVf v f).invals = s.invals := rfl
@[simp] theorem State.modVf_castled (v : Nat) (f : Vf → Vf) : (s.modVf v f).castled = s.castled := rfl
@[simp] theorem State.modVf_cycle (v : Nat) (f : Vf → Vf) : (s.modVf v f).cycle = s.cycle := rfl
@[simp] theorem State.modVf_mp (v : Nat) (f : Vf → Vf) : (s.modVf v f).mp = s.mp := rfl
@[simp] theorem State.modVf_agenda (v : Nat) (f : Vf → Vf) : (s.modVf v f).agenda = s.agenda := rfl
@[simp] theorem State.modVf_defer (v : Nat) (f : Vf → Vf) : (s.modVf v f).defer = s.defer := rfl
@[simp] theorem State.modVf_picks (v : Nat) (f : Vf → Vf) : (s.modVf v f).picks = s.picks := rfl
@[simp] theorem State.modVf_curCore (v : Nat) (f : Vf → Vf) : (s.modVf v f).curCore = s.curCore := rfl
@[simp] theorem State.modVf_curTid (v : Nat) (f : Vf → Vf) : (s.modVf v f).curTid = s.curTid := rfl
@[simp] theorem State.modVf_curWord (v : Nat) (f : Vf → Vf) : (s.modVf v f).curWord = s.curWord := rfl
@[simp] theorem State.modVf_turn (v : Nat) (f : Vf → Vf) : (s.modVf v f).turn = s.turn := rfl
@[simp] theorem State.modVf_steps (v : Nat) (f : Vf → Vf) : (s.modVf v f).steps = s.steps := rfl
@[simp] theorem State.modVf_nextId (v : Nat) (f : Vf → Vf) : (s.modVf v f).nextId = s.nextId := rfl

/-! ## modDie -/

@[simp] theorem State.modDie_cores (d : Nat) (f : Die → Die) : (s.modDie d f).cores = s.cores := rfl
@[simp] theorem State.modDie_mem (d : Nat) (f : Die → Die) : (s.modDie d f).mem = s.mem := rfl
@[simp] theorem State.modDie_poison (d : Nat) (f : Die → Die) : (s.modDie d f).poison = s.poison := rfl
@[simp] theorem State.modDie_struck (d : Nat) (f : Die → Die) : (s.modDie d f).struck = s.struck := rfl
@[simp] theorem State.modDie_ctxs (d : Nat) (f : Die → Die) : (s.modDie d f).ctxs = s.ctxs := rfl
@[simp] theorem State.modDie_parts (d : Nat) (f : Die → Die) : (s.modDie d f).parts = s.parts := rfl
@[simp] theorem State.modDie_vfs (d : Nat) (f : Die → Die) : (s.modDie d f).vfs = s.vfs := rfl
@[simp] theorem State.modDie_launches (d : Nat) (f : Die → Die) : (s.modDie d f).launches = s.launches := rfl
@[simp] theorem State.modDie_preds (d : Nat) (f : Die → Die) : (s.modDie d f).preds = s.preds := rfl
@[simp] theorem State.modDie_recs (d : Nat) (f : Die → Die) : (s.modDie d f).recs = s.recs := rfl
@[simp] theorem State.modDie_cmds (d : Nat) (f : Die → Die) : (s.modDie d f).cmds = s.cmds := rfl
@[simp] theorem State.modDie_segs (d : Nat) (f : Die → Die) : (s.modDie d f).segs = s.segs := rfl
@[simp] theorem State.modDie_ports (d : Nat) (f : Die → Die) : (s.modDie d f).ports = s.ports := rfl
@[simp] theorem State.modDie_clusterTlb (d : Nat) (f : Die → Die) : (s.modDie d f).clusterTlb = s.clusterTlb := rfl
@[simp] theorem State.modDie_nestedTlb (d : Nat) (f : Die → Die) : (s.modDie d f).nestedTlb = s.nestedTlb := rfl
@[simp] theorem State.modDie_inflight (d : Nat) (f : Die → Die) : (s.modDie d f).inflight = s.inflight := rfl
@[simp] theorem State.modDie_msgs (d : Nat) (f : Die → Die) : (s.modDie d f).msgs = s.msgs := rfl
@[simp] theorem State.modDie_posts (d : Nat) (f : Die → Die) : (s.modDie d f).posts = s.posts := rfl
@[simp] theorem State.modDie_drains (d : Nat) (f : Die → Die) : (s.modDie d f).drains = s.drains := rfl
@[simp] theorem State.modDie_invals (d : Nat) (f : Die → Die) : (s.modDie d f).invals = s.invals := rfl
@[simp] theorem State.modDie_castled (d : Nat) (f : Die → Die) : (s.modDie d f).castled = s.castled := rfl
@[simp] theorem State.modDie_cycle (d : Nat) (f : Die → Die) : (s.modDie d f).cycle = s.cycle := rfl
@[simp] theorem State.modDie_mp (d : Nat) (f : Die → Die) : (s.modDie d f).mp = s.mp := rfl
@[simp] theorem State.modDie_agenda (d : Nat) (f : Die → Die) : (s.modDie d f).agenda = s.agenda := rfl
@[simp] theorem State.modDie_defer (d : Nat) (f : Die → Die) : (s.modDie d f).defer = s.defer := rfl
@[simp] theorem State.modDie_picks (d : Nat) (f : Die → Die) : (s.modDie d f).picks = s.picks := rfl
@[simp] theorem State.modDie_curCore (d : Nat) (f : Die → Die) : (s.modDie d f).curCore = s.curCore := rfl
@[simp] theorem State.modDie_curTid (d : Nat) (f : Die → Die) : (s.modDie d f).curTid = s.curTid := rfl
@[simp] theorem State.modDie_curWord (d : Nat) (f : Die → Die) : (s.modDie d f).curWord = s.curWord := rfl
@[simp] theorem State.modDie_turn (d : Nat) (f : Die → Die) : (s.modDie d f).turn = s.turn := rfl
@[simp] theorem State.modDie_steps (d : Nat) (f : Die → Die) : (s.modDie d f).steps = s.steps := rfl
@[simp] theorem State.modDie_nextId (d : Nat) (f : Die → Die) : (s.modDie d f).nextId = s.nextId := rfl

/-! ## fresh -/

@[simp] theorem State.fresh_cores : (s.fresh.2).cores = s.cores := rfl
@[simp] theorem State.fresh_mem : (s.fresh.2).mem = s.mem := rfl
@[simp] theorem State.fresh_poison : (s.fresh.2).poison = s.poison := rfl
@[simp] theorem State.fresh_struck : (s.fresh.2).struck = s.struck := rfl
@[simp] theorem State.fresh_ctxs : (s.fresh.2).ctxs = s.ctxs := rfl
@[simp] theorem State.fresh_parts : (s.fresh.2).parts = s.parts := rfl
@[simp] theorem State.fresh_vfs : (s.fresh.2).vfs = s.vfs := rfl
@[simp] theorem State.fresh_launches : (s.fresh.2).launches = s.launches := rfl
@[simp] theorem State.fresh_preds : (s.fresh.2).preds = s.preds := rfl
@[simp] theorem State.fresh_recs : (s.fresh.2).recs = s.recs := rfl
@[simp] theorem State.fresh_cmds : (s.fresh.2).cmds = s.cmds := rfl
@[simp] theorem State.fresh_dies : (s.fresh.2).dies = s.dies := rfl
@[simp] theorem State.fresh_segs : (s.fresh.2).segs = s.segs := rfl
@[simp] theorem State.fresh_ports : (s.fresh.2).ports = s.ports := rfl
@[simp] theorem State.fresh_clusterTlb : (s.fresh.2).clusterTlb = s.clusterTlb := rfl
@[simp] theorem State.fresh_nestedTlb : (s.fresh.2).nestedTlb = s.nestedTlb := rfl
@[simp] theorem State.fresh_inflight : (s.fresh.2).inflight = s.inflight := rfl
@[simp] theorem State.fresh_msgs : (s.fresh.2).msgs = s.msgs := rfl
@[simp] theorem State.fresh_posts : (s.fresh.2).posts = s.posts := rfl
@[simp] theorem State.fresh_drains : (s.fresh.2).drains = s.drains := rfl
@[simp] theorem State.fresh_invals : (s.fresh.2).invals = s.invals := rfl
@[simp] theorem State.fresh_castled : (s.fresh.2).castled = s.castled := rfl
@[simp] theorem State.fresh_cycle : (s.fresh.2).cycle = s.cycle := rfl
@[simp] theorem State.fresh_mp : (s.fresh.2).mp = s.mp := rfl
@[simp] theorem State.fresh_agenda : (s.fresh.2).agenda = s.agenda := rfl
@[simp] theorem State.fresh_defer : (s.fresh.2).defer = s.defer := rfl
@[simp] theorem State.fresh_picks : (s.fresh.2).picks = s.picks := rfl
@[simp] theorem State.fresh_curCore : (s.fresh.2).curCore = s.curCore := rfl
@[simp] theorem State.fresh_curTid : (s.fresh.2).curTid = s.curTid := rfl
@[simp] theorem State.fresh_curWord : (s.fresh.2).curWord = s.curWord := rfl
@[simp] theorem State.fresh_turn : (s.fresh.2).turn = s.turn := rfl
@[simp] theorem State.fresh_steps : (s.fresh.2).steps = s.steps := rfl

end Sys2Proof.Machine
end

