-- ==== Sys2Proof/Laws/Table.lean ====
section
/-! SUPPORT. Reading a table after a change of it. -/

namespace Sys2Proof.Machine

variable {α : Type}

theorem tget_tput_same (t : Table α) (i : Nat) (x : α) : tget (tput t i x) i = some x := by
  induction t with
  | nil => simp [tput, tget]
  | cons e t ih =>
    obtain ⟨k, v⟩ := e
    simp only [tput]
    split
    · simp [tget]
    · split
      · simp [tget]
      · rename_i h; simp [tget, Ne.symm h, ih]

theorem tget_tput_ne (t : Table α) {i j : Nat} (x : α) (h : i ≠ j) : tget (tput t i x) j = tget t j := by
  induction t with
  | nil => simp [tput, tget, h]
  | cons e t ih =>
    obtain ⟨k, v⟩ := e
    simp only [tput]
    split
    · simp [tget, h]
    · split
      · rename_i h'; subst h'; simp [tget, h]
      · simp [tget, ih]

theorem tget_tput (t : Table α) (i j : Nat) (x : α) :
    tget (tput t i x) j = if i = j then some x else tget t j := by
  split
  · rename_i h; subst h; exact tget_tput_same t i x
  · rename_i h; exact tget_tput_ne t x h

theorem tput_tput (t : Table α) (i : Nat) (x y : α) : tput (tput t i x) i y = tput t i y := by
  induction t with
  | nil => simp [tput]
  | cons e t ih =>
    obtain ⟨k, v⟩ := e
    simp only [tput]
    split
    · simp [tput]
    · split
      · simp [tput]
      · rename_i h1 h2; simp [tput, h1, h2, ih]

theorem tget_tdel (t : Table α) (i j : Nat) : tget (tdel t i) j = if i = j then none else tget t j := by
  induction t with
  | nil => simp [tdel, tget]
  | cons e t ih =>
    obtain ⟨k, v⟩ := e
    simp only [tdel, List.filter_cons] at ih ⊢
    by_cases h : k = i
    · subst h
      simp only [bne_self_eq_false, Bool.false_eq_true, if_false, ih, tget]
      split <;> rfl
    · simp only [bne_iff_ne, ne_eq, h, not_false_eq_true, if_true, tget, ih]
      split
      · rename_i h'; subst h'; simp [Ne.symm h]
      · rfl

theorem tget_tmod (t : Table α) (i j : Nat) (f : α → α) :
    tget (tmod t i f) j = if i = j then (tget t j).map f else tget t j := by
  induction t with
  | nil => simp [tmod, tget]
  | cons e t ih =>
    obtain ⟨k, v⟩ := e
    simp only [tmod, List.map_cons] at ih ⊢
    by_cases h : k = i
    · subst h
      simp only [if_true, tget, ih]
      split <;> simp_all
    · simp only [h, if_false, tget, ih]
      split
      · rename_i h'; subst h'; simp [Ne.symm h]
      · rfl

theorem tget_tmap (t : Table α) (f : Nat → α → α) (j : Nat) : tget (tmap t f) j = (tget t j).map (f j) := by
  induction t with
  | nil => simp [tmap, tget]
  | cons e t ih =>
    obtain ⟨k, v⟩ := e
    simp only [tmap, List.map_cons] at ih ⊢
    simp only [tget, ih]
    split
    · rename_i h; subst h; rfl
    · rfl

end Sys2Proof.Machine
end

