-- ==== Sys2Proof/Laws/Regs.lean ====
section
/-! SUPPORT. Cores, threads and registers: a read after a write, and what completing an instruction leaves alone. -/

namespace Sys2Proof.Machine

/-! ## Cores and threads -/

theorem State.core_setCore (s : State) (h h' : Nat) (c : Core) :
    (s.setCore h c).core h' = if h = h' then c else s.core h' := by
  simp only [State.core, State.setCore, tget_tput]; split <;> rfl

@[simp] theorem State.core_modCore_same (s : State) (h : Nat) (f : Core → Core) :
    (s.modCore h f).core h = f (s.core h) := by simp [State.modCore, State.core_setCore]

theorem State.core_modCore_ne (s : State) {h h' : Nat} (f : Core → Core) (hne : h ≠ h') :
    (s.modCore h f).core h' = s.core h' := by simp [State.modCore, State.core_setCore, hne]

theorem Core.thread_modThread (c : Core) (tid tid' : Nat) (f : Thread → Thread) :
    (c.modThread tid f).thread tid' = if tid = tid' then f (c.thread tid) else c.thread tid' := by
  simp only [Core.thread, Core.modThread, tget_tput]; split <;> rfl

@[simp] theorem State.thread_modThread_same (s : State) (h tid : Nat) (f : Thread → Thread) :
    (s.modThread h tid f).thread h tid = f (s.thread h tid) := by
  simp [State.thread, State.modThread, Core.thread_modThread]

theorem State.thread_modThread_ne (s : State) {h tid h' tid' : Nat} (f : Thread → Thread)
    (hne : ¬(h = h' ∧ tid = tid')) : (s.modThread h tid f).thread h' tid' = s.thread h' tid' := by
  by_cases hh : h = h'
  · subst hh
    have : tid ≠ tid' := fun e => hne ⟨rfl, e⟩
    simp [State.thread, State.modThread, Core.thread_modThread, this]
  · simp [State.thread, State.modThread, State.core_modCore_ne, hh]

@[simp] theorem State.cur_modCur (s : State) (f : Thread → Thread) : (s.modCur f).cur = f s.cur := by
  simp [State.cur, State.modCur]

/-- Two changes of the same thread, the second after the first. -/
theorem State.modThread_modThread (s : State) (h tid : Nat) (f g : Thread → Thread) :
    (s.modThread h tid f).modThread h tid g = s.modThread h tid (fun t => g (f t)) := by
  simp [State.modThread, State.modCore, State.setCore, State.core, Core.modThread, Core.thread, tget_tput, tput_tput]

@[simp] theorem State.modCur_modCur (s : State) (f g : Thread → Thread) :
    (s.modCur f).modCur g = s.modCur (fun t => g (f t)) := by
  simp [State.modCur, State.modThread_modThread]

/-! ## Registers -/

theorem Regs.readG_zero (r : Regs) : r.readG 0 = 0 := by simp [Regs.readG]

theorem Regs.readG_writeG (r : Regs) (d n : Reg) (v : Word) :
    (r.writeG d v).readG n = if n = d ∧ d ≠ 0 then v else r.readG n := by
  unfold Regs.readG Regs.writeG
  by_cases hd : d = 0
  · simp [hd]
  · by_cases hn : n = d
    · simp [hn, hd]
    · simp only [hd, hn, if_false, false_and]
      split
      · rfl
      · simp only [Fin.getElem_fin]
        rw [Vector.getElem_set_ne]
        intro he; exact hn (Fin.ext he.symm)

theorem Regs.readF_writeG (r : Regs) (d n : Reg) (v : Word) : (r.writeG d v).readF n = r.readF n := by
  unfold Regs.writeG Regs.readF; split <;> rfl

theorem Regs.readF_writeF (r : Regs) (d n : Reg) (v : Word) :
    (r.writeF d v).readF n = if n = d then v else r.readF n := by
  unfold Regs.readF Regs.writeF
  split
  · rename_i h; subst h; simp
  · rename_i h
    simp only [Fin.getElem_fin]
    rw [Vector.getElem_set_ne]
    intro he; exact h (Fin.ext he.symm)

theorem Regs.readG_writeF (r : Regs) (d n : Reg) (v : Word) : (r.writeF d v).readG n = r.readG n := rfl

@[simp] theorem Regs.writeG_pc (r : Regs) (d : Reg) (v : Word) : (r.writeG d v).pc = r.pc := by
  unfold Regs.writeG; split <;> rfl
@[simp] theorem Regs.writeG_f (r : Regs) (d : Reg) (v : Word) : (r.writeG d v).f = r.f := by
  unfold Regs.writeG; split <;> rfl
@[simp] theorem Regs.writeG_fflags (r : Regs) (d : Reg) (v : Word) : (r.writeG d v).fflags = r.fflags := by
  unfold Regs.writeG; split <;> rfl
@[simp] theorem Regs.writeG_loop0 (r : Regs) (d : Reg) (v : Word) : (r.writeG d v).loop0 = r.loop0 := by
  unfold Regs.writeG; split <;> rfl
@[simp] theorem Regs.writeG_loop1 (r : Regs) (d : Reg) (v : Word) : (r.writeG d v).loop1 = r.loop1 := by
  unfold Regs.writeG; split <;> rfl
@[simp] theorem Regs.writeF_pc (r : Regs) (d : Reg) (v : Word) : (r.writeF d v).pc = r.pc := rfl
@[simp] theorem Regs.writeF_g (r : Regs) (d : Reg) (v : Word) : (r.writeF d v).g = r.g := rfl
@[simp] theorem Regs.writeF_fflags (r : Regs) (d : Reg) (v : Word) : (r.writeF d v).fflags = r.fflags := rfl
@[simp] theorem Regs.writeF_loop0 (r : Regs) (d : Reg) (v : Word) : (r.writeF d v).loop0 = r.loop0 := rfl
@[simp] theorem Regs.writeF_loop1 (r : Regs) (d : Reg) (v : Word) : (r.writeF d v).loop1 = r.loop1 := rfl
@[simp] theorem Regs.raise_g (r : Regs) (x : Flags) : (r.raise x).g = r.g := rfl
@[simp] theorem Regs.raise_f (r : Regs) (x : Flags) : (r.raise x).f = r.f := rfl
@[simp] theorem Regs.raise_pc (r : Regs) (x : Flags) : (r.raise x).pc = r.pc := rfl
@[simp] theorem Regs.raise_fflags (r : Regs) (x : Flags) : (r.raise x).fflags = r.fflags ||| x := rfl
@[simp] theorem Regs.raise_loop0 (r : Regs) (x : Flags) : (r.raise x).loop0 = r.loop0 := rfl
@[simp] theorem Regs.raise_loop1 (r : Regs) (x : Flags) : (r.raise x).loop1 = r.loop1 := rfl

/-! ## The program counter -/

/-- after_instruction, level 1 before level 0 (R121). -/
theorem Regs.loopReturn_eq (r : Regs) (a n : Word) :
    r.loopReturn a n =
      if r.loop1.cnt ≠ 0 ∧ a = r.loop1.lend then
        ({ r with loop1 := { r.loop1 with cnt := r.loop1.cnt - 1 } }, if r.loop1.cnt - 1 ≠ 0 then r.loop1.sta else n)
      else if r.loop0.cnt ≠ 0 ∧ a = r.loop0.lend then
        ({ r with loop0 := { r.loop0 with cnt := r.loop0.cnt - 1 } }, if r.loop0.cnt - 1 ≠ 0 then r.loop0.sta else n)
      else (r, n) := by
  by_cases h1 : r.loop1.cnt ≠ 0 ∧ a = r.loop1.lend
  · simp only [Regs.loopReturn, Regs.loop, Regs.setLoop, if_true, if_pos h1]
  · by_cases h0 : r.loop0.cnt ≠ 0 ∧ a = r.loop0.lend
    · simp only [Regs.loopReturn, Regs.loop, Regs.setLoop, if_true, if_neg h1, if_pos h0, Bool.false_eq_true, if_false,
        Option.getD_some]
    · simp only [Regs.loopReturn, Regs.loop, Regs.setLoop, if_true, if_neg h1, if_neg h0, Bool.false_eq_true, if_false,
        Option.getD_none]

/-- after_instruction touches only the counts of the loop levels (R121). -/
theorem Regs.loopReturn_keeps (r : Regs) (a n : Word) :
    (r.loopReturn a n).1.g = r.g ∧ (r.loopReturn a n).1.f = r.f ∧ (r.loopReturn a n).1.fflags = r.fflags := by
  rw [Regs.loopReturn_eq]
  split
  · exact ⟨rfl, rfl, rfl⟩
  · split <;> exact ⟨rfl, rfl, rfl⟩

/-- Where no level is active the next address stands (R121). -/
theorem Regs.loopReturn_idle (r : Regs) (a n : Word) (h0 : r.loop0.cnt = 0) (h1 : r.loop1.cnt = 0) :
    r.loopReturn a n = (r, n) := by
  simp [Regs.loopReturn, Regs.loop, h0, h1]

/-- What completing an instruction leaves of the registers (R121). -/
theorem Thread.advance_keeps (t : Thread) :
    t.advance.r.g = t.r.g ∧ t.advance.r.f = t.r.f ∧ t.advance.r.fflags = t.r.fflags := by
  have := Regs.loopReturn_keeps t.r t.r.pc (t.r.pc + 4)
  simp only [Thread.advance, Thread.tick]
  exact this

@[simp] theorem Thread.advance_t (t : Thread) : t.advance.t = t.t := rfl
@[simp] theorem Thread.advance_u (t : Thread) : t.advance.u = t.u := rfl
@[simp] theorem Thread.advance_wait (t : Thread) : t.advance.wait = .none := rfl
@[simp] theorem Thread.advance_plyCtr (t : Thread) : t.advance.plyCtr = t.plyCtr := rfl
@[simp] theorem Thread.advance_ring (t : Thread) : t.advance.ring = t.ring := rfl
@[simp] theorem Thread.advance_late (t : Thread) : t.advance.late = t.late := rfl
@[simp] theorem Thread.advance_bound (t : Thread) : t.advance.bound = t.bound := rfl

end Sys2Proof.Machine
end

