-- ==== Sys2Proof/Laws/Results.lean ====
section
/-! SUPPORT. What an instruction that writes one register leaves: one lemma for each of the shared operations that the
integer and floating-point meanings end in. -/

namespace Sys2Proof.Machine

/-- A change of the executing thread is one. -/
theorem onlyThread_modCur (s : State) (f : Thread → Thread) : OnlyThread s (s.modCur f) := by
  refine ⟨rfl, ?_, ?_, ?_, fun _ => rfl⟩
  · intro h hne; exact State.core_modCore_ne _ _ (Ne.symm hne)
  · simp only [State.modCur, State.modThread, State.core_modCore_same, Core.modThread]
  · intro tid hne
    exact State.thread_modThread_ne _ _ (by intro h; exact hne h.2.symm)

theorem result_eq (s : State) (d : Reg) (v : Word) (f : Flags) :
    ((s.setG d v).raise f).retire = s.modCur (fun t => ((t.modR (·.writeG d v)).modR (·.raise f)).advance) := by
  simp only [State.setG, State.raise, State.retire, State.modCur_modCur]

/-- An instruction that writes g[d] with flags. -/
theorem writesG_resultF (s : State) (d : Reg) (v : Word) (f : Flags) :
    WritesG (s.resultF d v f) s d v f := by
  refine ⟨_, rfl, ?_, ?_, ?_, ?_, ?_, ?_⟩ <;> rw [result_eq]
  · exact onlyThread_modCur _ _
  · simp only [KeepsThread, State.cur_modCur]; rfl
  · simp only [GoesOn, State.cur_modCur]
    refine ⟨rfl, fun h0 h1 => ?_⟩
    simp only [Thread.advance, Thread.tick, Thread.modR, Regs.loopReturn_eq, Regs.raise_loop0, Regs.raise_loop1,
      Regs.writeG_loop0, Regs.writeG_loop1, h0, h1]
    simp
  · intro n
    simp only [State.g, State.cur_modCur]
    have := (Thread.advance_keeps ((s.cur.modR (·.writeG d v)).modR (·.raise f))).1
    simp only [Regs.readG, this]
    exact Regs.readG_writeG s.cur.r d n v
  · intro n
    simp only [State.f, State.cur_modCur]
    have := (Thread.advance_keeps ((s.cur.modR (·.writeG d v)).modR (·.raise f))).2.1
    simp only [Regs.readF, this]
    exact Regs.readF_writeG s.cur.r d n v
  · simp only [State.cur_modCur, (Thread.advance_keeps _).2.2]
    simp [Thread.modR]

theorem result_resultF (s : State) (d : Reg) (v : Word) : s.result d v = s.resultF d v 0 := by
  have h (r : Regs) : r.raise 0 = r := by simp [Regs.raise]
  simp only [State.result, State.resultF, result_eq]
  simp only [State.setG, State.retire, State.modCur_modCur, Thread.modR, h]

/-- An instruction that writes g[d]. -/
theorem writesG_result (s : State) (d : Reg) (v : Word) : WritesG (s.result d v) s d v 0 := by
  rw [result_resultF]; exact writesG_resultF s d v 0

theorem resultFp_eq (s : State) (d : Reg) (v : Word) (f : Flags) :
    ((s.setF d v).raise f).retire = s.modCur (fun t => ((t.modR (·.writeF d v)).modR (·.raise f)).advance) := by
  simp only [State.setF, State.raise, State.retire, State.modCur_modCur]

/-- An instruction that writes f[d] with flags. -/
theorem writesF_raise (s : State) (d : Reg) (v : Word) (f : Flags) :
    WritesF (.next ((s.setF d v).raise f).retire) s d v f := by
  refine ⟨_, rfl, ?_, ?_, ?_, ?_, ?_, ?_⟩ <;> rw [resultFp_eq]
  · exact onlyThread_modCur _ _
  · simp only [KeepsThread, State.cur_modCur]; rfl
  · simp only [GoesOn, State.cur_modCur]
    refine ⟨rfl, fun h0 h1 => ?_⟩
    simp only [Thread.advance, Thread.tick, Thread.modR, Regs.loopReturn_eq, Regs.raise_loop0, Regs.raise_loop1,
      Regs.writeF_loop0, Regs.writeF_loop1, h0, h1]
    simp
  · intro n
    simp only [State.f, State.cur_modCur]
    have := (Thread.advance_keeps ((s.cur.modR (·.writeF d v)).modR (·.raise f))).2.1
    simp only [Regs.readF, this]
    exact Regs.readF_writeF s.cur.r d n v
  · intro n
    simp only [State.g, State.cur_modCur]
    have := (Thread.advance_keeps ((s.cur.modR (·.writeF d v)).modR (·.raise f))).1
    simp only [Regs.readG, this]
    rfl
  · simp only [State.cur_modCur, (Thread.advance_keeps _).2.2]
    simp [Thread.modR]

end Sys2Proof.Machine

namespace Sys2Proof.Machine

/-! ## Going on, jumping, trapping -/

/-- An instruction that only completes. -/
theorem passesOn_retire (s : State) : PassesOn (.next s.retire) s := by
  refine ⟨_, rfl, onlyThread_modCur _ _, ?_, ?_, ?_, ?_, ?_⟩
  · simp only [KeepsThread, State.retire, State.cur_modCur]; rfl
  · simp only [GoesOn, State.retire, State.cur_modCur]
    refine ⟨rfl, fun h0 h1 => ?_⟩
    simp only [Thread.advance, Thread.tick, Regs.loopReturn_eq, h0, h1]
    simp
  · intro n; simp only [State.g, State.retire, State.cur_modCur, Regs.readG, (Thread.advance_keeps _).1]
  · intro n; simp only [State.f, State.retire, State.cur_modCur, Regs.readF, (Thread.advance_keeps _).2.1]
  · simp only [State.retire, State.cur_modCur, (Thread.advance_keeps _).2.2]

/-- cancelLoops touches only the counts of the levels that are left (R121). -/
theorem Regs.cancelLoops_eq (r : Regs) (a q : Word) :
    r.cancelLoops a q =
      { r with
        loop0 := if (r.loop0.sta.toNat ≤ a.toNat ∧ a.toNat ≤ r.loop0.lend.toNat) ∧
            ¬(r.loop0.sta.toNat ≤ q.toNat ∧ q.toNat ≤ r.loop0.lend.toNat) then { r.loop0 with cnt := 0 } else r.loop0
        loop1 := if (r.loop1.sta.toNat ≤ a.toNat ∧ a.toNat ≤ r.loop1.lend.toNat) ∧
            ¬(r.loop1.sta.toNat ≤ q.toNat ∧ q.toNat ≤ r.loop1.lend.toNat) then { r.loop1 with cnt := 0 }
          else r.loop1 } := by
  simp only [Regs.cancelLoops, Regs.loop, Regs.setLoop, if_true, Bool.false_eq_true, if_false, Bool.and_eq_true,
    Bool.not_eq_true', decide_eq_true_eq, Bool.and_eq_false_iff, decide_eq_false_iff_not, Classical.not_and_iff_not_or_not]
  split <;> split <;> simp_all

/-- An instruction that sets the program counter. -/
theorem jumpsTo_jumpTo (s : State) (q : Word) (c : Bool) : JumpsTo (.next (s.jumpTo q c)) s q := by
  have h : (s.jumpTo q c).cur = s.cur.jump q c := State.cur_modCur _ _
  refine ⟨_, rfl, onlyThread_modCur _ _, ?_, ⟨?_, ?_, ?_⟩, ?_, ?_, ?_, ?_⟩
  · simp only [KeepsThread, h]; rfl
  · intro n; simp only [State.g, h, Thread.jump, Thread.tick, Regs.cancelLoops_eq]; cases c <;> rfl
  · intro n; simp only [State.f, h, Thread.jump, Thread.tick, Regs.cancelLoops_eq]; cases c <;> rfl
  · simp only [h, Thread.jump, Thread.tick, Regs.cancelLoops_eq]; cases c <;> rfl
  · simp only [h]; rfl
  · intro hw; simp only [h]; exact hw
  · intro h0
    simp only [h, Thread.jump, Thread.tick, Regs.cancelLoops_eq]
    cases c
    · rfl
    · simp only [if_true]; split
      · simp only [← h0]
      · rfl
  · intro h1
    simp only [h, Thread.jump, Thread.tick, Regs.cancelLoops_eq]
    cases c
    · rfl
    · simp only [if_true]; split
      · simp only [← h1]
      · rfl

/-- With nothing of the thread in flight there is nothing to drain. -/
theorem State.drain_quiet (s : State) (p : Access → Bool) (h : Quiet s) : s.drain s.curCore s.curTid p = s := by
  unfold State.drain
  rw [List.filter_eq_nil_iff.2]
  · rfl
  · intro x hx hc
    simp only [Bool.and_eq_true, beq_iff_eq] at hc
    exact h.1 x hx hc.1

theorem State.takeRefused_quiet (s : State) (h : Quiet s) : s.takeRefused s.curCore s.curTid = none := by
  have : (s.thread s.curCore s.curTid).refused = [] := h.2
  simp only [State.takeRefused, this, List.isEmpty_nil, if_true]

/-- An exact trap of a thread with nothing pending: its handler is entered, or a message goes out (R124). -/
theorem takesTrap_trapAt (s : State) (code info : Nat) (epc : Word) (hq : Quiet s) (hi : info < 2 ^ 56) :
    TakesTrap (.next (s.trapAt code info epc)) s code info epc := by
  have ht : s.trapAt code info epc = takeTrap s s.curCore s.curTid
      { code := code, info := info, epc := epc, ply := 0, late := false, waddr := s.cur.r.pc, word := s.curWord } := by
    simp only [State.trapAt, State.drainPend, State.drain_quiet _ _ hq, State.takeRefused_quiet _ hq]
  have hc : (s.thread s.curCore s.curTid) = s.cur := rfl
  rw [ht]
  constructor
  · intro hh
    refine ⟨_, rfl, ?_⟩
    simp only [takeTrap, hc, if_pos (show s.cur.t.tvec.getLsbD 0 = true ∧ s.cur.t.inh = false from hh)]
    refine ⟨onlyThread_modCur _ _, ?_⟩
    have := State.cur_modCur s (fun th =>
      { th with
        t := { th.t with
          tepc := epc &&& ~~~3#64
          tcause := Trap.cause { code := code, info := info, epc := epc, ply := 0, late := false, waddr := s.cur.r.pc, word := s.curWord }
          inh := true }
        r := { th.r with pc := s.cur.t.tvec &&& ~~~3#64 }
        wait := .none })
    simp only [State.modCur] at this
    simp only [Bool.false_eq_true, if_false]
    refine this.trans ?_
    simp only [Trap.cause, w64, Nat.mod_eq_of_lt hi]
  · intro hh
    simp only [takeTrap, hc, if_neg (show ¬(s.cur.t.tvec.getLsbD 0 = true ∧ s.cur.t.inh = false) from hh),
      State.addPost, State.fresh]
    refine ⟨_, _, rfl, rfl, ?_, rfl, rfl, rfl, rfl, ?_, rfl, rfl⟩
    · simp only [State.cur, State.modThread, State.modCore, State.setCore, State.thread, State.core, tget_tput,
        Core.modThread, Core.thread, if_true, Option.getD_some]
    · simp only [trapBody, Trap.cause, w64, Nat.mod_eq_of_lt hi]; rfl

end Sys2Proof.Machine
end

