-- ==== Sys2Proof/Laws/Access.lean ====
section
/-! SUPPORT. What the shared operations of scalar memory access do when nothing of the thread is in flight: an access is
performed at once, at the core's own bank. -/

namespace Sys2Proof.Machine

/-! ## Performing the last access in flight -/

theorem mustPrecede_other {e a : Access} (h : ¬(e.h = a.h ∧ e.tid = a.tid)) : mustPrecede e a = false := by
  simp only [mustPrecede, Bool.and_eq_false_iff, beq_eq_false_iff_ne]
  by_cases h1 : e.h = a.h
  · left; left; right; exact fun h2 => h ⟨h1, h2⟩
  · left; left; left; exact h1

/-- An access whose thread has no earlier one in flight is performed at once. -/
theorem State.perform_last (s : State) (l : List Access) (a : Access) (hl : s.inflight = l ++ [a])
    (hid : ∀ x ∈ l, x.id ≠ a.id) (ho : ∀ x ∈ l, ¬(x.h = a.h ∧ x.tid = a.tid)) :
    s.perform a.id = s.performAccess a := by
  have hf : (l ++ [a]).find? (fun x => x.id == a.id) = some a := by
    rw [List.find?_append, List.find?_eq_none.2 (by intro x hx; simpa using hid x hx)]; simp
  have ht : (l ++ [a]).takeWhile (fun e => e.id != a.id) = l := by
    rw [List.takeWhile_append_of_pos (by intro x hx; simpa using hid x hx)]; simp
  have hfold (k : List Access) (hk : ∀ x ∈ k, x ∈ l) (n : Nat) :
      k.foldl (fun s e => if mustPrecede e a then State.performGo n s e.id else s) s = s := by
    induction k with
    | nil => rfl
    | cons x k ih =>
      rw [List.foldl_cons, mustPrecede_other (ho x (hk x (List.mem_cons_self ..)))]
      exact ih (fun y hy => hk y (List.mem_cons_of_mem _ hy))
  unfold State.perform State.performGo
  simp only [hl, hf, ht, hfold l (fun _ h => h)]
  simp

/-! ## The window of a claimed bank -/

theorem InBank.localCheck {s : State} {va : Word} {n : Nat} (h : InBank s va n) :
    s.localCheck s.curCore va.toNat = none := by
  have hi := h.inside
  simp only [State.localCheck, h.compute, h.claimed, h.visible]
  simp only [Bool.false_eq_true, if_false, Bool.not_true, if_neg (show ¬0x180000 ≤ va.toNat by omega)]

/-- The place of a byte of a claimed bank is in the alias of the core. -/
theorem InBank.place {s : State} {va : Word} {n : Nat} (h : InBank s va n) :
    ∃ off, off < 0x180000 ∧ s.physAddr s.curCore va.toNat = aliasBase s.curCore + off := by
  have hp := h.physical
  refine ⟨(s.core s.curCore).phys (va.toNat / 0x4000) * 0x4000 + va.toNat % 0x4000, by omega, ?_⟩
  simp only [State.physAddr, h.compute, Bool.false_eq_true, if_false]
  omega

theorem aliasBase_ge (h : Nat) : spaAlias ≤ aliasBase h := by
  simp only [aliasBase]; omega

theorem aliasBase_lt (h : Nat) : aliasBase h + 0x200000 ≤ spaAlias + 2 ^ 33 := by
  have := hilbertXY_lt h
  simp only [aliasBase]; omega

/-- Bytes of an alias are read as memory holds them. -/
theorem State.byteAt_alias (s : State) {a : Nat} (h : spaAlias ≤ a) : s.byteAt a = memGet s.mem a := by
  rw [State.byteAt, if_neg]
  simp only [spaHost, spaAlias] at h ⊢
  omega

theorem State.readLoc_alias (s : State) {a : Nat} (n : Nat) (h : spaAlias ≤ a) :
    s.readLoc (.mem a) n = memBytes s.mem a n := by
  simp only [State.readLoc, memBytes]
  apply List.map_congr_left
  intro i _
  exact s.byteAt_alias (by omega)

theorem State.poisoned_alias (s : State) {a : Nat} (n : Nat) (h : spaAlias ≤ a) : s.poisoned (.mem a) n = false := by
  simp only [State.poisoned, Bool.and_eq_false_iff, decide_eq_false_iff_not]
  left
  simp only [spaAlias] at h
  omega

/-! ## The thread of the resident unit -/

/-- A change of a thread of the unit that is resident, in a partition that is not castled out. -/
theorem State.modUnitThread_resident (s : State) (h tid : Nat) (f : Thread → Thread)
    (hu : (s.core h).unit.isSome = true) (hc : ∀ x ∈ s.castled, x.part ≠ (s.ctx (s.unitId h).ctx).part) :
    s.modUnitThread h (s.unitId h) tid f = s.modThread h tid f := by
  have hid : (s.core h).unit.map (·.id) = some (s.unitId h) := by
    obtain ⟨r, hr⟩ := Option.isSome_iff_exists.1 hu
    simp [State.unitId, hr]
  have hm : s.modCore h (·.modUnitThread (s.unitId h) tid f) = s.modThread h tid f := by
    simp only [State.modCore, State.modThread, Core.modUnitThread, hid, if_true]
  simp only [State.modUnitThread, hm]
  have hl : (s.modThread h tid f).castled = s.castled := rfl
  rw [hl]
  have : s.castled.map (fun x =>
      if ((s.modThread h tid f).ctx (s.unitId h).ctx).part = x.part then
        { x with cores := tmod x.cores h (·.modUnitThread (s.unitId h) tid f) } else x) = s.castled := by
    refine (List.map_congr_left (g := id) ?_).trans (List.map_id _)
    intro x hx
    exact if_neg (fun e => hc x hx e.symm)
  rw [this, ← hl]

/-! ## An access of a claimed bank -/

/-- The record of an access of the local window. -/
def localRec (s : State) (q : Req) : Access :=
  { id := s.nextId, h := s.curCore, tid := s.curTid, unit := s.unitId s.curCore
    path := if q.scope = .dom ∨ q.scope = .sys then .loopBack else .localPort, va := q.va, addr := q.va.toNat, size := q.size
    kind := q.kind, reg := q.reg, epc := s.cur.r.pc, scope := q.scope, release := q.release
    acquire := q.acquire, fence := false }

/-- A store queue with room makes no store wait (R146). -/
theorem State.storeRoom_fits (s : State) (h : Nat) (hq : (s.storeQueue h).length < 32) : s.storeRoom h = s := by
  unfold State.storeRoom
  split
  · rfl
  · next b l hl =>
    rw [hl, List.length_cons] at hq
    exact if_neg (by omega)

/-- The end of an access of a unit that goes on has no further effect. -/
theorem State.accessOver_runs (s : State) (u : UnitId) (h : s.unitOver u = false) : s.accessOver u = s := by
  rw [State.accessOver, h]; rfl

/-- Nothing of its thread in flight: an access of a claimed bank that does not stay in flight is performed at its issue. -/
theorem State.access_now (s : State) (q : Req) (hr : Ready s) (hb : InBank s q.va q.size)
    (hp : (∃ sg, q.kind = .load sg) ∨ s.provisional s.curCore = false ∨
      ((∃ v, q.kind = .store v) ∧ q.release = false ∧ q.scope ≠ .dom ∧ q.scope ≠ .sys))
    (hst : ((∃ v, q.kind = .store v) ∧ s.defer = []) ∨ ((∀ v, q.kind ≠ .store v) ∧ q.look = 0)) :
    s.access q =
      (let s1 : State := { s with nextId := s.nextId + 1, inflight := s.inflight ++ [localRec s q] }
       let s2 := s1.performAccess (localRec s q)
       match s2.takeRefused s.curCore s.curTid with
       | some s => s
       | none => s2.retire) := by
  have ha : q.va.toNat % q.size = 0 := hb.aligned
  have hw : q.va.toNat < 0x200000 := by have := hb.inside; omega
  have hd : s.drain s.curCore s.curTid (·.acquire) = s := State.drain_quiet _ _ hr.quiet
  have hf := hr.unfenced
  have key : s.launchAccess q 0 = (let s1 : State := { s with nextId := s.nextId + 1, inflight := s.inflight ++ [localRec s q] }
       let s2 := s1.performAccess (localRec s q)
       match s2.takeRefused s.curCore s.curTid with
       | some s => s
       | none => s2.retire) := by
    have hper : (({ s with nextId := s.nextId + 1, inflight := s.inflight ++ [localRec s q] } : State)).perform (localRec s q).id = ({ s with nextId := s.nextId + 1, inflight := s.inflight ++ [localRec s q] } : State).performAccess (localRec s q) :=
      State.perform_last _ s.inflight (localRec s q) rfl (fun x hx => hr.fresh x hx) (fun x hx => hr.quiet.1 x hx)
    unfold State.launchAccess
    simp only [hd, hf, Option.isSome_none, Bool.and_false, State.pathOf, if_pos hw, State.fresh, Bool.or_false,
      Bool.false_eq_true, if_false]
    rcases hst with ⟨⟨v, hv⟩, hdf⟩ | ⟨hns, hlook⟩
    · have hroom : ({ s with nextId := s.nextId + 1 } : State).storeRoom s.curCore = { s with nextId := s.nextId + 1 } :=
        State.storeRoom_fits _ _ hr.room
      simp only [hv, State.deferNext, hdf, true_or, if_true, Bool.not_true, if_false, Bool.false_eq_true]
      simp only [hdf] at hroom
      simp only [hroom]
      have := congrArg (fun z => match z.takeRefused s.curCore s.curTid with | some s => s | none => z.retire) hper
      rw [← hv]
      simp only [hdf] at this ⊢
      exact this
    · have : (match q.kind with | .store _ => true | _ => false) = false := by
        cases hk : q.kind <;> simp_all
      simp only [hlook]
      have := congrArg (fun z => match z.takeRefused s.curCore s.curTid with | some s => s | none => z.retire) hper
      simp only [Bool.not_false, Bool.false_eq_true, Nat.lt_irrefl, or_self, if_false]
      exact this
  unfold State.access
  simp only [ha, hw, ne_eq, not_true_eq_false, if_false, if_true, hb.localCheck]
  rcases hp with ⟨sg, hsg⟩ | hp | ⟨⟨v, hv⟩, h1, h2, h3⟩
  · simp only [hsg]; simpa using key
  · simp only [hp, Bool.false_and, Bool.false_eq_true, if_false]; exact key
  · simp only [hv, h1, h2, h3, decide_false, Bool.or_self, Bool.and_false, Bool.false_eq_true, if_false]; exact key

theorem Ready.filter {s : State} (h : Ready s) (q : Req) :
    (s.inflight ++ [localRec s q]).filter (fun b => b.id != (localRec s q).id) = s.inflight := by
  rw [List.filter_append, List.filter_eq_self.2 (by intro x hx; simpa [localRec] using h.fresh x hx)]
  simp [localRec]

theorem localRec_loc {s : State} {q : Req} (hb : InBank s q.va q.size) (t : State)
    (ht : t.physAddr s.curCore q.va.toNat = s.physAddr s.curCore q.va.toNat) :
    t.accessLoc (localRec s q) = some (.mem (s.physAddr s.curCore q.va.toNat)) := by
  have hw : q.va.toNat < 0x200000 := by have := hb.inside; omega
  simp only [State.accessLoc, localRec, if_pos hw, ht]

/-- A load of a claimed bank: its register takes what the bytes there give, and nothing else changes. -/
theorem State.access_load (s : State) (q : Req) (sg : Bool) (hr : Ready s) (hb : InBank s q.va q.size)
    (hk : q.kind = .load sg) (hl : q.look = 0) :
    s.access q =
      { s.modCur (fun t => (t.finish (localRec s q)
          (loaded q.kind q.size (memRead s.mem (s.physAddr s.curCore q.va.toNat) q.size))).advance) with
        nextId := s.nextId + 1 } := by
  obtain ⟨off, hoff, hpl⟩ := hb.place
  have hal : spaAlias ≤ s.physAddr s.curCore q.va.toNat := by have := aliasBase_ge s.curCore; omega
  rw [State.access_now s q hr hb (.inl ⟨sg, hk⟩) (.inr ⟨(by intro v; rw [hk]; exact fun h => nomatch h), hl⟩)]
  let s0 : State := { s with nextId := s.nextId + 1 }
  have hp : ({ s with nextId := s.nextId + 1, inflight := s.inflight ++ [localRec s q] } : State).performAccess
      (localRec s q) = s0.modCur (fun t => t.finish (localRec s q)
          (loaded q.kind q.size (memRead s.mem (s.physAddr s.curCore q.va.toNat) q.size))) := by
    unfold State.performAccess
    refine (congrArg (State.accessOver · _) (?_ : State.carryOut _ _ = _)).trans (State.accessOver_runs _ _ hr.runs)
    unfold State.carryOut
    simp only [hr.filter q]
    have hloc := localRec_loc hb s0 rfl
    simp only [s0] at hloc
    simp only [hloc, show (localRec s q).kind = .load sg from hk, hk,
      State.poisoned_alias _ _ hal, Bool.false_eq_true, if_false, State.readLoc_alias _ _ hal]
    exact State.modUnitThread_resident s0 s.curCore s.curTid _ hr.unit hr.here
  simp only [hp]
  have hq : (s0.modCur (fun t => t.finish (localRec s q)
      (loaded q.kind q.size (memRead s.mem (s.physAddr s.curCore q.va.toNat) q.size)))).takeRefused s.curCore s.curTid =
      none := by
    apply State.takeRefused_quiet
    exact ⟨hr.quiet.1, by rw [State.cur_modCur]; exact hr.quiet.2⟩
  simp only [hq]
  show State.retire _ = _
  simp only [State.retire, State.modCur_modCur]
  rfl

/-! ## Writing a claimed bank -/

theorem homeOf_alias {a : Nat} (h : spaAlias ≤ a) : homeOf a = .core (aliasParts (a - spaAlias)).1 := by
  have h1 : ¬a < 2 ^ 41 := by simp only [spaAlias] at h; omega
  rw [homeOf, if_neg h1, if_pos h]

/-- A write of bytes of a compute core's alias is a write of memory and nothing else. -/
theorem State.storeLoc_bank {s : State} {va : Word} {n : Nat} (hb : InBank s va n) (t : State) (c : Nat) (bs : List Byte) :
    t.storeLoc c (.mem (s.physAddr s.curCore va.toNat)) bs =
      { t with mem := memStore t.mem (s.physAddr s.curCore va.toNat) bs } := by
  obtain ⟨off, hoff, hpl⟩ := hb.place
  have hge := aliasBase_ge s.curCore
  have hal : spaAlias ≤ s.physAddr s.curCore va.toNat := by omega
  have hraw : t.storeRaw c (.mem (s.physAddr s.curCore va.toNat)) bs =
      { t with mem := memStore t.mem (s.physAddr s.curCore va.toNat) bs } := by
    simp only [State.storeRaw, State.writeLoc, State.writeMem, homeOf_alias hal, if_pos hal]
    rw [hpl, aliasParts_alias hb.core (by omega)]
    simp only [State.hookRaw, hb.compute, Bool.not_false, if_true]
  simp only [State.storeLoc, hraw, State.settleFrom, if_true]

/-- A store into a claimed bank of the core. -/
theorem State.access_store (s : State) (q : Req) (v : Word) (hr : Ready s) (hb : InBank s q.va q.size)
    (hk : q.kind = .store v) (hd : s.defer = [])
    (hp : s.provisional s.curCore = false ∨ q.release = false ∧ q.scope ≠ .dom ∧ q.scope ≠ .sys) :
    s.access q =
      { s.modCur Thread.advance with
        mem := memStore s.mem (s.physAddr s.curCore q.va.toNat) (bytesOf q.size v.toNat)
        nextId := s.nextId + 1 } := by
  rw [State.access_now s q hr hb (.inr (hp.imp id (fun h => ⟨⟨v, hk⟩, h⟩))) (.inl ⟨⟨v, hk⟩, hd⟩)]
  let s0 : State := { s with nextId := s.nextId + 1 }
  have hpa : ({ s with nextId := s.nextId + 1, inflight := s.inflight ++ [localRec s q] } : State).performAccess
      (localRec s q) =
      { s0 with mem := memStore s.mem (s.physAddr s.curCore q.va.toNat) (bytesOf q.size v.toNat) } := by
    unfold State.performAccess
    refine (congrArg (State.accessOver · _) (?_ : State.carryOut _ _ = _)).trans (State.accessOver_runs _ _ hr.runs)
    unfold State.carryOut
    simp only [hr.filter q]
    have hloc := localRec_loc hb s0 rfl
    simp only [s0] at hloc
    simp only [hloc, show (localRec s q).kind = .store v from hk]
    exact State.storeLoc_bank hb s0 _ _
  simp only [hpa]
  have hq : ({ s0 with mem := memStore s.mem (s.physAddr s.curCore q.va.toNat) (bytesOf q.size v.toNat) } :
      State).takeRefused s.curCore s.curTid = none := State.takeRefused_quiet _ ⟨hr.quiet.1, hr.quiet.2⟩
  simp only [hq]
  rfl

/-- An atomic on a claimed bank of the core (R182). -/
theorem State.access_atomic (s : State) (q : Req) (op : AtOp) (v n : Word) (hr : Ready s) (hb : InBank s q.va q.size)
    (hk : q.kind = .atomic op v n) (hl : q.look = 0) (hp : s.provisional s.curCore = false) :
    s.access q =
      { s.modCur (fun t => (t.finish (localRec s q)
          (loaded q.kind q.size (memRead s.mem (s.physAddr s.curCore q.va.toNat) q.size))).advance) with
        mem := memStore s.mem (s.physAddr s.curCore q.va.toNat) (bytesOf q.size
          (atomicNew op q.size (memRead s.mem (s.physAddr s.curCore q.va.toNat) q.size) v.toNat n.toNat))
        nextId := s.nextId + 1 } := by
  obtain ⟨off, hoff, hpl⟩ := hb.place
  have hal : spaAlias ≤ s.physAddr s.curCore q.va.toNat := by have := aliasBase_ge s.curCore; omega
  rw [State.access_now s q hr hb (.inr (.inl hp)) (.inr ⟨(by intro v; rw [hk]; exact fun h => nomatch h), hl⟩)]
  let m := memStore s.mem (s.physAddr s.curCore q.va.toNat) (bytesOf q.size
          (atomicNew op q.size (memRead s.mem (s.physAddr s.curCore q.va.toNat) q.size) v.toNat n.toNat))
  let s0 : State := { s with nextId := s.nextId + 1 }
  let s1 : State := { s0 with mem := m }
  have hpa : ({ s with nextId := s.nextId + 1, inflight := s.inflight ++ [localRec s q] } : State).performAccess
      (localRec s q) = s1.modCur (fun t => t.finish (localRec s q)
          (loaded q.kind q.size (memRead s.mem (s.physAddr s.curCore q.va.toNat) q.size))) := by
    unfold State.performAccess
    refine (congrArg (State.accessOver · _) (?_ : State.carryOut _ _ = _)).trans (State.accessOver_runs _ _ hr.runs)
    unfold State.carryOut
    simp only [hr.filter q]
    have hloc := localRec_loc hb s0 rfl
    simp only [s0] at hloc
    simp only [hloc, show (localRec s q).kind = .atomic op v n from hk, hk,
      State.poisoned_alias _ _ hal, Bool.false_eq_true, if_false, State.readLoc_alias _ _ hal]
    have hst := State.storeLoc_bank hb s0 (localRec s q).unit.ctx (bytesOf q.size
          (atomicNew op q.size (memRead s.mem (s.physAddr s.curCore q.va.toNat) q.size) v.toNat n.toNat))
    refine (congrArg (fun t => State.modUnitThread t _ _ _ _) hst).trans ?_
    exact State.modUnitThread_resident s1 s.curCore s.curTid _ hr.unit hr.here
  simp only [hpa]
  have hq : (s1.modCur (fun t => t.finish (localRec s q)
      (loaded q.kind q.size (memRead s.mem (s.physAddr s.curCore q.va.toNat) q.size)))).takeRefused s.curCore s.curTid =
      none := by
    apply State.takeRefused_quiet
    exact ⟨hr.quiet.1, by rw [State.cur_modCur]; exact hr.quiet.2⟩
  simp only [hq]
  show State.retire _ = _
  simp only [State.retire, State.modCur_modCur]
  rfl

end Sys2Proof.Machine
end

