-- ==== Sys2Proof/Laws/PerInstr.lean ====
section
/-! SUPPORT. A fact about every instruction as syntax: its encoding fits the one word of R53; a step of the module has
none. -/

namespace Sys2Proof.Laws.Sized

/-- The encoding of an instruction is a 32-bit word (R53). -/
def Statement (i : Instr) : Prop := ∀ w, encode? i = some w → w < 2 ^ 32

theorem regs_le (d a b : Reg) : regs d a b ≤ 0x3FFF800 := by
  have hd := d.isLt
  have ha := a.isLt
  have hb := b.isLt
  unfold regs
  omega

theorem rnd_le (r : Rnd) : r.code ≤ 4 := by cases r <;> decide
theorem prec_le (p : Prec) : p.code ≤ 1 := by cases p <;> decide
theorem lane_le (l : LaneW) : l.code ≤ 2 := by cases l <;> decide
theorem order_le (o : Order) : o.code ≤ 3 := by cases o <;> decide
theorem scope_le (s : Scope) : s.code ≤ 4 := by cases s <;> decide
theorem tileSt_le (t : TileSt) : t.code ≤ 3 := by cases t <;> decide
theorem level_le (l : CLevel) : l.code ≤ 4 := by cases l <;> decide
theorem bool_le (b : Bool) : b.toNat ≤ 1 := by cases b <;> decide

theorem of_word {i : Instr} {v : Nat} (h : encode? i = some v) (hv : v < 2 ^ 32) : Statement i := by
  intro w hw
  have := Option.some.inj (h.symm.trans hw)
  omega

theorem of_none {i : Instr} (h : encode? i = none) : Statement i := by
  intro w hw
  rw [h] at hw
  cases hw

theorem add (d : Reg) (a : Reg) (b : Reg) : Statement (.add d a b) :=
  of_word rfl (by have := regs_le d a b; omega)

theorem sub (d : Reg) (a : Reg) (b : Reg) : Statement (.sub d a b) :=
  of_word rfl (by have := regs_le d a b; omega)

theorem mul (d : Reg) (a : Reg) (b : Reg) : Statement (.mul d a b) :=
  of_word rfl (by have := regs_le d a b; omega)

theorem mulh (d : Reg) (a : Reg) (b : Reg) : Statement (.mulh d a b) :=
  of_word rfl (by have := regs_le d a b; omega)

theorem mulhz (d : Reg) (a : Reg) (b : Reg) : Statement (.mulhz d a b) :=
  of_word rfl (by have := regs_le d a b; omega)

theorem div (d : Reg) (a : Reg) (b : Reg) : Statement (.div d a b) :=
  of_word rfl (by have := regs_le d a b; omega)

theorem divz (d : Reg) (a : Reg) (b : Reg) : Statement (.divz d a b) :=
  of_word rfl (by have := regs_le d a b; omega)

theorem rem (d : Reg) (a : Reg) (b : Reg) : Statement (.rem d a b) :=
  of_word rfl (by have := regs_le d a b; omega)

theorem remz (d : Reg) (a : Reg) (b : Reg) : Statement (.remz d a b) :=
  of_word rfl (by have := regs_le d a b; omega)

theorem and (d : Reg) (a : Reg) (b : Reg) : Statement (.and d a b) :=
  of_word rfl (by have := regs_le d a b; omega)

theorem or (d : Reg) (a : Reg) (b : Reg) : Statement (.or d a b) :=
  of_word rfl (by have := regs_le d a b; omega)

theorem xor (d : Reg) (a : Reg) (b : Reg) : Statement (.xor d a b) :=
  of_word rfl (by have := regs_le d a b; omega)

theorem andn (d : Reg) (a : Reg) (b : Reg) : Statement (.andn d a b) :=
  of_word rfl (by have := regs_le d a b; omega)

theorem sll (d : Reg) (a : Reg) (b : Reg) : Statement (.sll d a b) :=
  of_word rfl (by have := regs_le d a b; omega)

theorem srl (d : Reg) (a : Reg) (b : Reg) : Statement (.srl d a b) :=
  of_word rfl (by have := regs_le d a b; omega)

theorem sra (d : Reg) (a : Reg) (b : Reg) : Statement (.sra d a b) :=
  of_word rfl (by have := regs_le d a b; omega)

theorem rol (d : Reg) (a : Reg) (b : Reg) : Statement (.rol d a b) :=
  of_word rfl (by have := regs_le d a b; omega)

theorem ror (d : Reg) (a : Reg) (b : Reg) : Statement (.ror d a b) :=
  of_word rfl (by have := regs_le d a b; omega)

theorem slt (d : Reg) (a : Reg) (b : Reg) : Statement (.slt d a b) :=
  of_word rfl (by have := regs_le d a b; omega)

theorem sltz (d : Reg) (a : Reg) (b : Reg) : Statement (.sltz d a b) :=
  of_word rfl (by have := regs_le d a b; omega)

theorem min (d : Reg) (a : Reg) (b : Reg) : Statement (.min d a b) :=
  of_word rfl (by have := regs_le d a b; omega)

theorem max (d : Reg) (a : Reg) (b : Reg) : Statement (.max d a b) :=
  of_word rfl (by have := regs_le d a b; omega)

theorem minz (d : Reg) (a : Reg) (b : Reg) : Statement (.minz d a b) :=
  of_word rfl (by have := regs_le d a b; omega)

theorem maxz (d : Reg) (a : Reg) (b : Reg) : Statement (.maxz d a b) :=
  of_word rfl (by have := regs_le d a b; omega)

theorem sel (d : Reg) (a : Reg) (b : Reg) : Statement (.sel d a b) :=
  of_word rfl (by have := regs_le d a b; omega)

theorem clz (d : Reg) (a : Reg) : Statement (.clz d a) :=
  of_word rfl (by have := regs_le d a 0; omega)

theorem ctz (d : Reg) (a : Reg) : Statement (.ctz d a) :=
  of_word rfl (by have := regs_le d a 0; omega)

theorem ffs (d : Reg) (a : Reg) : Statement (.ffs d a) :=
  of_word rfl (by have := regs_le d a 0; omega)

theorem popc (d : Reg) (a : Reg) : Statement (.popc d a) :=
  of_word rfl (by have := regs_le d a 0; omega)

theorem brev (d : Reg) (a : Reg) : Statement (.brev d a) :=
  of_word rfl (by have := regs_le d a 0; omega)

theorem bswap (d : Reg) (a : Reg) : Statement (.bswap d a) :=
  of_word rfl (by have := regs_le d a 0; omega)

theorem addw (d : Reg) (a : Reg) (b : Reg) : Statement (.addw d a b) :=
  of_word rfl (by have := regs_le d a b; omega)

theorem subw (d : Reg) (a : Reg) (b : Reg) : Statement (.subw d a b) :=
  of_word rfl (by have := regs_le d a b; omega)

theorem mulw (d : Reg) (a : Reg) (b : Reg) : Statement (.mulw d a b) :=
  of_word rfl (by have := regs_le d a b; omega)

theorem divw (d : Reg) (a : Reg) (b : Reg) : Statement (.divw d a b) :=
  of_word rfl (by have := regs_le d a b; omega)

theorem divwz (d : Reg) (a : Reg) (b : Reg) : Statement (.divwz d a b) :=
  of_word rfl (by have := regs_le d a b; omega)

theorem remw (d : Reg) (a : Reg) (b : Reg) : Statement (.remw d a b) :=
  of_word rfl (by have := regs_le d a b; omega)

theorem remwz (d : Reg) (a : Reg) (b : Reg) : Statement (.remwz d a b) :=
  of_word rfl (by have := regs_le d a b; omega)

theorem sllw (d : Reg) (a : Reg) (b : Reg) : Statement (.sllw d a b) :=
  of_word rfl (by have := regs_le d a b; omega)

theorem srlw (d : Reg) (a : Reg) (b : Reg) : Statement (.srlw d a b) :=
  of_word rfl (by have := regs_le d a b; omega)

theorem sraw (d : Reg) (a : Reg) (b : Reg) : Statement (.sraw d a b) :=
  of_word rfl (by have := regs_le d a b; omega)

theorem addi (d : Reg) (a : Reg) (imm : BitVec 16) : Statement (.addi d a imm) :=
  of_word rfl (by have := regs_le d a 0; have := imm.isLt; omega)

theorem andi (d : Reg) (a : Reg) (imm : BitVec 16) : Statement (.andi d a imm) :=
  of_word rfl (by have := regs_le d a 0; have := imm.isLt; omega)

theorem ori (d : Reg) (a : Reg) (imm : BitVec 16) : Statement (.ori d a imm) :=
  of_word rfl (by have := regs_le d a 0; have := imm.isLt; omega)

theorem xori (d : Reg) (a : Reg) (imm : BitVec 16) : Statement (.xori d a imm) :=
  of_word rfl (by have := regs_le d a 0; have := imm.isLt; omega)

theorem slti (d : Reg) (a : Reg) (imm : BitVec 16) : Statement (.slti d a imm) :=
  of_word rfl (by have := regs_le d a 0; have := imm.isLt; omega)

theorem sltzi (d : Reg) (a : Reg) (imm : BitVec 16) : Statement (.sltzi d a imm) :=
  of_word rfl (by have := regs_le d a 0; have := imm.isLt; omega)

theorem slli (d : Reg) (a : Reg) (amt : Fin 64) : Statement (.slli d a amt) :=
  of_word rfl (by have := regs_le d a 0; have := amt.isLt; omega)

theorem srli (d : Reg) (a : Reg) (amt : Fin 64) : Statement (.srli d a amt) :=
  of_word rfl (by have := regs_le d a 0; have := amt.isLt; omega)

theorem srai (d : Reg) (a : Reg) (amt : Fin 64) : Statement (.srai d a amt) :=
  of_word rfl (by have := regs_le d a 0; have := amt.isLt; omega)

theorem rori (d : Reg) (a : Reg) (amt : Fin 64) : Statement (.rori d a amt) :=
  of_word rfl (by have := regs_le d a 0; have := amt.isLt; omega)

theorem slliw (d : Reg) (a : Reg) (amt : Fin 32) : Statement (.slliw d a amt) :=
  of_word rfl (by have := regs_le d a 0; have := amt.isLt; omega)

theorem srliw (d : Reg) (a : Reg) (amt : Fin 32) : Statement (.srliw d a amt) :=
  of_word rfl (by have := regs_le d a 0; have := amt.isLt; omega)

theorem sraiw (d : Reg) (a : Reg) (amt : Fin 32) : Statement (.sraiw d a amt) :=
  of_word rfl (by have := regs_le d a 0; have := amt.isLt; omega)

theorem roriw (d : Reg) (a : Reg) (amt : Fin 32) : Statement (.roriw d a amt) :=
  of_word rfl (by have := regs_le d a 0; have := amt.isLt; omega)

theorem li (d : Reg) (imm : BitVec 21) : Statement (.li d imm) :=
  of_word rfl (by have := regs_le d 0 0; have := imm.isLt; omega)

theorem lsi (d : Reg) (imm : BitVec 21) : Statement (.lsi d imm) :=
  of_word rfl (by have := regs_le d 0 0; have := imm.isLt; omega)

theorem padd (d : Reg) (a : Reg) (b : Reg) (lane : LaneW) : Statement (.padd d a b lane) :=
  of_word rfl (by have := regs_le d a b; have := lane_le lane; omega)

theorem psub (d : Reg) (a : Reg) (b : Reg) (lane : LaneW) : Statement (.psub d a b lane) :=
  of_word rfl (by have := regs_le d a b; have := lane_le lane; omega)

theorem padds (d : Reg) (a : Reg) (b : Reg) (lane : LaneW) (z : Bool) : Statement (.padds d a b lane z) :=
  of_word rfl (by have := regs_le d a b; have := lane_le lane; have := bool_le z; omega)

theorem psubs (d : Reg) (a : Reg) (b : Reg) (lane : LaneW) (z : Bool) : Statement (.psubs d a b lane z) :=
  of_word rfl (by have := regs_le d a b; have := lane_le lane; have := bool_le z; omega)

theorem pmul (d : Reg) (a : Reg) (b : Reg) (lane : LaneW) : Statement (.pmul d a b lane) :=
  of_word rfl (by have := regs_le d a b; have := lane_le lane; omega)

theorem pmulh (d : Reg) (a : Reg) (b : Reg) (lane : LaneW) (z : Bool) : Statement (.pmulh d a b lane z) :=
  of_word rfl (by have := regs_le d a b; have := lane_le lane; have := bool_le z; omega)

theorem pdiv (d : Reg) (a : Reg) (b : Reg) (lane : LaneW) (z : Bool) : Statement (.pdiv d a b lane z) :=
  of_word rfl (by have := regs_le d a b; have := lane_le lane; have := bool_le z; omega)

theorem prem (d : Reg) (a : Reg) (b : Reg) (lane : LaneW) (z : Bool) : Statement (.prem d a b lane z) :=
  of_word rfl (by have := regs_le d a b; have := lane_le lane; have := bool_le z; omega)

theorem pmin (d : Reg) (a : Reg) (b : Reg) (lane : LaneW) (z : Bool) : Statement (.pmin d a b lane z) :=
  of_word rfl (by have := regs_le d a b; have := lane_le lane; have := bool_le z; omega)

theorem pmax (d : Reg) (a : Reg) (b : Reg) (lane : LaneW) (z : Bool) : Statement (.pmax d a b lane z) :=
  of_word rfl (by have := regs_le d a b; have := lane_le lane; have := bool_le z; omega)

theorem pceq (d : Reg) (a : Reg) (b : Reg) (lane : LaneW) : Statement (.pceq d a b lane) :=
  of_word rfl (by have := regs_le d a b; have := lane_le lane; omega)

theorem pclt (d : Reg) (a : Reg) (b : Reg) (lane : LaneW) (z : Bool) : Statement (.pclt d a b lane z) :=
  of_word rfl (by have := regs_le d a b; have := lane_le lane; have := bool_le z; omega)

theorem psll (d : Reg) (a : Reg) (b : Reg) (lane : LaneW) : Statement (.psll d a b lane) :=
  of_word rfl (by have := regs_le d a b; have := lane_le lane; omega)

theorem psrl (d : Reg) (a : Reg) (b : Reg) (lane : LaneW) : Statement (.psrl d a b lane) :=
  of_word rfl (by have := regs_le d a b; have := lane_le lane; omega)

theorem psra (d : Reg) (a : Reg) (b : Reg) (lane : LaneW) : Statement (.psra d a b lane) :=
  of_word rfl (by have := regs_le d a b; have := lane_le lane; omega)

theorem pclz (d : Reg) (a : Reg) (lane : LaneW) : Statement (.pclz d a lane) :=
  of_word rfl (by have := regs_le d a 0; have := lane_le lane; omega)

theorem pctz (d : Reg) (a : Reg) (lane : LaneW) : Statement (.pctz d a lane) :=
  of_word rfl (by have := regs_le d a 0; have := lane_le lane; omega)

theorem pffs (d : Reg) (a : Reg) (lane : LaneW) : Statement (.pffs d a lane) :=
  of_word rfl (by have := regs_le d a 0; have := lane_le lane; omega)

theorem ppopc (d : Reg) (a : Reg) (lane : LaneW) : Statement (.ppopc d a lane) :=
  of_word rfl (by have := regs_le d a 0; have := lane_le lane; omega)

theorem bextz (d : Reg) (a : Reg) (pos : Fin 64) (len : Fin 64) : Statement (.bextz d a pos len) :=
  of_word rfl (by have := regs_le d a 0; have := pos.isLt; have := len.isLt; omega)

theorem bexti (d : Reg) (a : Reg) (pos : Fin 64) (len : Fin 64) : Statement (.bexti d a pos len) :=
  of_word rfl (by have := regs_le d a 0; have := pos.isLt; have := len.isLt; omega)

theorem bdep (d : Reg) (a : Reg) (pos : Fin 64) (len : Fin 64) : Statement (.bdep d a pos len) :=
  of_word rfl (by have := regs_le d a 0; have := pos.isLt; have := len.isLt; omega)

theorem lb (d : Reg) (base : Reg) (imm : BitVec 12) (look : Fin 16) : Statement (.lb d base imm look) :=
  of_word rfl (by have := regs_le d base 0; have := imm.isLt; have := look.isLt; omega)

theorem lbz (d : Reg) (base : Reg) (imm : BitVec 12) (look : Fin 16) : Statement (.lbz d base imm look) :=
  of_word rfl (by have := regs_le d base 0; have := imm.isLt; have := look.isLt; omega)

theorem lh (d : Reg) (base : Reg) (imm : BitVec 12) (look : Fin 16) : Statement (.lh d base imm look) :=
  of_word rfl (by have := regs_le d base 0; have := imm.isLt; have := look.isLt; omega)

theorem lhz (d : Reg) (base : Reg) (imm : BitVec 12) (look : Fin 16) : Statement (.lhz d base imm look) :=
  of_word rfl (by have := regs_le d base 0; have := imm.isLt; have := look.isLt; omega)

theorem lw (d : Reg) (base : Reg) (imm : BitVec 12) (look : Fin 16) : Statement (.lw d base imm look) :=
  of_word rfl (by have := regs_le d base 0; have := imm.isLt; have := look.isLt; omega)

theorem lwz (d : Reg) (base : Reg) (imm : BitVec 12) (look : Fin 16) : Statement (.lwz d base imm look) :=
  of_word rfl (by have := regs_le d base 0; have := imm.isLt; have := look.isLt; omega)

theorem ld (d : Reg) (base : Reg) (imm : BitVec 12) (look : Fin 16) : Statement (.ld d base imm look) :=
  of_word rfl (by have := regs_le d base 0; have := imm.isLt; have := look.isLt; omega)

theorem sb (d : Reg) (base : Reg) (imm : BitVec 12) (look : Fin 16) : Statement (.sb d base imm look) :=
  of_word rfl (by have := regs_le d base 0; have := imm.isLt; have := look.isLt; omega)

theorem sh (d : Reg) (base : Reg) (imm : BitVec 12) (look : Fin 16) : Statement (.sh d base imm look) :=
  of_word rfl (by have := regs_le d base 0; have := imm.isLt; have := look.isLt; omega)

theorem sw (d : Reg) (base : Reg) (imm : BitVec 12) (look : Fin 16) : Statement (.sw d base imm look) :=
  of_word rfl (by have := regs_le d base 0; have := imm.isLt; have := look.isLt; omega)

theorem sd (d : Reg) (base : Reg) (imm : BitVec 12) (look : Fin 16) : Statement (.sd d base imm look) :=
  of_word rfl (by have := regs_le d base 0; have := imm.isLt; have := look.isLt; omega)

theorem flw (d : Reg) (base : Reg) (imm : BitVec 12) (look : Fin 16) : Statement (.flw d base imm look) :=
  of_word rfl (by have := regs_le d base 0; have := imm.isLt; have := look.isLt; omega)

theorem fld (d : Reg) (base : Reg) (imm : BitVec 12) (look : Fin 16) : Statement (.fld d base imm look) :=
  of_word rfl (by have := regs_le d base 0; have := imm.isLt; have := look.isLt; omega)

theorem fsw (d : Reg) (base : Reg) (imm : BitVec 12) (look : Fin 16) : Statement (.fsw d base imm look) :=
  of_word rfl (by have := regs_le d base 0; have := imm.isLt; have := look.isLt; omega)

theorem fsd (d : Reg) (base : Reg) (imm : BitVec 12) (look : Fin 16) : Statement (.fsd d base imm look) :=
  of_word rfl (by have := regs_le d base 0; have := imm.isLt; have := look.isLt; omega)

theorem ldo (d : Reg) (a : Reg) (b : Reg) (size : Fin 4) (acq : Bool) (scope : Scope) (look : Fin 16) : Statement (.ldo d a b size acq scope look) :=
  of_word rfl (by have := regs_le d a b; have := size.isLt; have := bool_le acq; have := scope_le scope; have := look.isLt; omega)

theorem sto (d : Reg) (a : Reg) (b : Reg) (size : Fin 4) (rel : Bool) (scope : Scope) (look : Fin 16) : Statement (.sto d a b size rel scope look) :=
  of_word rfl (by have := regs_le d a b; have := size.isLt; have := bool_le rel; have := scope_le scope; have := look.isLt; omega)

theorem atwadd (d : Reg) (a : Reg) (b : Reg) (order : Order) (scope : Scope) (look : Fin 16) : Statement (.atwadd d a b order scope look) :=
  of_word rfl (by have := regs_le d a b; have := order_le order; have := scope_le scope; have := look.isLt; omega)

theorem atwand (d : Reg) (a : Reg) (b : Reg) (order : Order) (scope : Scope) (look : Fin 16) : Statement (.atwand d a b order scope look) :=
  of_word rfl (by have := regs_le d a b; have := order_le order; have := scope_le scope; have := look.isLt; omega)

theorem atwor (d : Reg) (a : Reg) (b : Reg) (order : Order) (scope : Scope) (look : Fin 16) : Statement (.atwor d a b order scope look) :=
  of_word rfl (by have := regs_le d a b; have := order_le order; have := scope_le scope; have := look.isLt; omega)

theorem atwxor (d : Reg) (a : Reg) (b : Reg) (order : Order) (scope : Scope) (look : Fin 16) : Statement (.atwxor d a b order scope look) :=
  of_word rfl (by have := regs_le d a b; have := order_le order; have := scope_le scope; have := look.isLt; omega)

theorem atwmax (d : Reg) (a : Reg) (b : Reg) (order : Order) (scope : Scope) (look : Fin 16) : Statement (.atwmax d a b order scope look) :=
  of_word rfl (by have := regs_le d a b; have := order_le order; have := scope_le scope; have := look.isLt; omega)

theorem atwmin (d : Reg) (a : Reg) (b : Reg) (order : Order) (scope : Scope) (look : Fin 16) : Statement (.atwmin d a b order scope look) :=
  of_word rfl (by have := regs_le d a b; have := order_le order; have := scope_le scope; have := look.isLt; omega)

theorem atwmaxz (d : Reg) (a : Reg) (b : Reg) (order : Order) (scope : Scope) (look : Fin 16) : Statement (.atwmaxz d a b order scope look) :=
  of_word rfl (by have := regs_le d a b; have := order_le order; have := scope_le scope; have := look.isLt; omega)

theorem atwminz (d : Reg) (a : Reg) (b : Reg) (order : Order) (scope : Scope) (look : Fin 16) : Statement (.atwminz d a b order scope look) :=
  of_word rfl (by have := regs_le d a b; have := order_le order; have := scope_le scope; have := look.isLt; omega)

theorem atdadd (d : Reg) (a : Reg) (b : Reg) (order : Order) (scope : Scope) (look : Fin 16) : Statement (.atdadd d a b order scope look) :=
  of_word rfl (by have := regs_le d a b; have := order_le order; have := scope_le scope; have := look.isLt; omega)

theorem atdand (d : Reg) (a : Reg) (b : Reg) (order : Order) (scope : Scope) (look : Fin 16) : Statement (.atdand d a b order scope look) :=
  of_word rfl (by have := regs_le d a b; have := order_le order; have := scope_le scope; have := look.isLt; omega)

theorem atdor (d : Reg) (a : Reg) (b : Reg) (order : Order) (scope : Scope) (look : Fin 16) : Statement (.atdor d a b order scope look) :=
  of_word rfl (by have := regs_le d a b; have := order_le order; have := scope_le scope; have := look.isLt; omega)

theorem atdxor (d : Reg) (a : Reg) (b : Reg) (order : Order) (scope : Scope) (look : Fin 16) : Statement (.atdxor d a b order scope look) :=
  of_word rfl (by have := regs_le d a b; have := order_le order; have := scope_le scope; have := look.isLt; omega)

theorem atdmax (d : Reg) (a : Reg) (b : Reg) (order : Order) (scope : Scope) (look : Fin 16) : Statement (.atdmax d a b order scope look) :=
  of_word rfl (by have := regs_le d a b; have := order_le order; have := scope_le scope; have := look.isLt; omega)

theorem atdmin (d : Reg) (a : Reg) (b : Reg) (order : Order) (scope : Scope) (look : Fin 16) : Statement (.atdmin d a b order scope look) :=
  of_word rfl (by have := regs_le d a b; have := order_le order; have := scope_le scope; have := look.isLt; omega)

theorem atdmaxz (d : Reg) (a : Reg) (b : Reg) (order : Order) (scope : Scope) (look : Fin 16) : Statement (.atdmaxz d a b order scope look) :=
  of_word rfl (by have := regs_le d a b; have := order_le order; have := scope_le scope; have := look.isLt; omega)

theorem atdminz (d : Reg) (a : Reg) (b : Reg) (order : Order) (scope : Scope) (look : Fin 16) : Statement (.atdminz d a b order scope look) :=
  of_word rfl (by have := regs_le d a b; have := order_le order; have := scope_le scope; have := look.isLt; omega)

theorem swpw (d : Reg) (a : Reg) (b : Reg) (order : Order) (scope : Scope) (look : Fin 16) : Statement (.swpw d a b order scope look) :=
  of_word rfl (by have := regs_le d a b; have := order_le order; have := scope_le scope; have := look.isLt; omega)

theorem swpd (d : Reg) (a : Reg) (b : Reg) (order : Order) (scope : Scope) (look : Fin 16) : Statement (.swpd d a b order scope look) :=
  of_word rfl (by have := regs_le d a b; have := order_le order; have := scope_le scope; have := look.isLt; omega)

theorem casw (d : Reg) (a : Reg) (b : Reg) (order : Order) (scope : Scope) (look : Fin 16) : Statement (.casw d a b order scope look) :=
  of_word rfl (by have := regs_le d a b; have := order_le order; have := scope_le scope; have := look.isLt; omega)

theorem casd (d : Reg) (a : Reg) (b : Reg) (order : Order) (scope : Scope) (look : Fin 16) : Statement (.casd d a b order scope look) :=
  of_word rfl (by have := regs_le d a b; have := order_le order; have := scope_le scope; have := look.isLt; omega)

theorem barcfg (a : Reg) (look : Fin 16) (n : Fin 8) : Statement (.barcfg a look n) :=
  of_word rfl (by have := regs_le a 0 0; have := look.isLt; have := n.isLt; omega)

theorem bararv (look : Fin 16) (n : Fin 8) : Statement (.bararv look n) :=
  of_word rfl (by have := look.isLt; have := n.isLt; omega)

theorem barwt (look : Fin 16) (n : Fin 8) : Statement (.barwt look n) :=
  of_word rfl (by have := look.isLt; have := n.isLt; omega)

theorem armc (a : Reg) (look : Fin 16) (n : Fin 16) : Statement (.armc a look n) :=
  of_word rfl (by have := regs_le a 0 0; have := look.isLt; have := n.isLt; omega)

theorem waitc (look : Fin 16) (n : Fin 16) : Statement (.waitc look n) :=
  of_word rfl (by have := look.isLt; have := n.isLt; omega)

theorem tglk (d : Reg) (a : Reg) (sz : Fin 8) : Statement (.tglk d a sz) :=
  of_word rfl (by have := regs_le d a 0; have := sz.isLt; omega)

theorem tgset (a : Reg) (b : Reg) (sz : Fin 8) (way : Fin 4) : Statement (.tgset a b sz way) :=
  of_word rfl (by have := regs_le 0 a b; have := sz.isLt; have := way.isLt; omega)

theorem tginv (d : Reg) (a : Reg) (sz : Fin 8) : Statement (.tginv d a sz) :=
  of_word rfl (by have := regs_le d a 0; have := sz.isLt; omega)

theorem tgrd (d : Reg) (a : Reg) (slotPart : Bool) : Statement (.tgrd d a slotPart) :=
  of_word rfl (by have := regs_le d a 0; have := bool_le slotPart; omega)

theorem tgclr : Statement .tgclr :=
  of_word rfl (by omega)

theorem tbdef (a : Reg) (b : Reg) (look : Fin 16) (entry : Fin 64) : Statement (.tbdef a b look entry) :=
  of_word rfl (by have := regs_le a b 0; have := look.isLt; have := entry.isLt; omega)

theorem tbst (look : Fin 16) (entry : Fin 64) : Statement (.tbst look entry) :=
  of_word rfl (by have := look.isLt; have := entry.isLt; omega)

theorem tbfree (look : Fin 16) (entry : Fin 64) : Statement (.tbfree look entry) :=
  of_word rfl (by have := look.isLt; have := entry.isLt; omega)

theorem tbwait (look : Fin 16) (st : TileSt) (entry : Fin 64) : Statement (.tbwait look st entry) :=
  of_word rfl (by have := look.isLt; have := tileSt_le st; have := entry.isLt; omega)

theorem publ (look : Fin 16) (entry : Fin 64) : Statement (.publ look entry) :=
  of_word rfl (by have := look.isLt; have := entry.isLt; omega)

theorem vcvt (look : Fin 16) (dst : Fin 4) (src : Fin 4) (rnd : Rnd) : Statement (.vcvt look dst src rnd) :=
  of_word rfl (by have := look.isLt; have := dst.isLt; have := src.isLt; have := rnd_le rnd; omega)

theorem vadd (b : Reg) (look : Fin 16) (dst : Fin 4) (src : Fin 4) (rnd : Rnd) : Statement (.vadd b look dst src rnd) :=
  of_word rfl (by have := regs_le 0 b 0; have := look.isLt; have := dst.isLt; have := src.isLt; have := rnd_le rnd; omega)

theorem vsub (b : Reg) (look : Fin 16) (dst : Fin 4) (src : Fin 4) (rnd : Rnd) : Statement (.vsub b look dst src rnd) :=
  of_word rfl (by have := regs_le 0 b 0; have := look.isLt; have := dst.isLt; have := src.isLt; have := rnd_le rnd; omega)

theorem vmul (b : Reg) (look : Fin 16) (dst : Fin 4) (src : Fin 4) (rnd : Rnd) : Statement (.vmul b look dst src rnd) :=
  of_word rfl (by have := regs_le 0 b 0; have := look.isLt; have := dst.isLt; have := src.isLt; have := rnd_le rnd; omega)

theorem vfma (a : Reg) (b : Reg) (look : Fin 16) (dst : Fin 4) (src : Fin 4) (rnd : Rnd) : Statement (.vfma a b look dst src rnd) :=
  of_word rfl (by have := regs_le a b 0; have := look.isLt; have := dst.isLt; have := src.isLt; have := rnd_le rnd; omega)

theorem vmax (b : Reg) (look : Fin 16) (dst : Fin 4) (src : Fin 4) (rnd : Rnd) : Statement (.vmax b look dst src rnd) :=
  of_word rfl (by have := regs_le 0 b 0; have := look.isLt; have := dst.isLt; have := src.isLt; have := rnd_le rnd; omega)

theorem vmin (b : Reg) (look : Fin 16) (dst : Fin 4) (src : Fin 4) (rnd : Rnd) : Statement (.vmin b look dst src rnd) :=
  of_word rfl (by have := regs_le 0 b 0; have := look.isLt; have := dst.isLt; have := src.isLt; have := rnd_le rnd; omega)

theorem vceq (b : Reg) (look : Fin 16) (dst : Fin 4) (src : Fin 4) (rnd : Rnd) : Statement (.vceq b look dst src rnd) :=
  of_word rfl (by have := regs_le 0 b 0; have := look.isLt; have := dst.isLt; have := src.isLt; have := rnd_le rnd; omega)

theorem vclt (b : Reg) (look : Fin 16) (dst : Fin 4) (src : Fin 4) (rnd : Rnd) : Statement (.vclt b look dst src rnd) :=
  of_word rfl (by have := regs_le 0 b 0; have := look.isLt; have := dst.isLt; have := src.isLt; have := rnd_le rnd; omega)

theorem vcle (b : Reg) (look : Fin 16) (dst : Fin 4) (src : Fin 4) (rnd : Rnd) : Statement (.vcle b look dst src rnd) :=
  of_word rfl (by have := regs_le 0 b 0; have := look.isLt; have := dst.isLt; have := src.isLt; have := rnd_le rnd; omega)

theorem vsel (a : Reg) (b : Reg) (look : Fin 16) (dst : Fin 4) (src : Fin 4) (rnd : Rnd) : Statement (.vsel a b look dst src rnd) :=
  of_word rfl (by have := regs_le a b 0; have := look.isLt; have := dst.isLt; have := src.isLt; have := rnd_le rnd; omega)

theorem vscale (a : Reg) (look : Fin 16) (dst : Fin 4) (src : Fin 4) (rnd : Rnd) : Statement (.vscale a look dst src rnd) :=
  of_word rfl (by have := regs_le a 0 0; have := look.isLt; have := dst.isLt; have := src.isLt; have := rnd_le rnd; omega)

theorem vsbase (a : Reg) (b : Reg) (look : Fin 16) (stream : Fin 4) : Statement (.vsbase a b look stream) :=
  of_word rfl (by have := regs_le a b 0; have := look.isLt; have := stream.isLt; omega)

theorem vsdim (a : Reg) (b : Reg) (look : Fin 16) (stream : Fin 4) (dim : Fin 4) : Statement (.vsdim a b look stream dim) :=
  of_word rfl (by have := regs_le a b 0; have := look.isLt; have := stream.isLt; have := dim.isLt; omega)

theorem vson (look : Fin 16) (stream : Fin 4) : Statement (.vson look stream) :=
  of_word rfl (by have := look.isLt; have := stream.isLt; omega)

theorem vsoff (look : Fin 16) (stream : Fin 4) : Statement (.vsoff look stream) :=
  of_word rfl (by have := look.isLt; have := stream.isLt; omega)

theorem vsetvl (a : Reg) (look : Fin 16) : Statement (.vsetvl a look) :=
  of_word rfl (by have := regs_le a 0 0; have := look.isLt; omega)

theorem vwait (look : Fin 16) : Statement (.vwait look) :=
  of_word rfl (by have := look.isLt; omega)

theorem mclr (look : Fin 16) (ms : Fin 4) (k : Fin 4) : Statement (.mclr look ms k) :=
  of_word rfl (by have := look.isLt; have := ms.isLt; have := k.isLt; omega)

theorem mmaw (a : Reg) (b : Reg) (look : Fin 16) (ms : Fin 4) (k : Fin 4) : Statement (.mmaw a b look ms k) :=
  of_word rfl (by have := regs_le a b 0; have := look.isLt; have := ms.isLt; have := k.isLt; omega)

theorem mmah (a : Reg) (b : Reg) (look : Fin 16) (ms : Fin 4) (k : Fin 4) : Statement (.mmah a b look ms k) :=
  of_word rfl (by have := regs_le a b 0; have := look.isLt; have := ms.isLt; have := k.isLt; omega)

theorem mmae (a : Reg) (b : Reg) (look : Fin 16) (ms : Fin 4) (k : Fin 4) : Statement (.mmae a b look ms k) :=
  of_word rfl (by have := regs_le a b 0; have := look.isLt; have := ms.isLt; have := k.isLt; omega)

theorem mmai (a : Reg) (b : Reg) (look : Fin 16) (ms : Fin 4) (k : Fin 4) : Statement (.mmai a b look ms k) :=
  of_word rfl (by have := regs_le a b 0; have := look.isLt; have := ms.isLt; have := k.isLt; omega)

theorem mmas (a : Reg) (b : Reg) (look : Fin 16) (ms : Fin 4) (k : Fin 4) : Statement (.mmas a b look ms k) :=
  of_word rfl (by have := regs_le a b 0; have := look.isLt; have := ms.isLt; have := k.isLt; omega)

theorem mmaq (a : Reg) (b : Reg) (look : Fin 16) (ms : Fin 4) (k : Fin 4) : Statement (.mmaq a b look ms k) :=
  of_word rfl (by have := regs_le a b 0; have := look.isLt; have := ms.isLt; have := k.isLt; omega)

theorem mrd (a : Reg) (b : Reg) (look : Fin 16) (ms : Fin 4) (k : Fin 4) (rnd : Rnd) : Statement (.mrd a b look ms k rnd) :=
  of_word rfl (by have := regs_le a b 0; have := look.isLt; have := ms.isLt; have := k.isLt; have := rnd_le rnd; omega)

theorem mld (a : Reg) (b : Reg) (look : Fin 16) (ms : Fin 4) : Statement (.mld a b look ms) :=
  of_word rfl (by have := regs_le a b 0; have := look.isLt; have := ms.isLt; omega)

theorem mst (a : Reg) (b : Reg) (look : Fin 16) (ms : Fin 4) : Statement (.mst a b look ms) :=
  of_word rfl (by have := regs_le a b 0; have := look.isLt; have := ms.isLt; omega)

theorem mwait (look : Fin 16) (mask : Fin 16) : Statement (.mwait look mask) :=
  of_word rfl (by have := look.isLt; have := mask.isLt; omega)

theorem mcfg (a : Reg) (look : Fin 16) (m : Fin 16) : Statement (.mcfg a look m) :=
  of_word rfl (by have := regs_le a 0 0; have := look.isLt; have := m.isLt; omega)

theorem cshape (a : Reg) (b : Reg) (look : Fin 16) : Statement (.cshape a b look) :=
  of_word rfl (by have := regs_le a b 0; have := look.isLt; omega)

theorem chl (a : Reg) (b : Reg) (look : Fin 16) (cnt : Fin 16) (ce : Bool) : Statement (.chl a b look cnt ce) :=
  of_word rfl (by have := regs_le a b 0; have := look.isLt; have := cnt.isLt; have := bool_le ce; omega)

theorem clh (a : Reg) (b : Reg) (look : Fin 16) (cnt : Fin 16) (ce : Bool) : Statement (.clh a b look cnt ce) :=
  of_word rfl (by have := regs_le a b 0; have := look.isLt; have := cnt.isLt; have := bool_le ce; omega)

theorem cbb (a : Reg) (b : Reg) (look : Fin 16) (cnt : Fin 16) (ce : Bool) (rnd : Rnd) : Statement (.cbb a b look cnt ce rnd) :=
  of_word rfl (by have := regs_le a b 0; have := look.isLt; have := cnt.isLt; have := bool_le ce; have := rnd_le rnd; omega)

theorem cmc (a : Reg) (b : Reg) (look : Fin 16) (cnt : Fin 16) (ce : Bool) (rnd : Rnd) : Statement (.cmc a b look cnt ce rnd) :=
  of_word rfl (by have := regs_le a b 0; have := look.isLt; have := cnt.isLt; have := bool_le ce; have := rnd_le rnd; omega)

theorem cidx (a : Reg) (b : Reg) (look : Fin 16) : Statement (.cidx a b look) :=
  of_word rfl (by have := regs_le a b 0; have := look.isLt; omega)

theorem cgath (a : Reg) (b : Reg) (look : Fin 16) (cnt : Fin 16) (ce : Bool) : Statement (.cgath a b look cnt ce) :=
  of_word rfl (by have := regs_le a b 0; have := look.isLt; have := cnt.isLt; have := bool_le ce; omega)

theorem cscat (a : Reg) (b : Reg) (look : Fin 16) (cnt : Fin 16) (ce : Bool) : Statement (.cscat a b look cnt ce) :=
  of_word rfl (by have := regs_le a b 0; have := look.isLt; have := cnt.isLt; have := bool_le ce; omega)

theorem cwait (look : Fin 16) : Statement (.cwait look) :=
  of_word rfl (by have := look.isLt; omega)

theorem qld (a : Reg) (b : Reg) (look : Fin 16) : Statement (.qld a b look) :=
  of_word rfl (by have := regs_le a b 0; have := look.isLt; omega)

theorem qscr (a : Reg) (b : Reg) (look : Fin 16) : Statement (.qscr a b look) :=
  of_word rfl (by have := regs_le a b 0; have := look.isLt; omega)

theorem qpt (a : Reg) (b : Reg) (look : Fin 16) (gray : Bool) (rnd : Rnd) : Statement (.qpt a b look gray rnd) :=
  of_word rfl (by have := regs_le a b 0; have := look.isLt; have := bool_le gray; have := rnd_le rnd; omega)

theorem qseq (a : Reg) (b : Reg) (look : Fin 16) (gray : Bool) (stream : Fin 4) (rnd : Rnd) : Statement (.qseq a b look gray stream rnd) :=
  of_word rfl (by have := regs_le a b 0; have := look.isLt; have := bool_le gray; have := stream.isLt; have := rnd_le rnd; omega)

theorem qskip (a : Reg) (look : Fin 16) : Statement (.qskip a look) :=
  of_word rfl (by have := regs_le a 0 0; have := look.isLt; omega)

theorem qwait (look : Fin 16) : Statement (.qwait look) :=
  of_word rfl (by have := look.isLt; omega)

theorem objoin (a : Reg) (look : Fin 16) (h : Fin 4) : Statement (.objoin a look h) :=
  of_word rfl (by have := regs_le a 0 0; have := look.isLt; have := h.isLt; omega)

theorem obmax (a : Reg) (b : Reg) (look : Fin 16) (h : Fin 4) : Statement (.obmax a b look h) :=
  of_word rfl (by have := regs_le a b 0; have := look.isLt; have := h.isLt; omega)

theorem obred (a : Reg) (b : Reg) (look : Fin 16) (h : Fin 4) (rnd : Rnd) : Statement (.obred a b look h rnd) :=
  of_word rfl (by have := regs_le a b 0; have := look.isLt; have := h.isLt; have := rnd_le rnd; omega)

theorem obstat (a : Reg) (look : Fin 16) (h : Fin 4) : Statement (.obstat a look h) :=
  of_word rfl (by have := regs_le a 0 0; have := look.isLt; have := h.isLt; omega)

theorem obleave (look : Fin 16) (h : Fin 4) : Statement (.obleave look h) :=
  of_word rfl (by have := look.isLt; have := h.isLt; omega)

theorem obcal (a : Reg) (look : Fin 16) : Statement (.obcal a look) :=
  of_word rfl (by have := regs_le a 0 0; have := look.isLt; omega)

theorem obwait (look : Fin 16) : Statement (.obwait look) :=
  of_word rfl (by have := look.isLt; omega)

theorem colq (a : Reg) (look : Fin 16) : Statement (.colq a look) :=
  of_word rfl (by have := regs_le a 0 0; have := look.isLt; omega)

theorem colput (a : Reg) (b : Reg) (look : Fin 16) : Statement (.colput a b look) :=
  of_word rfl (by have := regs_le a b 0; have := look.isLt; omega)

theorem colgo (a : Reg) (look : Fin 16) : Statement (.colgo a look) :=
  of_word rfl (by have := regs_le a 0 0; have := look.isLt; omega)

theorem colwt (a : Reg) (b : Reg) (look : Fin 16) : Statement (.colwt a b look) :=
  of_word rfl (by have := regs_le a b 0; have := look.isLt; omega)

theorem colcan (a : Reg) (b : Reg) (look : Fin 16) : Statement (.colcan a b look) :=
  of_word rfl (by have := regs_le a b 0; have := look.isLt; omega)

theorem colsync (look : Fin 16) : Statement (.colsync look) :=
  of_word rfl (by have := look.isLt; omega)

theorem gnode (a : Reg) (b : Reg) (look : Fin 16) : Statement (.gnode a b look) :=
  of_word rfl (by have := regs_le a b 0; have := look.isLt; omega)

theorem gedge (a : Reg) (b : Reg) (look : Fin 16) (gmb : Bool) : Statement (.gedge a b look gmb) :=
  of_word rfl (by have := regs_le a b 0; have := look.isLt; have := bool_le gmb; omega)

theorem grun (a : Reg) (b : Reg) (look : Fin 16) (phase : Bool) : Statement (.grun a b look phase) :=
  of_word rfl (by have := regs_le a b 0; have := look.isLt; have := bool_le phase; omega)

theorem launch (a : Reg) (look : Fin 16) : Statement (.launch a look) :=
  of_word rfl (by have := regs_le a 0 0; have := look.isLt; omega)

theorem shapeAdd (a : Reg) (b : Reg) (look : Fin 16) (fin : Bool) : Statement (.shapeAdd a b look fin) :=
  of_word rfl (by have := regs_le a b 0; have := look.isLt; have := bool_le fin; omega)

theorem shapeSet (a : Reg) (b : Reg) (look : Fin 16) (fin : Bool) : Statement (.shapeSet a b look fin) :=
  of_word rfl (by have := regs_le a b 0; have := look.isLt; have := bool_le fin; omega)

theorem shapeRead (a : Reg) (b : Reg) (look : Fin 16) : Statement (.shapeRead a b look) :=
  of_word rfl (by have := regs_le a b 0; have := look.isLt; omega)

theorem confirm (a : Reg) (b : Reg) (look : Fin 16) : Statement (.confirm a b look) :=
  of_word rfl (by have := regs_le a b 0; have := look.isLt; omega)

theorem cancel (a : Reg) (look : Fin 16) (level : CLevel) : Statement (.cancel a look level) :=
  of_word rfl (by have := regs_le a 0 0; have := look.isLt; have := level_le level; omega)

theorem compl (a : Reg) (look : Fin 16) (res : Bool) (level : CLevel) : Statement (.compl a look res level) :=
  of_word rfl (by have := regs_le a 0 0; have := look.isLt; have := bool_le res; have := level_le level; omega)

theorem grfwait (look : Fin 16) : Statement (.grfwait look) :=
  of_word rfl (by have := look.isLt; omega)

theorem ctxnew (a : Reg) (b : Reg) (look : Fin 16) : Statement (.ctxnew a b look) :=
  of_word rfl (by have := regs_le a b 0; have := look.isLt; omega)

theorem grantCores (a : Reg) (b : Reg) (look : Fin 16) : Statement (.grantCores a b look) :=
  of_word rfl (by have := regs_le a b 0; have := look.isLt; omega)

theorem grantMem (a : Reg) (b : Reg) (look : Fin 16) : Statement (.grantMem a b look) :=
  of_word rfl (by have := regs_le a b 0; have := look.isLt; omega)

theorem grantPages (a : Reg) (b : Reg) (look : Fin 16) : Statement (.grantPages a b look) :=
  of_word rfl (by have := regs_le a b 0; have := look.isLt; omega)

theorem grantQueues (a : Reg) (b : Reg) (look : Fin 16) : Statement (.grantQueues a b look) :=
  of_word rfl (by have := regs_le a b 0; have := look.isLt; omega)

theorem grantCells (a : Reg) (b : Reg) (look : Fin 16) : Statement (.grantCells a b look) :=
  of_word rfl (by have := regs_le a b 0; have := look.isLt; omega)

theorem grantVf (a : Reg) (b : Reg) (look : Fin 16) : Statement (.grantVf a b look) :=
  of_word rfl (by have := regs_le a b 0; have := look.isLt; omega)

theorem revokeCores (a : Reg) (b : Reg) (look : Fin 16) : Statement (.revokeCores a b look) :=
  of_word rfl (by have := regs_le a b 0; have := look.isLt; omega)

theorem revokeMem (a : Reg) (b : Reg) (look : Fin 16) : Statement (.revokeMem a b look) :=
  of_word rfl (by have := regs_le a b 0; have := look.isLt; omega)

theorem revokePages (a : Reg) (b : Reg) (look : Fin 16) : Statement (.revokePages a b look) :=
  of_word rfl (by have := regs_le a b 0; have := look.isLt; omega)

theorem revokeQueues (a : Reg) (b : Reg) (look : Fin 16) : Statement (.revokeQueues a b look) :=
  of_word rfl (by have := regs_le a b 0; have := look.isLt; omega)

theorem revokeCells (a : Reg) (b : Reg) (look : Fin 16) : Statement (.revokeCells a b look) :=
  of_word rfl (by have := regs_le a b 0; have := look.isLt; omega)

theorem revokeVf (a : Reg) (b : Reg) (look : Fin 16) : Statement (.revokeVf a b look) :=
  of_word rfl (by have := regs_le a b 0; have := look.isLt; omega)

theorem ctxdel (a : Reg) (look : Fin 16) : Statement (.ctxdel a look) :=
  of_word rfl (by have := regs_le a 0 0; have := look.isLt; omega)

theorem ctxbud (a : Reg) (b : Reg) (look : Fin 16) : Statement (.ctxbud a b look) :=
  of_word rfl (by have := regs_le a b 0; have := look.isLt; omega)

theorem ctxstat (a : Reg) (look : Fin 16) : Statement (.ctxstat a look) :=
  of_word rfl (by have := regs_le a 0 0; have := look.isLt; omega)

theorem ctxenter (a : Reg) (b : Reg) (look : Fin 16) : Statement (.ctxenter a b look) :=
  of_word rfl (by have := regs_le a b 0; have := look.isLt; omega)

theorem reflect (a : Reg) (look : Fin 16) : Statement (.reflect a look) :=
  of_word rfl (by have := regs_le a 0 0; have := look.isLt; omega)

theorem virwait (look : Fin 16) : Statement (.virwait look) :=
  of_word rfl (by have := look.isLt; omega)

theorem eleave (a : Reg) (look : Fin 16) : Statement (.eleave a look) :=
  of_word rfl (by have := regs_le a 0 0; have := look.isLt; omega)

theorem ebud (a : Reg) (b : Reg) (look : Fin 16) : Statement (.ebud a b look) :=
  of_word rfl (by have := regs_le a b 0; have := look.isLt; omega)

theorem eread (a : Reg) (look : Fin 16) : Statement (.eread a look) :=
  of_word rfl (by have := regs_le a 0 0; have := look.isLt; omega)

theorem pwait (look : Fin 16) : Statement (.pwait look) :=
  of_word rfl (by have := look.isLt; omega)

theorem mfc (d : Reg) (unit : Fin 16) (word : Fin 128) : Statement (.mfc d unit word) :=
  of_word rfl (by have := regs_le d 0 0; have := unit.isLt; have := word.isLt; omega)

theorem vexp2 (look : Fin 16) (dst : Fin 4) (src : Fin 4) (rnd : Rnd) : Statement (.vexp2 look dst src rnd) :=
  of_word rfl (by have := look.isLt; have := dst.isLt; have := src.isLt; have := rnd_le rnd; omega)

theorem vlog2 (look : Fin 16) (dst : Fin 4) (src : Fin 4) (rnd : Rnd) : Statement (.vlog2 look dst src rnd) :=
  of_word rfl (by have := look.isLt; have := dst.isLt; have := src.isLt; have := rnd_le rnd; omega)

theorem vrcp (look : Fin 16) (dst : Fin 4) (src : Fin 4) (rnd : Rnd) : Statement (.vrcp look dst src rnd) :=
  of_word rfl (by have := look.isLt; have := dst.isLt; have := src.isLt; have := rnd_le rnd; omega)

theorem vrsq (look : Fin 16) (dst : Fin 4) (src : Fin 4) (rnd : Rnd) : Statement (.vrsq look dst src rnd) :=
  of_word rfl (by have := look.isLt; have := dst.isLt; have := src.isLt; have := rnd_le rnd; omega)

theorem vsumx (look : Fin 16) (dst : Fin 4) (src : Fin 4) (rnd : Rnd) : Statement (.vsumx look dst src rnd) :=
  of_word rfl (by have := look.isLt; have := dst.isLt; have := src.isLt; have := rnd_le rnd; omega)

theorem vdotx (b : Reg) (look : Fin 16) (dst : Fin 4) (src : Fin 4) (rnd : Rnd) : Statement (.vdotx b look dst src rnd) :=
  of_word rfl (by have := regs_le 0 b 0; have := look.isLt; have := dst.isLt; have := src.isLt; have := rnd_le rnd; omega)

theorem vrdq (a : Reg) (look : Fin 16) (dst : Fin 4) (rnd : Rnd) : Statement (.vrdq a look dst rnd) :=
  of_word rfl (by have := regs_le a 0 0; have := look.isLt; have := dst.isLt; have := rnd_le rnd; omega)

theorem vclrq (look : Fin 16) (dst : Fin 4) (rnd : Rnd) : Statement (.vclrq look dst rnd) :=
  of_word rfl (by have := look.isLt; have := dst.isLt; have := rnd_le rnd; omega)

theorem vmaxr (a : Reg) (look : Fin 16) (src : Fin 4) (rnd : Rnd) : Statement (.vmaxr a look src rnd) :=
  of_word rfl (by have := regs_le a 0 0; have := look.isLt; have := src.isLt; have := rnd_le rnd; omega)

theorem vmaxx (a : Reg) (b : Reg) (look : Fin 16) (rnd : Rnd) : Statement (.vmaxx a b look rnd) :=
  of_word rfl (by have := regs_le a b 0; have := look.isLt; have := rnd_le rnd; omega)

theorem vqnt (b : Reg) (look : Fin 16) (dst : Fin 4) (src : Fin 4) (rnd : Rnd) : Statement (.vqnt b look dst src rnd) :=
  of_word rfl (by have := regs_le 0 b 0; have := look.isLt; have := dst.isLt; have := src.isLt; have := rnd_le rnd; omega)

theorem fence (scope : Scope) : Statement (.fence scope) :=
  of_word rfl (by have := scope_le scope; omega)

theorem fencea (scope : Scope) : Statement (.fencea scope) :=
  of_word rfl (by have := scope_le scope; omega)

theorem fencer (scope : Scope) : Statement (.fencer scope) :=
  of_word rfl (by have := scope_le scope; omega)

theorem beq (a : Reg) (b : Reg) (off : BitVec 13) : Statement (.beq a b off) :=
  of_word rfl (by have := regs_le a b 0; have := off.isLt; omega)

theorem bne (a : Reg) (b : Reg) (off : BitVec 13) : Statement (.bne a b off) :=
  of_word rfl (by have := regs_le a b 0; have := off.isLt; omega)

theorem blt (a : Reg) (b : Reg) (off : BitVec 13) : Statement (.blt a b off) :=
  of_word rfl (by have := regs_le a b 0; have := off.isLt; omega)

theorem bge (a : Reg) (b : Reg) (off : BitVec 13) : Statement (.bge a b off) :=
  of_word rfl (by have := regs_le a b 0; have := off.isLt; omega)

theorem bltz (a : Reg) (b : Reg) (off : BitVec 13) : Statement (.bltz a b off) :=
  of_word rfl (by have := regs_le a b 0; have := off.isLt; omega)

theorem bgez (a : Reg) (b : Reg) (off : BitVec 13) : Statement (.bgez a b off) :=
  of_word rfl (by have := regs_le a b 0; have := off.isLt; omega)

theorem j (off : BitVec 26) : Statement (.j off) :=
  of_word rfl (by have := off.isLt; omega)

theorem jal (off : BitVec 26) : Statement (.jal off) :=
  of_word rfl (by have := off.isLt; omega)

theorem jr (a : Reg) : Statement (.jr a) :=
  of_word rfl (by have := regs_le 0 a 0; omega)

theorem jalr (d : Reg) (a : Reg) : Statement (.jalr d a) :=
  of_word rfl (by have := regs_le d a 0; omega)

theorem loop0 (a : Reg) (n : BitVec 12) : Statement (.loop0 a n) :=
  of_word rfl (by have := regs_le 0 a 0; have := n.isLt; omega)

theorem loop1 (a : Reg) (n : BitVec 12) : Statement (.loop1 a n) :=
  of_word rfl (by have := regs_le 0 a 0; have := n.isLt; omega)

theorem fadd (d : Reg) (a : Reg) (b : Reg) (prec : Prec) (rnd : Rnd) : Statement (.fadd d a b prec rnd) :=
  of_word rfl (by have := regs_le d a b; have := prec_le prec; have := rnd_le rnd; omega)

theorem fsub (d : Reg) (a : Reg) (b : Reg) (prec : Prec) (rnd : Rnd) : Statement (.fsub d a b prec rnd) :=
  of_word rfl (by have := regs_le d a b; have := prec_le prec; have := rnd_le rnd; omega)

theorem fmul (d : Reg) (a : Reg) (b : Reg) (prec : Prec) (rnd : Rnd) : Statement (.fmul d a b prec rnd) :=
  of_word rfl (by have := regs_le d a b; have := prec_le prec; have := rnd_le rnd; omega)

theorem fdiv (d : Reg) (a : Reg) (b : Reg) (prec : Prec) (rnd : Rnd) : Statement (.fdiv d a b prec rnd) :=
  of_word rfl (by have := regs_le d a b; have := prec_le prec; have := rnd_le rnd; omega)

theorem fsqrt (d : Reg) (a : Reg) (prec : Prec) (rnd : Rnd) : Statement (.fsqrt d a prec rnd) :=
  of_word rfl (by have := regs_le d a 0; have := prec_le prec; have := rnd_le rnd; omega)

theorem fma (d : Reg) (a : Reg) (b : Reg) (prec : Prec) (rnd : Rnd) : Statement (.fma d a b prec rnd) :=
  of_word rfl (by have := regs_le d a b; have := prec_le prec; have := rnd_le rnd; omega)

theorem fms (d : Reg) (a : Reg) (b : Reg) (prec : Prec) (rnd : Rnd) : Statement (.fms d a b prec rnd) :=
  of_word rfl (by have := regs_le d a b; have := prec_le prec; have := rnd_le rnd; omega)

theorem fnms (d : Reg) (a : Reg) (b : Reg) (prec : Prec) (rnd : Rnd) : Statement (.fnms d a b prec rnd) :=
  of_word rfl (by have := regs_le d a b; have := prec_le prec; have := rnd_le rnd; omega)

theorem fmin (d : Reg) (a : Reg) (b : Reg) (prec : Prec) : Statement (.fmin d a b prec) :=
  of_word rfl (by have := regs_le d a b; have := prec_le prec; omega)

theorem fmax (d : Reg) (a : Reg) (b : Reg) (prec : Prec) : Statement (.fmax d a b prec) :=
  of_word rfl (by have := regs_le d a b; have := prec_le prec; omega)

theorem fsgn (d : Reg) (a : Reg) (b : Reg) (prec : Prec) : Statement (.fsgn d a b prec) :=
  of_word rfl (by have := regs_le d a b; have := prec_le prec; omega)

theorem fsgnn (d : Reg) (a : Reg) (b : Reg) (prec : Prec) : Statement (.fsgnn d a b prec) :=
  of_word rfl (by have := regs_le d a b; have := prec_le prec; omega)

theorem fsgnx (d : Reg) (a : Reg) (b : Reg) (prec : Prec) : Statement (.fsgnx d a b prec) :=
  of_word rfl (by have := regs_le d a b; have := prec_le prec; omega)

theorem fdtos (d : Reg) (a : Reg) (rnd : Rnd) : Statement (.fdtos d a rnd) :=
  of_word rfl (by have := regs_le d a 0; have := rnd_le rnd; omega)

theorem fstod (d : Reg) (a : Reg) : Statement (.fstod d a) :=
  of_word rfl (by have := regs_le d a 0; omega)

theorem fstoh (d : Reg) (a : Reg) (rnd : Rnd) : Statement (.fstoh d a rnd) :=
  of_word rfl (by have := regs_le d a 0; have := rnd_le rnd; omega)

theorem fhtos (d : Reg) (a : Reg) : Statement (.fhtos d a) :=
  of_word rfl (by have := regs_le d a 0; omega)

theorem fstob (d : Reg) (a : Reg) (rnd : Rnd) : Statement (.fstob d a rnd) :=
  of_word rfl (by have := regs_le d a 0; have := rnd_le rnd; omega)

theorem fbtos (d : Reg) (a : Reg) : Statement (.fbtos d a) :=
  of_word rfl (by have := regs_le d a 0; omega)

theorem ftoi (d : Reg) (a : Reg) (prec : Prec) (long : Bool) (z : Bool) (rnd : Rnd) : Statement (.ftoi d a prec long z rnd) :=
  of_word rfl (by have := regs_le d a 0; have := prec_le prec; have := bool_le long; have := bool_le z; have := rnd_le rnd; omega)

theorem itof (d : Reg) (a : Reg) (prec : Prec) (long : Bool) (z : Bool) (rnd : Rnd) : Statement (.itof d a prec long z rnd) :=
  of_word rfl (by have := regs_le d a 0; have := prec_le prec; have := bool_le long; have := bool_le z; have := rnd_le rnd; omega)

theorem fmvgf (d : Reg) (a : Reg) : Statement (.fmvgf d a) :=
  of_word rfl (by have := regs_le d a 0; omega)

theorem fmvfg (d : Reg) (a : Reg) : Statement (.fmvfg d a) :=
  of_word rfl (by have := regs_le d a 0; omega)

theorem feq (d : Reg) (a : Reg) (b : Reg) (prec : Prec) : Statement (.feq d a b prec) :=
  of_word rfl (by have := regs_le d a b; have := prec_le prec; omega)

theorem flt (d : Reg) (a : Reg) (b : Reg) (prec : Prec) : Statement (.flt d a b prec) :=
  of_word rfl (by have := regs_le d a b; have := prec_le prec; omega)

theorem fle (d : Reg) (a : Reg) (b : Reg) (prec : Prec) : Statement (.fle d a b prec) :=
  of_word rfl (by have := regs_le d a b; have := prec_le prec; omega)

theorem fclass (d : Reg) (a : Reg) (prec : Prec) : Statement (.fclass d a prec) :=
  of_word rfl (by have := regs_le d a 0; have := prec_le prec; omega)

theorem nop : Statement .nop :=
  of_word rfl (by omega)

theorem srr (d : Reg) (num : BitVec 12) : Statement (.srr d num) :=
  of_word rfl (by have := regs_le d 0 0; have := num.isLt; omega)

theorem srw (a : Reg) (num : BitVec 12) : Statement (.srw a num) :=
  of_word rfl (by have := regs_le 0 a 0; have := num.isLt; omega)

theorem trap (code : BitVec 12) : Statement (.trap code) :=
  of_word rfl (by have := code.isLt; omega)

theorem brk (code : BitVec 12) : Statement (.brk code) :=
  of_word rfl (by have := code.isLt; omega)

theorem rte : Statement .rte :=
  of_word rfl (by omega)

theorem hstart (d : Reg) (a : Reg) (b : Reg) : Statement (.hstart d a b) :=
  of_word rfl (by have := regs_le d a b; omega)

theorem hexit (a : Reg) : Statement (.hexit a) :=
  of_word rfl (by have := regs_le 0 a 0; omega)

theorem hjoin (d : Reg) (a : Reg) : Statement (.hjoin d a) :=
  of_word rfl (by have := regs_le d a 0; omega)

theorem waitm (d : Reg) (a : Reg) (b : Reg) : Statement (.waitm d a b) :=
  of_word rfl (by have := regs_le d a b; omega)

theorem yield : Statement .yield :=
  of_word rfl (by omega)

theorem yieldu : Statement .yieldu :=
  of_word rfl (by omega)

theorem bfmtWrite (h : Nat) (tid : Nat) : Statement (.bfmtWrite h tid) := of_none rfl

theorem waymaskWrite (h : Nat) (v : Word) : Statement (.waymaskWrite h v) := of_none rfl

theorem wdogWrite (h : Nat) (v : Word) : Statement (.wdogWrite h v) := of_none rfl

theorem lcntWrite (h : Nat) (tid : Nat) (level : Fin 2) (v : Word) : Statement (.lcntWrite h tid level v) := of_none rfl

theorem trapMessagePost (n : Nat) : Statement (.trapMessagePost n) := of_none rfl

theorem trapReplyConsume (h : Nat) (off : Nat) (v : Word) : Statement (.trapReplyConsume h off v) := of_none rfl

theorem lateFaultArrival (h : Nat) (tid : Nat) (code : Nat) (ply : Word32) (addr : Word) (unit : Nat) : Statement (.lateFaultArrival h tid code ply addr unit) := of_none rfl

theorem lateFaultDelivery (h : Nat) (tid : Nat) : Statement (.lateFaultDelivery h tid) := of_none rfl

theorem threadWake (h : Nat) (tid : Nat) : Statement (.threadWake h tid) := of_none rfl

theorem unitAcceptCommand (h : Nat) (tid : Nat) : Statement (.unitAcceptCommand h tid) := of_none rfl

theorem homePerformAccess (sel : AccessSel) : Statement (.homePerformAccess sel) := of_none rfl

theorem tileDrainEnd (h : Nat) (e : Nat) : Statement (.tileDrainEnd h e) := of_none rfl

theorem pageRequestPost (n : Nat) : Statement (.pageRequestPost n) := of_none rfl

theorem pageReplyConsume (h : Nat) (off : Nat) (v : Word) : Statement (.pageReplyConsume h off v) := of_none rfl

theorem walkRestart (agent : WalkAgent) : Statement (.walkRestart agent) := of_none rfl

theorem invalidationRequest (h : Nat) (off : Nat) (v : Word) : Statement (.invalidationRequest h off v) := of_none rfl

theorem invalidationDone (n : Nat) : Statement (.invalidationDone n) := of_none rfl

theorem unitPlacement (part : Nat) : Statement (.unitPlacement part) := of_none rfl

theorem unitEvict (h : Nat) : Statement (.unitEvict h) := of_none rfl

theorem unitAging (lnum : Nat) (index : Nat) : Statement (.unitAging lnum index) := of_none rfl

theorem unitComplete (h : Nat) : Statement (.unitComplete h) := of_none rfl

theorem phaseCommit (ctx : Nat) (graph : Nat) : Statement (.phaseCommit ctx graph) := of_none rfl

theorem energyMeter (lnum : Nat) (nj : Nat) : Statement (.energyMeter lnum nj) := of_none rfl

theorem leaveGrant (die : Nat) : Statement (.leaveGrant die) := of_none rfl

theorem leaveRelease (h : Nat) (engine : Nat) : Statement (.leaveRelease h engine) := of_none rfl

theorem thermalThrottle (die : Nat) (level : Nat) : Statement (.thermalThrottle die level) := of_none rfl

theorem thermalTrip (die : Nat) : Statement (.thermalTrip die) := of_none rfl

theorem watchdogExpire (h : Nat) : Statement (.watchdogExpire h) := of_none rfl

theorem forcedUnitStop (h : Nat) : Statement (.forcedUnitStop h) := of_none rfl

theorem vmaxxContribution (n : Nat) : Statement (.vmaxxContribution n) := of_none rfl

theorem vmaxxTimeout (h : Nat) (seq : Nat) : Statement (.vmaxxTimeout h seq) := of_none rfl

theorem barrierArrival (n : Nat) : Statement (.barrierArrival n) := of_none rfl

theorem barrierRelease (n : Nat) : Statement (.barrierRelease n) := of_none rfl

theorem vectorCommandPerform (h : Nat) : Statement (.vectorCommandPerform h) := of_none rfl

theorem matrixEngineStep (h : Nat) (ms : Nat) : Statement (.matrixEngineStep h ms) := of_none rfl

theorem matrixCommandComplete (h : Nat) (ms : Nat) : Statement (.matrixCommandComplete h ms) := of_none rfl

theorem copyCommandStart (h : Nat) (n : Nat) : Statement (.copyCommandStart h n) := of_none rfl

theorem copyCommandComplete (h : Nat) (n : Nat) : Statement (.copyCommandComplete h n) := of_none rfl

theorem qrnCommandPerform (h : Nat) : Statement (.qrnCommandPerform h) := of_none rfl

theorem collectiveChunkStep (die : Nat) : Statement (.collectiveChunkStep die) := of_none rfl

theorem collectivePacketReceive (die : Nat) (p : ColPacket) : Statement (.collectivePacketReceive die p) := of_none rfl

theorem collectiveTimeout (die : Nat) (queue : Nat) (seq : Nat) : Statement (.collectiveTimeout die queue seq) := of_none rfl

theorem busFrame (h : Nat) (handle : Nat) (rx : List BusRx) : Statement (.busFrame h handle rx) := of_none rfl

theorem calibration (seg : Nat) (wlim : Nat) (excluded : List Nat) : Statement (.calibration seg wlim excluded) := of_none rfl

theorem portTrainingDone (port : Nat) (rate : Nat) (ok : Bool) : Statement (.portTrainingDone port rate ok) := of_none rfl

theorem leaseRequest (h : Nat) (handle : Nat) (lent : Nat) (pool : Nat) : Statement (.leaseRequest h handle lent pool) := of_none rfl

theorem groupJoinCheck (h : Nat) (handle : Nat) : Statement (.groupJoinCheck h handle) := of_none rfl

theorem busOpTimeout (h : Nat) (handle : Nat) : Statement (.busOpTimeout h handle) := of_none rfl

theorem castleStop (part : Nat) : Statement (.castleStop part) := of_none rfl

theorem castleResume (part : Nat) : Statement (.castleResume part) := of_none rfl

theorem flushTokenReturn (h : Nat) : Statement (.flushTokenReturn h) := of_none rfl

theorem correctableError (e : SoftError) : Statement (.correctableError e) := of_none rfl

theorem linkCrcError (h : Nat) : Statement (.linkCrcError h) := of_none rfl

theorem uncorrectableError (place : ErrPlace) : Statement (.uncorrectableError place) := of_none rfl

theorem l2TagParityError (die : Nat) (way : Nat) (spa : Nat) : Statement (.l2TagParityError die way spa) := of_none rfl

theorem coreGrantComplete (ctx : Nat) : Statement (.coreGrantComplete ctx) := of_none rfl

theorem revocationComplete (n : Nat) : Statement (.revocationComplete n) := of_none rfl

theorem contextDeleteComplete (ctx : Nat) : Statement (.contextDeleteComplete ctx) := of_none rfl

theorem prepareDrainDone : Statement .prepareDrainDone := of_none rfl

theorem hostBar2Access (vf : Nat) (off : Nat) (size : Nat) (store : Option Word) : Statement (.hostBar2Access vf off size store) := of_none rfl

theorem jobgoWrite (vf : Nat) : Statement (.jobgoWrite vf) := of_none rfl

theorem hmsgWrite (vf : Nat) (v : Word) : Statement (.hmsgWrite vf v) := of_none rfl

theorem bar0RegisterWrite (vf : Nat) (off : Nat) (v : Word) : Statement (.bar0RegisterWrite vf off v) := of_none rfl

theorem functionLevelReset (vf : Nat) : Statement (.functionLevelReset vf) := of_none rfl

theorem vfEnableClear : Statement .vfEnableClear := of_none rfl

theorem vfResetEnd (vf : Nat) : Statement (.vfResetEnd vf) := of_none rfl

theorem mpServeRootRequest (n : Nat) : Statement (.mpServeRootRequest n) := of_none rfl

theorem boot (b : BootImage) : Statement (.boot b) := of_none rfl

theorem modnum (slot : Fin 16) (cmd : BitVec 512) : Statement (.modnum slot cmd) := of_none rfl

theorem pcreate (slot : Fin 16) (cmd : BitVec 512) : Statement (.pcreate slot cmd) := of_none rfl

theorem pdestroy (slot : Fin 16) (cmd : BitVec 512) : Statement (.pdestroy slot cmd) := of_none rfl

theorem prepare (slot : Fin 16) (cmd : BitVec 512) : Statement (.prepare slot cmd) := of_none rfl

theorem commit (slot : Fin 16) (cmd : BitVec 512) : Statement (.commit slot cmd) := of_none rfl

theorem abort (slot : Fin 16) (cmd : BitVec 512) : Statement (.abort slot cmd) := of_none rfl

theorem vfassign (slot : Fin 16) (cmd : BitVec 512) : Statement (.vfassign slot cmd) := of_none rfl

theorem slice (slot : Fin 16) (cmd : BitVec 512) : Statement (.slice slot cmd) := of_none rfl

theorem leavecap (slot : Fin 16) (cmd : BitVec 512) : Statement (.leavecap slot cmd) := of_none rfl

theorem debugHalt (slot : Fin 16) (cmd : BitVec 512) : Statement (.debugHalt slot cmd) := of_none rfl

theorem debugStep (slot : Fin 16) (cmd : BitVec 512) : Statement (.debugStep slot cmd) := of_none rfl

theorem debugResume (slot : Fin 16) (cmd : BitVec 512) : Statement (.debugResume slot cmd) := of_none rfl

theorem debugHalten (slot : Fin 16) (cmd : BitVec 512) : Statement (.debugHalten slot cmd) := of_none rfl

theorem debugRead (slot : Fin 16) (cmd : BitVec 512) : Statement (.debugRead slot cmd) := of_none rfl

theorem debugWrite (slot : Fin 16) (cmd : BitVec 512) : Statement (.debugWrite slot cmd) := of_none rfl

theorem debugRing (slot : Fin 16) (cmd : BitVec 512) : Statement (.debugRing slot cmd) := of_none rfl

theorem attest (slot : Fin 16) (cmd : BitVec 512) : Statement (.attest slot cmd) := of_none rfl

theorem summary (slot : Fin 16) (cmd : BitVec 512) : Statement (.summary slot cmd) := of_none rfl

theorem unfence (slot : Fin 16) (cmd : BitVec 512) : Statement (.unfence slot cmd) := of_none rfl

theorem domain (slot : Fin 16) (cmd : BitVec 512) : Statement (.domain slot cmd) := of_none rfl

theorem grouptab (slot : Fin 16) (cmd : BitVec 512) : Statement (.grouptab slot cmd) := of_none rfl

theorem vfreset (slot : Fin 16) (cmd : BitVec 512) : Statement (.vfreset slot cmd) := of_none rfl

theorem mcmdReservedOp (slot : Fin 16) (cmd : BitVec 512) : Statement (.mcmdReservedOp slot cmd) := of_none rfl

theorem managementNetworkMessage (m : NetMsg) : Statement (.managementNetworkMessage m) := of_none rfl

theorem dieClockGating (die : Nat) (gated : Bool) : Statement (.dieClockGating die gated) := of_none rfl

end Sys2Proof.Laws.Sized
end

