-- ==== Sys2Proof/Laws/Unit.lean ====
section
/-! SUPPORT. The dispatch of a unit command that can be accepted: what it leaves, whatever its unit does with it. -/

namespace Sys2Proof.Machine

/-- A command of a thread that may dispatch, with room in its unit, is accepted at once (R65, R66). -/
theorem State.dispatch_now (s : State) (unit : Nat) (room : State → Bool) (act : Word32 → State → State)
    (ha : Accepting s) (hr : room s = true) :
    s.dispatch unit room act = .next (act s.cur.plyCtr ((s.modCur (·.takePly s.curWord)).modCore s.curCore fun c =>
      { c with lastAccept := tput c.lastAccept (acceptKey unit) s.curTid })).retire := by
  simp only [State.dispatch, State.dispatchTo, ha.ring, hr, Bool.not_true, Bool.or_false, Bool.false_eq_true, if_false,
    State.drain_quiet _ _ ha.quiet, State.takeRefused_quiet _ ha.quiet]

/-- What completing the command leaves, from the state `u` in which its unit has it. -/
theorem dispatched_retire (s u : State) (keep : Core → Core) (th : Thread) (hm : u = { s with cores := u.cores })
    (hc : ∀ h, h ≠ s.curCore → u.core h = s.core h)
    (hk : u.retire.core s.curCore = keep (u.retire.core s.curCore)) (hr : th.r = s.cur.r)
    (hp : th.plyCtr = s.cur.plyCtr) (hcur : u.cur = th.takePly s.curWord)
    (ho : ∀ tid, tid ≠ s.curTid → u.thread s.curCore tid = s.thread s.curCore tid) :
    Dispatched s u.retire keep th := by
  have hcc : u.curCore = s.curCore := by rw [hm]
  have hct : u.curTid = s.curTid := by rw [hm]
  have hx : u.retire.cur = (th.takePly s.curWord).advance := by rw [← hcur]; exact State.cur_modCur _ _
  have hreg : u.retire.cur.r.g = s.cur.r.g ∧ u.retire.cur.r.f = s.cur.r.f ∧ u.retire.cur.r.fflags = s.cur.r.fflags := by
    rw [hx, ← hr]; exact Thread.advance_keeps (th.takePly s.curWord)
  refine ⟨⟨?_, ?_, hk, ?_⟩, ?_, ?_, ⟨?_, ?_, hreg.2.2⟩, ?_, ?_⟩
  · have h1 : u.retire = { u with cores := u.retire.cores } := rfl
    have h2 : ({ u with cores := u.retire.cores } : State) = { s with cores := u.retire.cores } :=
      congrArg (fun x : State => { x with cores := u.retire.cores }) hm
    exact h1.trans h2
  · intro h hne
    have : u.retire.core h = u.core h := State.core_modCore_ne _ _ (by rw [hcc]; exact Ne.symm hne)
    rw [this, hc h hne]
  · intro tid hne x hx
    have h1 : u.retire.thread s.curCore tid = u.thread s.curCore tid :=
      State.thread_modThread_ne _ _ (by intro h; exact hne (by rw [← hct]; exact h.2.symm))
    rw [h1, ho tid hne] at hx
    rw [hx]
  · rw [hx]; simp only [Thread.advance, Thread.tick, Thread.takePly, hp]
  · rw [hx]; simp only [Thread.advance_ring, Thread.takePly, hp, hr, List.getLast?_append, List.getLast?_singleton, Option.some_or]
  · intro n; simp only [State.g, Regs.readG, hreg.1]
  · intro n; simp only [State.f, Regs.readF, hreg.2.1]
  · rw [hx]; rfl
  · intro h0 h1
    rw [hx]
    simp only [Thread.advance, Thread.tick, Thread.takePly, hr, Regs.loopReturn_idle _ _ _ h0 h1]
    exact ⟨trivial, trivial, trivial⟩

/-- The accepted thread, whatever else of its core is changed with it. -/
theorem State.cur_accepted (s : State) (x : Core → Core) (hx : ∀ c, (x c).threads = c.threads) :
    ((s.modCur (·.takePly s.curWord)).modCore s.curCore x).cur = s.cur.takePly s.curWord := by
  simp only [State.cur, State.thread, State.modCore_curCore, State.modCore_curTid, State.modCur, State.modThread,
    State.core_modCore_same, Core.thread, hx, Core.modThread, tget_tput, if_true, Option.getD_some]

/-- A command whose unit only changes its core, in parts that are not its threads. -/
theorem dispatched_modCore (s : State) (unit : Nat) (room : State → Bool) (act : Word32 → State → State)
    (f : Core → Core) (ha : Accepting s) (hr : room s = true)
    (hact : ∀ x, (∀ c, (x c).threads = c.threads) →
      act s.cur.plyCtr ((s.modCur (·.takePly s.curWord)).modCore s.curCore x) =
      ((s.modCur (·.takePly s.curWord)).modCore s.curCore x).modCore s.curCore f)
    (hf : ∀ c x, f (Core.sameBut c x) = Core.sameBut (f c) x) :
    ∃ t, s.dispatch unit room act = .next t ∧ Dispatched s t (Core.sameBut (f (s.core s.curCore))) s.cur := by
  refine ⟨_, State.dispatch_now s unit room act ha hr, ?_⟩
  rw [hact _ (by intro c; rfl)]
  have hthr : ∀ c, (f c).threads = c.threads := fun c => by
    have := hf c c
    rw [show Core.sameBut c c = c from rfl] at this
    rw [this]; rfl
  have hz : ∀ z : Core, z = (s.core s.curCore).sameBut z →
      ∀ T, ({ f z with threads := T } : Core) = (f (s.core s.curCore)).sameBut { f z with threads := T } := by
    intro z hz T
    have : f z = (f (s.core s.curCore)).sameBut z := by rw [← hf, ← hz]
    rw [this]; rfl
  refine dispatched_retire s _ _ _ rfl ?_ ?_ rfl rfl ?_ ?_
  · intro h hne
    rw [State.core_modCore_ne _ _ (Ne.symm hne), State.core_modCore_ne _ _ (Ne.symm hne)]
    exact State.core_modCore_ne _ _ (Ne.symm hne)
  · rw [State.retire, State.modCur, State.modThread]
    simp only [State.modCore_curCore]
    rw [show (s.modCur (·.takePly s.curWord)).curCore = s.curCore from rfl, State.core_modCore_same]
    simp only [Core.modThread, State.core_modCore_same]
    refine hz _ ?_ _
    rw [State.modCur, State.modThread, State.core_modCore_same]
    rfl
  · simp only [State.cur, State.thread, State.modCore_curCore, State.modCore_curTid, State.core_modCore_same, State.modCur,
      State.modThread, Core.thread, hthr, Core.modThread, tget_tput, if_true, Option.getD_some]
  · intro tid hne
    simp only [State.thread, State.core_modCore_same, State.modCur, State.modThread, Core.thread, hthr,
      Core.modThread]
    rw [tget_tput_ne _ _ (Ne.symm hne)]

end Sys2Proof.Machine
end

