-- ==== Sys2Proof/Tests/Slice0.lean ====
section
/-! SUPPORT. Tests: ill-formed terms that the checks refuse, words written out from the spec that decode, single steps with
results from the spec, and states that meet the hypotheses of the statements. -/

namespace Sys2Proof.Tests

open Sys2Proof.Machine

set_option Elab.async false

/-! ## The checks on instructions (R58) -/

theorem test_wf_bit_field : ¬(Instr.bextz 4 5 63 1).WellFormed ∧ (Instr.bextz 4 5 63 0).WellFormed := by decide
theorem test_wf_cas_operand : ¬(Instr.casd 7 8 0 .acquire .die 0).WellFormed ∧
    ¬(Instr.casw 0 8 0 .plain .core 0).WellFormed ∧ (Instr.casd 30 8 0 .acquire .die 0).WellFormed := by decide
theorem test_wf_scope : ¬(Instr.swpd 4 5 6 .plain .sys 0).WellFormed ∧ (Instr.swpd 4 5 6 .plain .dom 0).WellFormed := by
  decide
theorem test_wf_loop_length : ¬(Instr.loop0 3 0).WellFormed ∧ (Instr.loop0 3 1).WellFormed := by decide
theorem test_wf_zero_mask : ¬(Instr.mwait 0 0).WellFormed ∧ (Instr.mwait 0 1).WellFormed := by decide
theorem test_wf_counter : ¬(Instr.chl 5 6 0 3 false).WellFormed ∧ (Instr.chl 5 6 0 3 true).WellFormed := by decide
theorem test_wf_stream : ¬(Instr.vmaxx 5 28 0 .rne).WellFormed ∧ (Instr.vmaxx 5 27 0 .rne).WellFormed := by decide
theorem test_wf_register : ¬(Instr.srr 4 0x00A).WellFormed ∧ (Instr.srr 4 0x001).WellFormed := by decide
theorem test_wf_mfc : ¬(Instr.mfc 4 14 0).WellFormed ∧ (Instr.mfc 4 15 0).WellFormed := by decide
theorem test_wf_range : ¬(Instr.threadWake 4096 0).WellFormed ∧ (Instr.threadWake 4095 10).WellFormed := by decide

/-- The examples of R58's table, and a word with a bit above 31. -/
theorem test_reject : decodeWord 0xEC000000 = .error .illegalMajor ∧ decodeWord 0x00000000 = .error .illegalMajor ∧
    decodeWord 0xFFFFFFFF = .error .illegalMajor ∧ decodeWord 0x71053511 = .error .reservedField ∧
    decodeWord 0x9C430005 = .error .roundField ∧ decodeWord 0x710534D0 = .error .scopeField ∧
    decodeWord 0xE4800700 = .error .mfcWord ∧ decodeWord 0x104853000 = .error .notOneWord :=
  ⟨rfl, rfl, rfl, rfl, rfl, rfl, rfl, rfl⟩

/-! ## Decoding: the spec's example words, else words written out by the spec's fields -/

theorem test_decode_alu :
    decodeWord 0x04853000 = .ok (.add 4 5 6) ∧
    decodeWord 0b000001_11110_01011_10011_00000010000 = .ok (.sub 30 11 19) ∧
    decodeWord 0b000001_01100_11010_10000_00000100000 = .ok (.mul 12 26 16) ∧
    decodeWord 0b000001_01111_11111_10110_00000110000 = .ok (.mulh 15 31 22) ∧
    decodeWord 0b000001_11010_01101_10011_00001000000 = .ok (.mulhz 26 13 19) ∧
    decodeWord 0b000001_10101_00100_01101_00001010000 = .ok (.div 21 4 13) ∧
    decodeWord 0b000001_11101_01001_01101_00001100000 = .ok (.divz 29 9 13) ∧
    decodeWord 0b000001_11010_00011_10110_00001110000 = .ok (.rem 26 3 22) ∧
    decodeWord 0b000001_11010_11101_00111_00010000000 = .ok (.remz 26 29 7) ∧
    decodeWord 0b000001_01000_10100_11000_00010010000 = .ok (.and 8 20 24) ∧
    decodeWord 0b000001_10101_10110_01100_00010100000 = .ok (.or 21 22 12) ∧
    decodeWord 0b000001_10100_11011_11010_00010110000 = .ok (.xor 20 27 26) ∧
    decodeWord 0b000001_10100_01101_11010_00011000000 = .ok (.andn 20 13 26) ∧
    decodeWord 0b000001_01110_01101_00010_00011010000 = .ok (.sll 14 13 2) ∧
    decodeWord 0b000001_01110_00001_10000_00011100000 = .ok (.srl 14 1 16) ∧
    decodeWord 0b000001_10100_11010_00111_00011110000 = .ok (.sra 20 26 7) :=
  ⟨rfl, rfl, rfl, rfl, rfl, rfl, rfl, rfl, rfl, rfl, rfl, rfl, rfl, rfl, rfl, rfl⟩

theorem test_decode_alu2 :
    decodeWord 0b000001_10101_01110_01111_00100000000 = .ok (.rol 21 14 15) ∧
    decodeWord 0b000001_11101_10111_01000_00100010000 = .ok (.ror 29 23 8) ∧
    decodeWord 0b000001_01100_10111_11111_00100100000 = .ok (.slt 12 23 31) ∧
    decodeWord 0b000001_01001_10000_11000_00100110000 = .ok (.sltz 9 16 24) ∧
    decodeWord 0b000001_10101_10101_11101_00101000000 = .ok (.min 21 21 29) ∧
    decodeWord 0b000001_01010_01000_10101_00101010000 = .ok (.max 10 8 21) ∧
    decodeWord 0b000001_01101_00100_00110_00101100000 = .ok (.minz 13 4 6) ∧
    decodeWord 0b000001_01011_00000_01001_00101110000 = .ok (.maxz 11 0 9) ∧
    decodeWord 0b000001_11100_01111_10110_00110000000 = .ok (.sel 28 15 22) ∧
    decodeWord 0b000001_01110_00101_00000_00110010000 = .ok (.clz 14 5) ∧
    decodeWord 0b000001_01100_10010_00000_00110100000 = .ok (.ctz 12 18) ∧
    decodeWord 0b000001_01111_11101_00000_00110110000 = .ok (.ffs 15 29) ∧
    decodeWord 0b000001_10000_11110_00000_00111000000 = .ok (.popc 16 30) ∧
    decodeWord 0b000001_11011_11010_00000_00111010000 = .ok (.brev 27 26) ∧
    decodeWord 0b000001_01100_00100_00000_00111100000 = .ok (.bswap 12 4) ∧
    decodeWord 0b000001_10011_10011_10001_01000000000 = .ok (.addw 19 19 17) :=
  ⟨rfl, rfl, rfl, rfl, rfl, rfl, rfl, rfl, rfl, rfl, rfl, rfl, rfl, rfl, rfl, rfl⟩

theorem test_decode_alu3 :
    decodeWord 0b000001_01000_10000_00110_01000010000 = .ok (.subw 8 16 6) ∧
    decodeWord 0b000001_11111_01101_01100_01000100000 = .ok (.mulw 31 13 12) ∧
    decodeWord 0b000001_11000_01011_01110_01001010000 = .ok (.divw 24 11 14) ∧
    decodeWord 0b000001_10100_10110_00010_01001100000 = .ok (.divwz 20 22 2) ∧
    decodeWord 0b000001_11000_00100_00111_01001110000 = .ok (.remw 24 4 7) ∧
    decodeWord 0b000001_01110_00011_01000_01010000000 = .ok (.remwz 14 3 8) ∧
    decodeWord 0b000001_01101_00101_01011_01011010000 = .ok (.sllw 13 5 11) ∧
    decodeWord 0b000001_01111_11111_01010_01011100000 = .ok (.srlw 15 31 10) ∧
    decodeWord 0b000001_01010_00101_01000_01011110000 = .ok (.sraw 10 5 8) :=
  ⟨rfl, rfl, rfl, rfl, rfl, rfl, rfl, rfl, rfl⟩

theorem test_decode_imm :
    decodeWord 0x0926FFFF = .ok (.addi 9 6 65535) ∧
    decodeWord 0b000011_00110_00001_00110_11101000110 = .ok (.andi 6 1 14150) ∧
    decodeWord 0b000100_01011_10100_00000_00000111100 = .ok (.ori 11 20 60) ∧
    decodeWord 0b000101_00111_10001_00001_11011001110 = .ok (.xori 7 17 3790) ∧
    decodeWord 0b000110_01011_00011_00110_10100100101 = .ok (.slti 11 3 13605) ∧
    decodeWord 0b000111_01101_01101_01100_00101010100 = .ok (.sltzi 13 13 24916) ∧
    decodeWord 0x24A003C0 = .ok (.li 5 960) ∧
    decodeWord 0x28A00143 = .ok (.lsi 5 323) :=
  ⟨rfl, rfl, rfl, rfl, rfl, rfl, rfl, rfl⟩

theorem test_decode_shi :
    decodeWord 0x20850003 = .ok (.slli 4 5 3) ∧
    decodeWord 0b001000_11101_01011_01000_00000111100 = .ok (.srli 29 11 60) ∧
    decodeWord 0b001000_10100_10001_10000_00000111010 = .ok (.srai 20 17 58) ∧
    decodeWord 0b001000_11100_01101_11000_00000110011 = .ok (.rori 28 13 51) ∧
    decodeWord 0b001000_11100_11010_00100_00000001000 = .ok (.slliw 28 26 8) ∧
    decodeWord 0b001000_01101_01010_01100_00000010011 = .ok (.srliw 13 10 19) ∧
    decodeWord 0b001000_11001_01100_10100_00000001011 = .ok (.sraiw 25 12 11) ∧
    decodeWord 0b001000_10110_11101_11100_00000000000 = .ok (.roriw 22 29 0) :=
  ⟨rfl, rfl, rfl, rfl, rfl, rfl, rfl, rfl⟩

theorem test_decode_pal :
    decodeWord 0b001011_00111_10101_00000_00000000000 = .ok (.padd 7 21 0 .w8) ∧
    decodeWord 0b001011_11010_00010_01101_00000011000 = .ok (.psub 26 2 13 .w32) ∧
    decodeWord 0b001011_11101_11111_00011_00000100110 = .ok (.padds 29 31 3 .w16 true) ∧
    decodeWord 0b001011_00000_10101_10000_00000111000 = .ok (.psubs 0 21 16 .w32 false) ∧
    decodeWord 0b001011_01110_00110_11011_00001000000 = .ok (.pmul 14 6 27 .w8) ∧
    decodeWord 0b001011_01000_01011_00001_00001010110 = .ok (.pmulh 8 11 1 .w16 true) ∧
    decodeWord 0b001011_10000_11111_01010_00001100110 = .ok (.pdiv 16 31 10 .w16 true) ∧
    decodeWord 0b001011_11011_11111_10100_00001110000 = .ok (.prem 27 31 20 .w8 false) ∧
    decodeWord 0b001011_00111_00111_10111_00010000100 = .ok (.pmin 7 7 23 .w16 false) ∧
    decodeWord 0b001011_00110_00011_11011_00010010010 = .ok (.pmax 6 3 27 .w8 true) ∧
    decodeWord 0b001011_01110_00111_10100_00010101000 = .ok (.pceq 14 7 20 .w32) ∧
    decodeWord 0b001011_01000_01101_00110_00010110100 = .ok (.pclt 8 13 6 .w16 false) ∧
    decodeWord 0b001011_10001_11011_01010_00011000000 = .ok (.psll 17 27 10 .w8) ∧
    decodeWord 0b001011_00000_00111_01100_00011010100 = .ok (.psrl 0 7 12 .w16) ∧
    decodeWord 0b001011_11010_11100_01011_00011101000 = .ok (.psra 26 28 11 .w32) ∧
    decodeWord 0b001011_01111_10010_00000_00011110100 = .ok (.pclz 15 18 .w16) :=
  ⟨rfl, rfl, rfl, rfl, rfl, rfl, rfl, rfl, rfl, rfl, rfl, rfl, rfl, rfl, rfl, rfl⟩

theorem test_decode_pal2 :
    decodeWord 0b001011_10110_11100_00000_00100001000 = .ok (.pctz 22 28 .w32) ∧
    decodeWord 0b001011_00111_11001_00000_00100010100 = .ok (.pffs 7 25 .w16) ∧
    decodeWord 0b001011_10010_10100_00000_00100101000 = .ok (.ppopc 18 20 .w32) :=
  ⟨rfl, rfl, rfl⟩

theorem test_decode_bit :
    decodeWord 0x30855808 = .ok (.bextz 4 5 8 11) ∧
    decodeWord 0b001100_01110_01111_00111_01000101101 = .ok (.bexti 14 15 45 7) ∧
    decodeWord 0b001100_11010_11101_01001_10000100111 = .ok (.bdep 26 29 39 9) :=
  ⟨rfl, rfl, rfl⟩

theorem test_decode_plain :
    decodeWord 0b001101_01100_11101_00011_01110001000 = .ok (.lb 12 29 440 8) ∧
    decodeWord 0b001110_11000_01101_10000_11010011101 = .ok (.lbz 24 13 2153 13) ∧
    decodeWord 0b001111_01000_10100_10010_00111010100 = .ok (.lh 8 20 2333 4) ∧
    decodeWord 0b010000_00101_01110_11101_10101011000 = .ok (.lhz 5 14 3797 8) ∧
    decodeWord 0b010001_10010_01111_11000_11101101001 = .ok (.lw 18 15 3190 9) ∧
    decodeWord 0b010010_01011_11110_10111_01011000000 = .ok (.lwz 11 30 2988 0) ∧
    decodeWord 0x4C850022 = .ok (.ld 4 5 2 2) ∧
    decodeWord 0b010100_11000_00100_01000_10001110011 = .ok (.sb 24 4 1095 3) ∧
    decodeWord 0b010101_11011_10100_01100_00110110010 = .ok (.sh 27 20 1563 2) ∧
    decodeWord 0x58A60020 = .ok (.sw 5 6 2 0) ∧
    decodeWord 0x5CA30000 = .ok (.sd 5 3 0 0) ∧
    decodeWord 0b011000_10000_00010_10000_10111010110 = .ok (.flw 16 2 2141 6) ∧
    decodeWord 0b011001_11011_01010_01100_01010011111 = .ok (.fld 27 10 1577 15) ∧
    decodeWord 0b011010_10001_00100_11101_10010000011 = .ok (.fsw 17 4 3784 3) ∧
    decodeWord 0b011011_00110_10001_01000_01010111100 = .ok (.fsd 6 17 1067 12) :=
  ⟨rfl, rfl, rfl, rfl, rfl, rfl, rfl, rfl, rfl, rfl, rfl, rfl, rfl, rfl, rfl⟩

theorem test_decode_ordered :
    decodeWord 0x71053491 = .ok (.ldo 8 5 6 2 true .die 1) ∧
    decodeWord 0x74A60740 = .ok (.sto 5 6 0 3 true .sys 0) :=
  ⟨rfl, rfl⟩

theorem test_decode_atw :
    decodeWord 0b011110_00110_01110_01111_00001100100 = .ok (.atwadd 6 14 15 .acquire .mod 4) ∧
    decodeWord 0b011110_11000_00110_01000_00110111010 = .ok (.atwand 24 6 8 .release .dom 10) ∧
    decodeWord 0b011110_10101_01111_00001_01010110100 = .ok (.atwor 21 15 1 .release .dom 4) ∧
    decodeWord 0b011110_10001_01010_10000_01101011101 = .ok (.atwxor 17 10 16 .acquire .die 13) ∧
    decodeWord 0b011110_01100_01000_01000_10001100000 = .ok (.atwmax 12 8 8 .acquire .mod 0) ∧
    decodeWord 0b011110_00111_11011_11010_10100110100 = .ok (.atwmin 7 27 26 .plain .dom 4) ∧
    decodeWord 0b011110_10001_10111_11101_11010101111 = .ok (.atwmaxz 17 23 29 .release .mod 15) ∧
    decodeWord 0b011110_11100_00010_10010_11101111111 = .ok (.atwminz 28 2 18 .acquire .dom 15) :=
  ⟨rfl, rfl, rfl, rfl, rfl, rfl, rfl, rfl⟩

theorem test_decode_atd :
    decodeWord 0x7C8530E0 = .ok (.atdadd 4 5 6 .acqRel .mod 0) ∧
    decodeWord 0b011111_10111_11111_10111_00101001000 = .ok (.atdand 23 31 23 .acquire .core 8) ∧
    decodeWord 0b011111_01100_01011_11100_01011100000 = .ok (.atdor 12 11 28 .acqRel .mod 0) ∧
    decodeWord 0b011111_01001_00111_11011_01100100010 = .ok (.atdxor 9 7 27 .plain .mod 2) ∧
    decodeWord 0b011111_00101_11110_11101_10001011010 = .ok (.atdmax 5 30 29 .acquire .die 10) ∧
    decodeWord 0b011111_10011_11111_10010_10100011111 = .ok (.atdmin 19 31 18 .plain .die 15) ∧
    decodeWord 0b011111_01111_10011_10100_11010100001 = .ok (.atdmaxz 15 19 20 .release .mod 1) ∧
    decodeWord 0b011111_01000_10000_10110_11110010001 = .ok (.atdminz 8 16 22 .release .die 1) :=
  ⟨rfl, rfl, rfl, rfl, rfl, rfl, rfl, rfl⟩

theorem test_decode_atx :
    decodeWord 0b100000_10110_00000_10100_00010010101 = .ok (.swpw 22 0 20 .release .die 5) ∧
    decodeWord 0b100000_10010_11101_00011_00101001111 = .ok (.swpd 18 29 3 .acquire .core 15) ∧
    decodeWord 0b100000_10000_11001_00011_01011010100 = .ok (.casw 16 25 3 .acqRel .die 4) ∧
    decodeWord 0x80C80350 = .ok (.casd 6 8 0 .acquire .die 0) :=
  ⟨rfl, rfl, rfl, rfl⟩

theorem test_decode_fence :
    decodeWord 0x84000040 = .ok (.fence .sys) ∧
    decodeWord 0x84000110 = .ok (.fencea .die) ∧
    decodeWord 0x84000220 = .ok (.fencer .mod) :=
  ⟨rfl, rfl, rfl⟩

theorem test_decode_br :
    decodeWord 0b100010_01000_10111_00000_00011011001 = .ok (.beq 8 23 217) ∧
    decodeWord 0x88A03FFD = .ok (.bne 5 0 8189) ∧
    decodeWord 0b100010_11100_10111_01011_01010001110 = .ok (.blt 28 23 6798) ∧
    decodeWord 0b100010_01111_00111_01110_10111101100 = .ok (.bge 15 7 5612) ∧
    decodeWord 0b100010_11100_10100_10000_00001110001 = .ok (.bltz 28 20 113) ∧
    decodeWord 0b100010_11010_11100_10101_10011110101 = .ok (.bgez 26 28 3317) :=
  ⟨rfl, rfl, rfl, rfl, rfl, rfl⟩

theorem test_decode_jump :
    decodeWord 0b100011_01000_00100_11010_11011111110 = .ok (.j 17094398) ∧
    decodeWord 0b100100_00111_01101_10111_00101010001 = .ok (.jal 15579473) :=
  ⟨rfl, rfl⟩

theorem test_decode_jr :
    decodeWord 0x94010000 = .ok (.jr 1) ∧
    decodeWord 0x94250100 = .ok (.jalr 1 5) :=
  ⟨rfl, rfl⟩

theorem test_decode_loop :
    decodeWord 0x98060003 = .ok (.loop0 6 3) ∧
    decodeWord 0x98081020 = .ok (.loop1 8 32) :=
  ⟨rfl, rfl⟩

theorem test_decode_fpu :
    decodeWord 0b100111_11010_11111_11001_00000001011 = .ok (.fadd 26 31 25 .d .rdn) ∧
    decodeWord 0b100111_01110_00010_11100_00000010010 = .ok (.fsub 14 2 28 .s .rup) ∧
    decodeWord 0x9D4A1828 = .ok (.fmul 10 10 3 .d .rne) ∧
    decodeWord 0x9CC75038 = .ok (.fdiv 6 7 10 .d .rne) ∧
    decodeWord 0b100111_00111_10111_00000_00001001000 = .ok (.fsqrt 7 23 .d .rne) ∧
    decodeWord 0x9C432050 = .ok (.fma 2 3 4 .s .rne) ∧
    decodeWord 0b100111_10100_11110_11110_00001101011 = .ok (.fms 20 30 30 .d .rdn) ∧
    decodeWord 0b100111_11000_10000_00111_00001110001 = .ok (.fnms 24 16 7 .s .rtz) ∧
    decodeWord 0b100111_11011_01010_01001_00010000000 = .ok (.fmin 27 10 9 .s) ∧
    decodeWord 0b100111_00000_00000_10001_00010010000 = .ok (.fmax 0 0 17 .s) ∧
    decodeWord 0b100111_00110_10101_01010_00010100000 = .ok (.fsgn 6 21 10 .s) ∧
    decodeWord 0b100111_01111_10001_00100_00010110000 = .ok (.fsgnn 15 17 4 .s) ∧
    decodeWord 0b100111_00010_10000_10110_00011000000 = .ok (.fsgnx 2 16 22 .s) :=
  ⟨rfl, rfl, rfl, rfl, rfl, rfl, rfl, rfl, rfl, rfl, rfl, rfl, rfl⟩

theorem test_decode_fcv :
    decodeWord 0b101000_10111_01010_00000_00000000000 = .ok (.fdtos 23 10 .rne) ∧
    decodeWord 0b101000_10111_10000_00000_00000001000 = .ok (.fstod 23 16) ∧
    decodeWord 0b101000_00000_11011_00000_00000010011 = .ok (.fstoh 0 27 .rdn) ∧
    decodeWord 0b101000_01111_00010_00000_00000011000 = .ok (.fhtos 15 2) ∧
    decodeWord 0b101000_01001_10110_00000_00000100010 = .ok (.fstob 9 22 .rup) ∧
    decodeWord 0b101000_00000_11101_00000_00000101000 = .ok (.fbtos 0 29) ∧
    decodeWord 0xA2210072 = .ok (.ftoi 17 1 .d true false .rup) ∧
    decodeWord 0b101000_01111_10111_00000_00010100001 = .ok (.itof 15 23 .d false false .rtz) ∧
    decodeWord 0b101000_10101_00100_00000_00011000000 = .ok (.fmvgf 21 4) ∧
    decodeWord 0b101000_00111_11101_00000_00011001000 = .ok (.fmvfg 7 29) ∧
    decodeWord 0b101000_00101_00101_01110_00100000000 = .ok (.feq 5 5 14 .s) ∧
    decodeWord 0xA2232108 = .ok (.flt 17 3 4 .s) ∧
    decodeWord 0b101000_00101_01010_11101_00100010000 = .ok (.fle 5 10 29 .s) ∧
    decodeWord 0xA2010138 = .ok (.fclass 16 1 .d) :=
  ⟨rfl, rfl, rfl, rfl, rfl, rfl, rfl, rfl, rfl, rfl, rfl, rfl, rfl, rfl⟩

theorem test_decode_sys :
    decodeWord 0xA4000000 = .ok .nop ∧
    decodeWord 0xA4801001 = .ok (.srr 4 1) ∧
    decodeWord 0xA4052001 = .ok (.srw 5 1) ∧
    decodeWord 0xA4003007 = .ok (.trap 7) ∧
    decodeWord 0xA4004000 = .ok (.brk 0) ∧
    decodeWord 0xA4005000 = .ok .rte :=
  ⟨rfl, rfl, rfl, rfl, rfl, rfl⟩

theorem test_decode_ctx :
    decodeWord 0xA8853000 = .ok (.hstart 4 5 6) ∧
    decodeWord 0xA8040040 = .ok (.hexit 4) ∧
    decodeWord 0xA8870080 = .ok (.hjoin 4 7) ∧
    decodeWord 0xA88530C0 = .ok (.waitm 4 5 6) ∧
    decodeWord 0xA8000100 = .ok .yield ∧
    decodeWord 0xA8000140 = .ok .yieldu :=
  ⟨rfl, rfl, rfl, rfl, rfl, rfl⟩

theorem test_decode_sync :
    decodeWord 0xACA00020 = .ok (.barcfg 5 0 2) ∧
    decodeWord 0xAC000120 = .ok (.bararv 0 2) ∧
    decodeWord 0xAC000220 = .ok (.barwt 0 2) ∧
    decodeWord 0xACC00330 = .ok (.armc 6 0 3) ∧
    decodeWord 0xAC000430 = .ok (.waitc 0 3) :=
  ⟨rfl, rfl, rfl, rfl, rfl⟩

theorem test_decode_tag :
    decodeWord 0xB0850010 = .ok (.tglk 4 5 1) ∧
    decodeWord 0xB0053118 = .ok (.tgset 5 6 1 2) ∧
    decodeWord 0xB1250210 = .ok (.tginv 9 5 1) ∧
    decodeWord 0xB0850300 = .ok (.tgrd 4 5 false) ∧
    decodeWord 0xB0000400 = .ok .tgclr :=
  ⟨rfl, rfl, rfl, rfl, rfl⟩

theorem test_decode_tile :
    decodeWord 0xB4C70005 = .ok (.tbdef 6 7 0 5) ∧
    decodeWord 0xB4000105 = .ok (.tbst 0 5) ∧
    decodeWord 0xB4000205 = .ok (.tbfree 0 5) ∧
    decodeWord 0xB4000385 = .ok (.tbwait 0 .ready 5) ∧
    decodeWord 0xB4000405 = .ok (.publ 0 5) :=
  ⟨rfl, rfl, rfl, rfl, rfl⟩

theorem test_decode_vec :
    decodeWord 0xB8000020 = .ok (.vcvt 0 1 0 .rne) ∧
    decodeWord 0xB81D00C0 = .ok (.vadd 29 0 2 0 .rne) ∧
    decodeWord 0xB8030140 = .ok (.vsub 3 0 2 0 .rne) ∧
    decodeWord 0xB80501A1 = .ok (.vmul 5 0 1 0 .rtz) ∧
    decodeWord 0xB8E40260 = .ok (.vfma 7 4 0 3 0 .rne) ∧
    decodeWord 0xB80202A0 = .ok (.vmax 2 0 1 0 .rne) ∧
    decodeWord 0xB8020320 = .ok (.vmin 2 0 1 0 .rne) ∧
    decodeWord 0xB80203A0 = .ok (.vceq 2 0 1 0 .rne) ∧
    decodeWord 0xB8020420 = .ok (.vclt 2 0 1 0 .rne) ∧
    decodeWord 0xB80204A0 = .ok (.vcle 2 0 1 0 .rne) ∧
    decodeWord 0xB8FF0548 = .ok (.vsel 7 31 0 2 1 .rne) ∧
    decodeWord 0xB8A005A0 = .ok (.vscale 5 0 1 0 .rne) :=
  ⟨rfl, rfl, rfl, rfl, rfl, rfl, rfl, rfl, rfl, rfl, rfl, rfl⟩

theorem test_decode_vcf :
    decodeWord 0xBCA60000 = .ok (.vsbase 5 6 0 0) ∧
    decodeWord 0xBCE80110 = .ok (.vsdim 7 8 0 0 1) ∧
    decodeWord 0xBC000200 = .ok (.vson 0 0) ∧
    decodeWord 0xBC000300 = .ok (.vsoff 0 0) ∧
    decodeWord 0xBD200400 = .ok (.vsetvl 9 0) ∧
    decodeWord 0xBC000500 = .ok (.vwait 0) :=
  ⟨rfl, rfl, rfl, rfl, rfl, rfl⟩

theorem test_decode_mat :
    decodeWord 0xC0000000 = .ok (.mclr 0 0 0) ∧
    decodeWord 0xC0A00190 = .ok (.mmaw 5 0 0 2 1) ∧
    decodeWord 0xC0A00260 = .ok (.mmah 5 0 0 1 2) ∧
    decodeWord 0xC0A60330 = .ok (.mmae 5 6 0 0 3) ∧
    decodeWord 0xC0A004C0 = .ok (.mmai 5 0 0 3 0) ∧
    decodeWord 0xC0A00510 = .ok (.mmas 5 0 0 0 1) ∧
    decodeWord 0xC0A60660 = .ok (.mmaq 5 6 0 1 2) ∧
    decodeWord 0xC1600701 = .ok (.mrd 11 0 0 0 0 .rtz) ∧
    decodeWord 0xC1090800 = .ok (.mld 8 9 0 0) ∧
    decodeWord 0xC16C0900 = .ok (.mst 11 12 0 0) ∧
    decodeWord 0xC0000A10 = .ok (.mwait 0 1) :=
  ⟨rfl, rfl, rfl, rfl, rfl, rfl, rfl, rfl, rfl, rfl, rfl⟩

theorem test_decode_mcf :
    decodeWord 0xC4C00020 = .ok (.mcfg 6 0 2) :=
  rfl

theorem test_decode_cpy :
    decodeWord 0xC8A60000 = .ok (.cshape 5 6 0) ∧
    decodeWord 0xC8A60138 = .ok (.chl 5 6 0 3 true) ∧
    decodeWord 0xC8C50200 = .ok (.clh 6 5 0 0 false) ∧
    decodeWord 0xC8E80319 = .ok (.cbb 7 8 0 1 true .rtz) ∧
    decodeWord 0xC8E90428 = .ok (.cmc 7 9 0 2 true .rne) ∧
    decodeWord 0xC94B0500 = .ok (.cidx 10 11 0) ∧
    decodeWord 0xC8A60648 = .ok (.cgath 5 6 0 4 true) ∧
    decodeWord 0xC8C50700 = .ok (.cscat 6 5 0 0 false) ∧
    decodeWord 0xC8000800 = .ok (.cwait 0) :=
  ⟨rfl, rfl, rfl, rfl, rfl, rfl, rfl, rfl, rfl⟩

theorem test_decode_qrn :
    decodeWord 0xCCA60000 = .ok (.qld 5 6 0) ∧
    decodeWord 0xCCA60100 = .ok (.qscr 5 6 0) ∧
    decodeWord 0xCCA60280 = .ok (.qpt 5 6 0 true .rne) ∧
    decodeWord 0xCCA603A0 = .ok (.qseq 5 6 0 true 1 .rne) ∧
    decodeWord 0xCCA00400 = .ok (.qskip 5 0) ∧
    decodeWord 0xCC000500 = .ok (.qwait 0) :=
  ⟨rfl, rfl, rfl, rfl, rfl, rfl⟩

theorem test_decode_obs :
    decodeWord 0xD0A00040 = .ok (.objoin 5 0 1) ∧
    decodeWord 0xD0C70140 = .ok (.obmax 6 7 0 1) ∧
    decodeWord 0xD1090240 = .ok (.obred 8 9 0 1 .rne) ∧
    decodeWord 0xD0A00340 = .ok (.obstat 5 0 1) ∧
    decodeWord 0xD0000440 = .ok (.obleave 0 1) ∧
    decodeWord 0xD0A00500 = .ok (.obcal 5 0) ∧
    decodeWord 0xD0000600 = .ok (.obwait 0) :=
  ⟨rfl, rfl, rfl, rfl, rfl, rfl, rfl⟩

theorem test_decode_col :
    decodeWord 0xD4A00000 = .ok (.colq 5 0) ∧
    decodeWord 0xD4A60100 = .ok (.colput 5 6 0) ∧
    decodeWord 0xD4A00200 = .ok (.colgo 5 0) ∧
    decodeWord 0xD4A60300 = .ok (.colwt 5 6 0) ∧
    decodeWord 0xD4A60400 = .ok (.colcan 5 6 0) ∧
    decodeWord 0xD4000500 = .ok (.colsync 0) :=
  ⟨rfl, rfl, rfl, rfl, rfl, rfl⟩

theorem test_decode_grf :
    decodeWord 0xD8A60000 = .ok (.gnode 5 6 0) ∧
    decodeWord 0xD8A60101 = .ok (.gedge 5 6 0 true) ∧
    decodeWord 0xD8A60201 = .ok (.grun 5 6 0 true) ∧
    decodeWord 0xD8A00300 = .ok (.launch 5 0) ∧
    decodeWord 0xD8A60404 = .ok (.shapeAdd 5 6 0 true) ∧
    decodeWord 0xD8B00401 = .ok (.shapeSet 5 16 0 false) ∧
    decodeWord 0b110110_01100_01110_11110_10000000010 = .ok (.shapeRead 12 14 15) ∧
    decodeWord 0xD8A60500 = .ok (.confirm 5 6 0) ∧
    decodeWord 0xD8A00601 = .ok (.cancel 5 0 .launch) ∧
    decodeWord 0xD8A00709 = .ok (.compl 5 0 true .launch) ∧
    decodeWord 0xD8000800 = .ok (.grfwait 0) :=
  ⟨rfl, rfl, rfl, rfl, rfl, rfl, rfl, rfl, rfl, rfl, rfl⟩

theorem test_decode_vir :
    decodeWord 0xDCA60000 = .ok (.ctxnew 5 6 0) ∧
    decodeWord 0b110111_11010_00101_11010_00100000000 = .ok (.grantCores 26 5 13) ∧
    decodeWord 0xDCA60110 = .ok (.grantMem 5 6 0) ∧
    decodeWord 0xDD400120 = .ok (.grantPages 10 0 0) ∧
    decodeWord 0b110111_11000_10001_01000_00100110000 = .ok (.grantQueues 24 17 4) ∧
    decodeWord 0b110111_01111_10111_01100_00101000000 = .ok (.grantCells 15 23 6) ∧
    decodeWord 0b110111_01001_11110_00000_00101010000 = .ok (.grantVf 9 30 0) ∧
    decodeWord 0b110111_01000_10001_11010_01000000000 = .ok (.revokeCores 8 17 13) ∧
    decodeWord 0xDCA00210 = .ok (.revokeMem 5 0 0) ∧
    decodeWord 0b110111_01111_11011_11000_01000100000 = .ok (.revokePages 15 27 12) ∧
    decodeWord 0b110111_01010_11000_11000_01000110000 = .ok (.revokeQueues 10 24 12) ∧
    decodeWord 0b110111_11100_00111_10000_01001000000 = .ok (.revokeCells 28 7 8) ∧
    decodeWord 0b110111_10000_01001_10100_01001010000 = .ok (.revokeVf 16 9 10) ∧
    decodeWord 0xDCA00300 = .ok (.ctxdel 5 0) ∧
    decodeWord 0xDCA60400 = .ok (.ctxbud 5 6 0) ∧
    decodeWord 0xDCA00500 = .ok (.ctxstat 5 0) :=
  ⟨rfl, rfl, rfl, rfl, rfl, rfl, rfl, rfl, rfl, rfl, rfl, rfl, rfl, rfl, rfl, rfl⟩

theorem test_decode_vir2 :
    decodeWord 0xDCA60600 = .ok (.ctxenter 5 6 0) ∧
    decodeWord 0xDCA00700 = .ok (.reflect 5 0) ∧
    decodeWord 0xDC000800 = .ok (.virwait 0) :=
  ⟨rfl, rfl, rfl⟩

theorem test_decode_pwr :
    decodeWord 0xE0A00000 = .ok (.eleave 5 0) ∧
    decodeWord 0xE0A60100 = .ok (.ebud 5 6 0) ∧
    decodeWord 0xE0A00200 = .ok (.eread 5 0) ∧
    decodeWord 0xE0000300 = .ok (.pwait 0) :=
  ⟨rfl, rfl, rfl, rfl⟩

theorem test_decode_mfc :
    decodeWord 0xE4800100 = .ok (.mfc 4 2 0) :=
  rfl

theorem test_decode_vex :
    decodeWord 0xE8000020 = .ok (.vexp2 0 1 0 .rne) ∧
    decodeWord 0xE80000A0 = .ok (.vlog2 0 1 0 .rne) ∧
    decodeWord 0xE8000120 = .ok (.vrcp 0 1 0 .rne) ∧
    decodeWord 0xE80001A0 = .ok (.vrsq 0 1 0 .rne) ∧
    decodeWord 0xE8000248 = .ok (.vsumx 0 2 1 .rne) ∧
    decodeWord 0xE8060280 = .ok (.vdotx 6 0 0 0 .rne) ∧
    decodeWord 0xE9400300 = .ok (.vrdq 10 0 0 .rne) ∧
    decodeWord 0xE80003A0 = .ok (.vclrq 0 1 .rne) ∧
    decodeWord 0xE8A00400 = .ok (.vmaxr 5 0 0 .rne) ∧
    decodeWord 0xE8A40480 = .ok (.vmaxx 5 4 0 .rne) ∧
    decodeWord 0xE8060560 = .ok (.vqnt 6 0 3 0 .rne) :=
  ⟨rfl, rfl, rfl, rfl, rfl, rfl, rfl, rfl, rfl, rfl, rfl⟩
/-! ## A small state: one unit on core 0, its control context at 0x10000 -/

def uid : UnitId := { ctx := 0, lnum := 0, index := 0 }

def unit0 : Resident :=
  { id := uid, prov := false, tail := false, raised := 0, node := 0, ucoord := 0, lcore := 0, bankMask := BitVec.allOnes 96
    tileMask := BitVec.allOnes 64, streams := BitVec.allOnes 4, helpers := 10, assigned := [], exit0 := none, stop := none }

def regs0 : Regs := { Regs.reset with pc := 0x10000 }

def thread0 : Thread := { Thread.reset with r := regs0 }

def core0 : Core := { Core.reset with unit := some unit0, threads := [(0, thread0)] }

def root0 : Ctx := { Ctx.blank with st := .live, level := 0, psaValid := true, svch := 15, coreLen := 16, energy := 1000, queues := 4 }

def part0 : Part := { Part.blank with hlen := 16, weight := 1 }

def st : State := { State.reset with cores := [(0, core0)], ctxs := [(0, root0)], parts := [(0, part0)] }

/-- The same with other values in the executing thread. -/
def withThread (f : Thread → Thread) : State := st.modCur f

def withRegs (f : Regs → Regs) : State := withThread fun t => { t with r := f t.r }

/-- The same with `g[n]` = `v`. -/
def withG (n : Reg) (v : Word) : State := st.setG n v

/-! ## States that meet the hypotheses of the statements, clause by clause, at the ends of their ranges -/

theorem quiet {s : State} (h : s.inflight = []) (r : s.cur.refused = []) : Quiet s :=
  ⟨fun x hx => absurd hx (by simp [h]), r⟩

/-- DivisionResults: by 0 and by 1; at 32 bits a divisor whose low 32 bits are 0, and one whose low bits are all ones. -/
theorem witness_division : (withG 6 0).g 6 = 0 ∧ (withG 6 1).g 6 ≠ 0 ∧
    ((withG 6 0x100000000).g 6).toNat % 2 ^ 32 = 0 ∧ ((withG 6 0xFFFFFFFF).g 6).toNat % 2 ^ 32 ≠ 0 := by decide

/-- PackedResults: a sum that clamps and one that does not. -/
theorem witness_packed :
    (∃ i < 64 / 8, laneVal false 8 ((withG 5 0x7F).g 5) i + laneVal false 8 ((withG 6 1).g 6) i < laneLo false 8 ∨
      laneHi false 8 < laneVal false 8 ((withG 5 0x7F).g 5) i + laneVal false 8 ((withG 6 1).g 6) i) ∧
    (∀ i < 64 / 8, laneLo true 8 ≤ laneVal true 8 (st.g 5) i + laneVal true 8 (st.g 6) i ∧
      laneVal true 8 (st.g 5) i + laneVal true 8 (st.g 6) i ≤ laneHi true 8) := by
  refine ⟨⟨0, by decide⟩, by decide⟩

/-- ImmediateAndBitFieldResults: LEN 64 at POS 0 and LEN 1 at POS 63; words of both majors. -/
theorem witness_bit_fields : (0 : Fin 64).val + ((63 : Fin 64).val + 1) ≤ 64 ∧ (63 : Fin 64).val + ((0 : Fin 64).val + 1) ≤ 64 ∧
    decodeWord 0x20850003 = .ok (.slli 4 5 3) ∧ 0x20850003 / 2 ^ 26 = 0x08 ∧
    decodeWord 0x30855808 = .ok (.bextz 4 5 8 11) ∧ 0x30855808 / 2 ^ 26 = 0x0C :=
  ⟨by decide, by decide, rfl, rfl, rfl, rfl⟩

/-- FpuRoundsTheExactResultOnce, FloatComparesMinMaxAndSigns: no stream is bound; operands that are NaNs, equal and ordered. -/
theorem witness_floats : Unbound st [0, 28, 31] ∧
    (floatIn .s ((st.setF 5 0x7FC00000).setF 6 0x7F800001) 5).isNan = true ∧
    (floatIn .s ((st.setF 5 0x7FC00000).setF 6 0x7F800001) 6).isSig = true ∧
    (floatIn .s st 5).isNan = false ∧ cmpNum (floatIn .s st 5) (floatIn .s (st.setF 6 0x3F800000) 6) < 0 ∧
    (floatIn .d (st.setF 5 0x8000000000000000) 5).neg = true ∧
    cmpNum (floatIn .d (st.setF 5 0x8000000000000000) 5) (floatIn .d st 6) = 0 := by
  refine ⟨by unfold Unbound; decide, by decide, by decide, by decide, by decide, by decide, by decide⟩

/-- FloatConversions: the largest finite code and the code 0 of a format. -/
theorem witness_float_codes : 0x7BFF < 2 ^ FFmt.fp16.width ∧ (decodeFloat .fp16 0x7BFF).isNan = false ∧
    (decodeFloat .fp16 0).isNan = false := by decide

/-- StreamBoundRegisterTraps: f28 and f31 bound. -/
theorem witness_stream_bound : Quiet (withThread fun t => { t with bound := 9 }) ∧ 28 ≤ (28 : Reg).val ∧
    (withThread fun t => { t with bound := 9 }).cur.bound.getLsbD ((28 : Reg).val - 28) = true ∧
    (withThread fun t => { t with bound := 9 }).cur.bound.getLsbD ((31 : Reg).val - 28) = true :=
  ⟨quiet rfl rfl, by decide, by decide, by decide⟩

/-- BranchesAndJumps: registers that are equal, less as signed and less as unsigned; targets that are a word address and not;
words of each major. -/
theorem witness_jumps : st.g 5 = st.g 6 ∧ ((withG 5 (-1)).g 5).toInt < ((withG 5 (-1)).g 6).toInt ∧
    ((withG 6 1).g 5).toNat < ((withG 6 1).g 6).toNat ∧ ((withG 1 0x10004).g 1).toNat % 4 = 0 ∧
    ((withG 1 0x10003).g 1).toNat % 4 ≠ 0 ∧ Quiet (withG 1 0x10003) ∧
    decodeWord 0x88A03FFD = .ok (.bne 5 0 0x1FFD) ∧ decodeWord 0x8C000000 = .ok (.j 0) ∧
    decodeWord 0x90000001 = .ok (.jal 1) ∧ decodeWord 0x94250100 = .ok (.jalr 1 5) :=
  ⟨by decide, by decide, by decide, by decide, by decide, quiet rfl rfl, rfl, rfl, rfl, rfl⟩

def loopAt (l0 l1 : Nat) : State :=
  withRegs fun r =>
    { r with
      loop0 := { cnt := BitVec.ofNat 64 l0, sta := 0xFFF8, lend := 0x10000 }
      loop1 := { cnt := BitVec.ofNat 64 l1, sta := 0xFFFC, lend := 0x10000 } }

/-- HardwareLoops: idle and active levels, with count 0 and not; the last word of a level, with one iteration left and
more; a jump out of the body and one that stays; TRAP at the last word with a handler. -/
theorem witness_loops : st.cur.r.loop0.cnt = 0 ∧ st.cur.r.loop1.cnt = 0 ∧ st.g 3 = 0 ∧ (withG 3 1).g 3 ≠ 0 ∧
    Quiet (loopAt 1 1) ∧ (loopAt 1 1).cur.r.loop0.cnt ≠ 0 ∧ (loopAt 1 1).cur.r.loop1.cnt ≠ 0 ∧
    (loopAt 1 1).cur.r.pc = (loopAt 1 1).cur.r.loop1.lend ∧ (loopAt 1 0).cur.r.loop1.cnt = 0 ∧
    (loopAt 1 0).cur.r.pc = (loopAt 1 0).cur.r.loop0.lend ∧ (loopAt 2 2).cur.r.loop1.cnt ≠ 1 ∧
    ((loopAt 2 2).cur.r.loop0.sta.toNat ≤ (loopAt 2 2).cur.r.pc.toNat ∧
      (loopAt 2 2).cur.r.pc.toNat ≤ (loopAt 2 2).cur.r.loop0.lend.toNat) ∧
    ¬((wordsFrom (loopAt 2 2) 1).toNat ≤ (loopAt 2 2).cur.r.loop0.lend.toNat) ∧
    (loopAt 2 2).cur.r.loop1.sta.toNat ≤ (wordsFrom (loopAt 2 2) (-1)).toNat :=
  ⟨by decide, by decide, by decide, by decide, quiet rfl rfl, by decide, by decide, by decide, by decide, by decide, by decide,
    by decide, by decide, by decide⟩

/-- A handler that is open, in the state `loopAt`. -/
def handled (l0 l1 : Nat) : State := (loopAt l0 l1).modCur fun t => { t with t := { t.t with tvec := 0x20001 } }

theorem witness_trap_at_loop_end : Quiet (handled 0 1) ∧ Handles (handled 0 1) ∧ (handled 0 1).cur.r.loop1.cnt ≠ 0 ∧
    (handled 0 1).cur.r.pc = (handled 0 1).cur.r.loop1.lend ∧ (handled 0 2).cur.r.loop1.cnt ≠ 1 :=
  ⟨quiet rfl rfl, ⟨by decide, by decide⟩, by decide, by decide, by decide⟩

/-- SrwAndUnassignedRegisterNumbers: no loop ends here, nor where LEND is written; the numbers just past an assigned range. -/
theorem witness_system_registers : NoLoopEnd st ∧ st.cur.r.pc ≠ st.g 5 &&& ~~~3#64 ∧ Quiet st ∧
    sysAssigned st.curCore 0x000 = false ∧ sysAssigned st.curCore 0x00A = false ∧ sysAssigned st.curCore 0x460 = false :=
  ⟨⟨by decide, by decide⟩, by decide, quiet rfl rfl, by decide, by decide, by decide⟩

/-- SoftwareTrapBreakAndReturn: with and without HALTEN, inside and outside a handler. -/
theorem witness_trap_words : Quiet st ∧ st.cur.r.loop0.cnt = 0 ∧ st.cur.r.loop1.cnt = 0 ∧ st.cur.t.halten = false ∧
    st.cur.t.inh = false ∧
    (withThread fun t => { t with t := { t.t with halten := true, inh := true } }).cur.t.halten = true ∧
    (withThread fun t => { t with t := { t.t with halten := true, inh := true } }).cur.t.inh = true ∧
    ¬Handles st ∧ Handles (handled 0 0) :=
  ⟨quiet rfl rfl, by decide, by decide, by decide, by decide, by decide, by decide, fun h => absurd h.1 (by decide),
    by decide, by decide⟩

/-- The unit of core 0 with helpers assigned. -/
def withUnit (f : Resident → Resident) : State := st.modCore 0 fun c => { c with unit := c.unit.map f }

/-- HelpersStartExitAndAreJoined: the first and the last helper to start; no helper left; a target that is no word address. -/
theorem witness_hstart : Quiet st ∧ (st.core st.curCore).unit = some unit0 ∧ (st.g 5).toNat % 4 = 0 ∧
    unit0.assigned.length < unit0.helpers ∧ 1 ∉ unit0.assigned ∧ 1 ≠ st.curTid ∧
    ({ unit0 with assigned := [1, 2, 3, 4, 5, 6, 7, 8, 9] } : Resident).assigned.length < unit0.helpers ∧
    (∀ j, 1 ≤ j → j < 10 → j ∈ [1, 2, 3, 4, 5, 6, 7, 8, 9]) ∧
    unit0.helpers ≤ ({ unit0 with assigned := [1, 2, 3, 4, 5, 6, 7, 8, 9, 10] } : Resident).assigned.length ∧
    ((withG 5 2).g 5).toNat % 4 ≠ 0 :=
  ⟨quiet rfl rfl, by decide, by decide, by decide, by decide, by decide, by decide,
    by intro j h1 h2; have : j = 1 ∨ j = 2 ∨ j = 3 ∨ j = 4 ∨ j = 5 ∨ j = 6 ∨ j = 7 ∨ j = 8 ∨ j = 9 := by omega
       rcases this with h | h | h | h | h | h | h | h | h <;> subst h <;> decide,
    by decide, by decide⟩

/-- Helper 1 has exited with 7; helper 10 runs. -/
def helped (tid : Nat) : State :=
  { (withUnit fun r => { r with assigned := [1, 10] }).modCore 0 (fun c =>
      { c with threads := [(0, thread0), (1, { Thread.reset with exited := some 7 }), (10, Thread.reset)] }) with
    curTid := tid }

theorem witness_exit : Quiet st ∧ st.exitHeld st.curCore st.curTid = false ∧ st.curTid = 0 ∧
    (st.modCore st.curCore (fun c => c.unassign unit0.assigned)).ucnt st.curCore = 1 ∧
    Quiet (helped 10) ∧ (helped 10).exitHeld 0 10 = false ∧ (helped 10).curTid ≠ 0 :=
  ⟨quiet rfl rfl, by decide, by decide, by decide, quiet rfl rfl, by decide, by decide⟩

theorem witness_hjoin : Quiet ((helped 0).setG 7 2) ∧ 1 ≠ ((helped 0).setG 7 2).curTid ∧
    [1, 10].filter (fun j => j != (helped 0).curTid && (((helped 0).setG 7 2).g 7).getLsbD j) = [1] ∧
    (((helped 0).setG 7 2).thread 0 1).exited = some 7 ∧
    (∀ e ∈ (((helped 0).setG 7 2).core 0).threads, e.2.wait = .none) :=
  ⟨quiet rfl rfl, by decide, by decide, by decide, by decide⟩

theorem inBank {s : State} {va : Word} {n : Nat} (h : s.curCore = 0) (t : (s.core 0).tiles = []) (r : (s.core 0).rename = [])
    (a : va.toNat % n = 0) (i : va.toNat < 0x180000) (c : (s.core 0).claimed (va.toNat / 0x4000) = true) : InBank s va n :=
  ⟨by rw [h]; decide, by rw [h]; decide, a, i, by rw [h]; exact c,
    by rw [h]; simp only [Core.phys, r, tget, Option.getD_none]; omega, by rw [h, t]; rfl⟩

/-- WaitmYieldAndYieldu: the last doubleword of the last bank, with the value that it holds and another; an address that is
unaligned, and the first one past the banks. -/
theorem witness_waitm : Quiet (withG 5 0x17FFF8) ∧ isService st.curCore = false ∧ InBank (withG 5 0x17FFF8) ((withG 5 0x17FFF8).g 5) 8 ∧
    BitVec.ofNat 64 (memRead st.mem (st.physAddr 0 0x17FFF8) 8) = st.g 6 ∧
    BitVec.ofNat 64 (memRead st.mem (st.physAddr 0 0x17FFF8) 8) ≠ (withG 6 1).g 6 ∧
    ((withG 5 4).g 5).toNat % 8 ≠ 0 ∧ 0x180000 ≤ ((withG 5 0x180000).g 5).toNat :=
  ⟨quiet rfl rfl, by decide, inBank rfl rfl rfl (by decide) (by decide) (by decide), by decide, by decide, by decide, by decide⟩

theorem ready {s : State} (h : s.inflight = []) (r : s.cur.refused = []) (f : s.cur.fencer = none)
    (u : (s.core s.curCore).unit.isSome = true) (c : s.castled = []) (l : s.launches = []) : Ready s :=
  ⟨quiet h r, f, u, fun x hx => absurd hx (by simp [c]), fun x hx => absurd hx (by simp [h]), by simp [State.storeQueue, h],
    by simp only [State.unitOver, State.launch?, l]; rfl⟩

/-- PlainLoadsAndStoresOfTheScratchpad: the first and the last bytes of the banks, at each size. -/
theorem witness_plain_accesses : Ready (withG 3 0x180000) ∧ (withG 3 0x180000).Inv ∧ (withG 3 0x180000).defer = [] ∧
    Unbound (withG 3 0x180000) [7] ∧
    (∀ n ∈ [1, 2, 4, 8], InBank (withG 3 0x180000) (plainAddr (withG 3 0x180000) 3 0xFFF n) n ∧
      InBank (withG 3 0x180000) (plainAddr (withG 3 0x180000) 0 0 n) n) := by
  refine ⟨ready rfl rfl rfl rfl rfl rfl, by decide, rfl, by unfold Unbound; decide, ?_⟩
  intro n hn
  simp only [List.mem_cons, List.not_mem_nil, or_false] at hn
  rcases hn with rfl | rfl | rfl | rfl <;>
    exact ⟨inBank rfl rfl rfl (by decide) (by decide) (by decide), inBank rfl rfl rfl (by decide) (by decide) (by decide)⟩

/-- OrderedAccessesAndAtomicsOnTheScratchpad: the last four and eight bytes of the banks. -/
theorem witness_ordered_accesses : Ready (withG 5 0x17FFF8) ∧ (withG 5 0x17FFF8).Inv ∧
    (withG 5 0x17FFF8).provisional 0 = false ∧ (withG 5 0x17FFF8).defer = [] ∧
    InBank (withG 5 0x17FFF8) ((withG 5 0x17FFF8).g 5 + (withG 5 0x17FFF8).g 6) (2 ^ (3 : Fin 4).val) ∧
    InBank (withG 5 0x17FFF8) ((withG 5 0x17FFF8).g 5 + (withG 5 0x17FFF8).g 6) 4 :=
  ⟨ready rfl rfl rfl rfl rfl rfl, by decide, by decide, rfl, inBank rfl rfl rfl (by decide) (by decide) (by decide),
    inBank rfl rfl rfl (by decide) (by decide) (by decide)⟩

/-- A unit that has claimed all banks but the last; a defined tile whose shadow bank is bank 1. -/
def shadowed : State :=
  (withUnit fun r => { r with bankMask := 0x7FFFFFFFFFFFFFFFFFFFFFFF }).modCore 0 fun c =>
    { c with tiles := [(0, { nb := 1, vbank := 0, sbank := 1, nosh := false, st := .ready, freeing := false, shw := false
                             publ := false, tid := 0, ply := 0 })] }

/-- AccessChecksTrapInTheirOrder: a byte past a word address; the first address past the banks and the last of the window; the
bank that is not claimed; the shadow bank. -/
theorem witness_access_checks : Quiet shadowed ∧ Unbound shadowed [7] ∧
    (Instr.ld 7 5 0 0, plainAddr shadowed 5 0 8, 8, 0) ∈ accessForms shadowed 7 5 6 0 0 false .plain .core 0 ∧
    (1 : Word).toNat % 2 ≠ 0 ∧ isService shadowed.curCore = false ∧ 0x180000 ≤ (0x180000 : Word).toNat ∧
    (0x1FFFF8 : Word).toNat < 0x200000 ∧ (0x1FFFF8 : Word).toNat % 8 = 0 ∧
    (shadowed.core 0).claimed (0x17C000 / 0x4000) = false ∧ (shadowed.core 0).claimed (0x7FF8 / 0x4000) = true ∧
    shadowIn (shadowed.core 0).tiles (0x7FF8 / 0x4000) = true := by
  refine ⟨quiet rfl rfl, by unfold Unbound; decide, ?_, by decide, by decide, by decide, by decide, by decide, by decide,
    by decide, by decide⟩
  exact List.mem_append_left _ (List.mem_append_left _ (List.mem_append_left _ (List.mem_append_left _
    (List.mem_map.2 ⟨(.ld 7 5 0 0, 8, fun x => x), by simp [plainLoads], rfl⟩))))

/-- WindowedLoadsAndFences: a window of one instruction; no release pending, and one of a smaller and a wider scope. -/
theorem witness_windows : Ready st ∧ st.defer = [] ∧ 0 < (1 : Fin 16).val ∧ InBank st (plainAddr st 5 0 8) 8 ∧ Quiet st ∧
    st.cur.fencer = none ∧ (withThread fun t => { t with fencer := some .mod }).cur.fencer = some .mod ∧
    Scope.die.code < Scope.mod.code ∧ Scope.mod.code < Scope.sys.code :=
  ⟨ready rfl rfl rfl rfl rfl rfl, rfl, by decide, inBank rfl rfl rfl (by decide) (by decide) (by decide), quiet rfl rfl, rfl, rfl,
    by decide, by decide⟩

theorem accepting {s : State} (h : s.inflight = []) (r : s.cur.refused = []) (b : s.ringBusy = false) : Accepting s :=
  ⟨quiet h r, b⟩

def withCore (f : Core → Core) : State := st.modCore 0 f

/-- A vector command in the queue of the unit, of another thread. -/
def vecCmd (tid : Nat) : VecCmd :=
  { op := .vsetvl, tid := tid, ply := 0, addr := 0, a := 0, b := 0, bf := 0, scalar := 0, dst := 0, src := 0, dim := 0
    rnd := .rne, seq := 0, since := 0 }

def vecQueue (n : Nat) : State := withCore fun c => { c with vec := { c.vec with queue := List.replicate n (vecCmd 1) } }

def vmaxOp : VmaxOp := { tid := 1, ply := 0, seq := 0, x0 := 0, wm1 := 0, at_ := 0 }

/-- VectorCommandsEnterTheirQueue: one place left in the queue; three VMAXX outstanding. -/
theorem witness_vector_commands : Accepting (vecQueue 7) ∧ ((vecQueue 7).core 0).vec.queue.length < 8 ∧
    ((vecQueue 7).core 0).formatPending = false ∧ ((vecQueue 7).core 0).qrn.queue = [] ∧
    (vecQueue 7).provisional 0 = false ∧
    ((withCore fun c => { c with vec := { c.vec with vmax := List.replicate 3 vmaxOp } }).core 0).vmaxCount < 4 :=
  ⟨accepting rfl rfl rfl, by decide, by decide, rfl, by decide, by decide⟩

/-- Register m0 holds FP64 rows, so that a product of m0 with itself passes its checks; late faults are queued. -/
def matState (n : Nat) (v : Word) : State :=
  ((withCore fun c => { c with mat := { c.mat with m := [(0, { TileReg.reset with code := 1 })] } }).modCur fun t =>
    { t with late := List.replicate n { code := 0x40, ply := 0, addr := 0, unit := 5 } }).setG 5 v

/-- MatrixCommandsEnterTheirStream: a command that passes its checks, one with bit 12 of its operand set and three late
faults queued; each reserved bit of MCFG's operand, the first format past the last, and layouts at the ends of the
ranges. -/
theorem witness_matrix_commands : Accepting (matState 0 0) ∧ ((matState 0 0).core 0).mat.queue = [] ∧
    ((matState 0 0).core 0).formatPending = false ∧ (matState 0 0).provisional 0 = false ∧
    (matState 0 0).matGate 0 { matAt (matState 0 0) (.mmaw, 5, 0, 0, 0, .rne) with ply := 0, addr := 0 } = .ok ∧
    ((matState 3 0x1000).g 5).toNat / 2 ^ 12 ≠ 0 ∧ (matState 3 0x1000).cur.late.length < 4 ∧
    12 < 13 % 16 ∧ 2 ^ 5 / 2 ^ 5 % 8 ≠ 0 ∧ 2 ^ 13 / 2 ^ 13 % 8 ≠ 0 ∧ 2 ^ 25 / 2 ^ 25 ≠ 0 ∧
    (1 % 16 ≤ 8 ∧ 1 % 16 ≠ 0 ∧ 1 / 2 ^ 5 % 8 = 0 ∧ 1 / 2 ^ 13 % 8 = 0 ∧ 1 / 2 ^ 16 < 32) ∧
    (0x1F1F18 % 16 ≤ 8 ∧ 0x1F1F18 % 16 ≠ 0 ∧ 0x1F1F18 / 2 ^ 5 % 8 = 0 ∧ 0x1F1F18 / 2 ^ 13 % 8 = 0 ∧ 0x1F1F18 / 2 ^ 16 < 32) :=
  ⟨accepting rfl rfl rfl, rfl, by decide⟩

/-- Tile entry 0 over banks 0 and 1 with shadow banks 2 and 3, READY; a shape of one row of 64 bytes. -/
def tile0 : Tile :=
  { nb := 2, vbank := 0, sbank := 2, nosh := false, st := .ready, freeing := false, shw := true, publ := false, tid := 0, ply := 0 }

def tiled : State :=
  (withCore fun c => { c with tiles := [(0, tile0)] }).modCur fun t =>
    { t with u := { t.u with shape := some { rows := 1, rowb := 64, dpitch := 0, spitch := 0 } } }

/-- CopyAndPointCommandsEnterTheirQueues: a command that passes its checks with the queue empty; the tables belong to the
unit. -/
theorem witness_copy_commands : Accepting tiled ∧ isService tiled.curCore = false ∧ (tiled.core 0).cpy.length < 16 ∧
    (tiled.core 0).formatPending = false ∧ tiled.provisional 0 = false ∧
    tiled.copyGate 0 (tiled.unitId 0) tiled.cur.u (tiled.copyCmd .chl 5 6 0 false .rne) = .ok ∧
    Accepting (withCore fun c => { c with qrn := { c.qrn with owner := some uid } }) ∧
    ((withCore fun c => { c with qrn := { c.qrn with owner := some uid } }).core 0).qrn.owner = some (st.unitId 0) ∧
    ((withCore fun c => { c with qrn := { c.qrn with owner := some uid } }).core 0).qrn.queue.length < 8 ∧
    (st.core 0).vec.queue = [] :=
  ⟨accepting rfl rfl rfl, by decide, by decide, by decide, by decide, by decide, accepting rfl rfl rfl, by decide,
    by decide, rfl⟩

/-- UnitWaitsPassAndMfcReads: nothing of the thread in any unit. -/
theorem witness_unit_waits : Accepting st ∧ st.provisional 0 = false ∧ st.cur.virPend = [] ∧ (st.core 0).vec.queue = [] ∧
    (st.core 0).vec.vmax = [] ∧ (st.core 0).mat.queue = [] ∧ (st.core 0).cpy = [] ∧ (st.core 0).qrn.queue = [] ∧
    st.busPend 0 0 = false ∧ NonePending st ∧ st.cur.u.pwait = 0 ∧ isService st.curCore = false :=
  ⟨accepting rfl rfl rfl, by decide, rfl, rfl, rfl, rfl, rfl, rfl, by decide, fun k hk => absurd (show k ∈ ([] : List PendCmd) from hk) (by simp),
    by decide, by decide⟩

/-- The block of key 0x80, of 128 bytes, in way 3 of set 1, its slot at 0x4000. -/
def tagged : State := (withCore fun c => { c with tags := [(7, { v := true, sz := 0, blk := 1, slot := 0x4000 })] }).setG 5 0x80

/-- The same on a service core, whose slots lie in its mailbox. -/
def serving : State := { st with cores := [(15, core0)], curCore := 15 }

/-- TagTableActsAsItsRulesSay: a hit in the last way and a miss; slots at the ends of the banks of a compute core and of the
mailbox of a service core, and ones that are unaligned or not backed on either. -/
theorem witness_tags : tagHit tagged (((tagged.g 5).toNat / 2 ^ 7) % 64) 3 0 ((tagged.g 5).toNat / 2 ^ 7) ∧
    (∀ v < 3, ¬tagHit tagged 1 v 0 1) ∧ (∀ w < 4, ¬tagHit st 0 w 0 0) ∧
    ((0x17FF80 : Word).toNat % 2 ^ 7 = 0 ∧ Backed st 0x17FF80 (2 ^ 7)) ∧ Backed serving 0x1FFF80 (2 ^ 7) ∧
    Quiet st ∧ Quiet (withG 6 1) ∧ ((withG 6 1).g 6).toNat % 2 ^ 7 ≠ 0 ∧ ¬Backed st 0x180000 (2 ^ 7) ∧ Quiet serving ∧
    ¬Backed serving 0x200000 (2 ^ 7) ∧ ((tagged.core 0).tag (0x80 % 64) (0x80 / 64 % 4)).sz < 8 := by
  refine ⟨by unfold tagHit; decide, by unfold tagHit; decide, by unfold tagHit; decide, ⟨by decide, ?_⟩, ?_, quiet rfl rfl,
    quiet rfl rfl, by decide, ?_, quiet rfl rfl, ?_, by decide⟩
  · unfold Backed
    rw [if_neg (by decide)]
    intro i hi
    refine ⟨by omega, ?_⟩
    rw [show (0x17FF80 + i) / 0x4000 = 95 by omega]
    decide
  · unfold Backed
    rw [if_pos (by decide)]
    decide
  · unfold Backed
    rw [if_neg (by decide)]
    intro h
    exact absurd (h 0 (by decide)).1 (by decide)
  · unfold Backed
    rw [if_pos (by decide)]
    decide

/-- TileTableActsAsItsRulesSay: an undefined entry that the unit has claimed, and one that it has not; operands of TBDEF that
are bad in each reserved bit, and good over the last banks; a defined entry with and without a shadow. -/
theorem witness_tiles : Accepting st ∧ st.provisional 0 = false ∧ Unused st 63 ∧ tget (st.core 0).tiles 63 = none ∧
    unit0.tileMask.getLsbD 63 = true ∧ ({ unit0 with tileMask := 1 } : Resident).tileMask.getLsbD 63 = false ∧
    2 ^ 20 / 2 ^ 20 ≠ 0 ∧ 2 ^ 15 / 2 ^ 15 % 2 = 1 ∧ 2 ^ 7 / 2 ^ 7 % 2 = 1 ∧ 4 / 4 ≠ 0 ∧
    (0xF5000 / 2 ^ 20 = 0 ∧ 0xF5000 / 2 ^ 15 % 2 = 0 ∧ 0xF5000 % 2 ^ 7 + (0xF5000 / 2 ^ 16 % 2 ^ 4 + 1) ≤ 96 ∧
      0xF5000 / 2 ^ 8 % 2 ^ 7 + (0xF5000 / 2 ^ 16 % 2 ^ 4 + 1) ≤ 96 ∧
      0xF5000 % 2 ^ 7 + (0xF5000 / 2 ^ 16 % 2 ^ 4 + 1) ≤ 0xF5000 / 2 ^ 8 % 2 ^ 7) ∧
    (∀ i < 16, (st.core 0).claimed (0 + i) = true ∧ (st.core 0).claimed (80 + i) = true) ∧ (st.core 0).tiles = [] ∧
    Accepting tiled ∧ Unused tiled 0 ∧ tget (tiled.core 0).tiles 0 = some tile0 ∧ tile0.freeing = false ∧ tile0.publ = false ∧
    tile0.st ≠ .draining ∧ tile0.nosh = false ∧ tile0.vbank + tile0.nb ≤ tile0.sbank :=
  ⟨accepting rfl rfl rfl, by decide, ⟨by decide, by decide, by decide⟩, by decide, by decide, by decide, by decide, by decide,
    by decide, by decide, by decide, by decide, rfl, accepting rfl rfl rfl, ⟨by decide, by decide, by decide⟩, by decide,
    by decide, by decide, by decide, by decide, by decide⟩

/-- Barrier 7 of core 0: configured for the core alone; `g` arrivals, `r` releases. -/
def barred (g r : Nat) : State :=
  withCore fun c => { c with sync := { c.sync with bars := [(7, { Bar.reset with cfg := true, gen := g, rgen := r })] } }

/-- CountersAndBarriersOfOneCore: addends at the ends of the range and past them; counters that are 0 and not; a barrier
between its arrival and its release, and released; rectangles with each reserved bit, of the core alone, and of the whole
module. -/
theorem witness_counters : Accepting st ∧ st.provisional 0 = false ∧ Unused st 0 ∧ (st.core 0).sync.held = [] ∧
    -(2 ^ 47) ≤ ((withG 5 0xFFFF800000000000).g 5).toInt ∧ ((withG 5 0x7FFFFFFFFFFF).g 5).toInt < 2 ^ 47 ∧
    ((withG 5 0xFFFF7FFFFFFFFFFF).g 5).toInt < -(2 ^ 47) ∧ 2 ^ 47 ≤ ((withG 5 0x800000000000).g 5).toInt ∧
    (st.core 0).sync.counter 15 = 0 ∧
    ((withCore fun c => { c with sync := { c.sync with counters := [(15, 1)] } }).core 0).sync.counter 15 ≠ 0 ∧
    (hilbertXY st.curCore).1 = 0 ∧ (hilbertXY st.curCore).2 = 0 ∧ Accepting (barred 1 0) ∧
    (((barred 1 0).core 0).sync.bar 7).gen ≠ (((barred 1 0).core 0).sync.bar 7).rgen ∧
    (((barred 1 1).core 0).sync.bar 7).gen = (((barred 1 1).core 0).sync.bar 7).rgen ∧
    (((barred 1 1).core 0).sync.bar 7).cfg = true ∧ (((barred 1 1).core 0).sync.bar 7).wm1 = 0 ∧
    2 ^ 6 / 2 ^ 6 % 4 ≠ 0 ∧ 2 ^ 14 / 2 ^ 14 % 4 ≠ 0 ∧ 2 ^ 22 / 2 ^ 22 % 4 ≠ 0 ∧ 2 ^ 30 / 2 ^ 30 ≠ 0 ∧
    (0x3F3F0000 : Word).toNat = 0 + 0 * 2 ^ 8 + 63 * 2 ^ 16 + 63 * 2 ^ 24 :=
  ⟨accepting rfl rfl rfl, by decide, ⟨by decide, by decide, by decide⟩, rfl, by decide, by decide, by decide, by decide,
    by decide, by decide, by decide, by decide, accepting rfl rfl rfl, by decide, by decide, by decide, by decide, by decide,
    by decide, by decide, by decide, by decide⟩


/-! ## Contexts, launches, graphs and energy -/

/-- A child of the root of the small state, with cores 4 and 5 and two extents' worth of quantities. -/
def child0 : Ctx :=
  { Ctx.blank with
    st := .live, level := 1, energy := 5, queues := 3, queuesGot := 2, cells := 9, cellsGot := 8, coreBase := 4, coreLen := 2
    svch := 15, ttb1 := 0x40000, ttb2 := 0x80000
    extents := [{ cpage := 16, npages := 8, ppage := 256, r := true, w := true, x := false }] }

def rootM : Ctx :=
  { root0 with
    ttb1 := 0x40000, ttb2 := 0x20000, cells := 100
    extents := [{ cpage := 0, npages := 0x2000, ppage := 0, r := true, w := true, x := true }] }

/-- The root with one child; VF 7 belongs to the partition; table pages from 0x1000000. -/
def family (y : Ctx) (mem : Memory) (a b : Word) : State :=
  let s : State :=
    { st with
      mem := mem, ctxs := [(0, rootM), (1, y)], vfs := [(7, { Vf.reset with part := some 0 })]
      parts := [(0, { part0 with tpool := { base := 0x1000000, size := 0x100000 } })] }
  (s.setG 5 a).setG 6 b

theorem child_of {y : Ctx} {m : Memory} {a b : Word} (h1 : y.level ≠ 0) (h2 : y.parent = 0) (h3 : y.st ≠ .draining) :
    Child (family y m a b) 1 rootM y := ⟨rfl, rfl, Nat.one_ne_zero, h1, h2, h3, by decide⟩

/-- QuantitiesMoveBetweenContextAndChild: quantities up to the balances and one past them, in both directions; the largest
number of queues and the least energy; an unbound VF, and a bound one. -/
theorem witness_quantities : Accepting (family child0 [] 1 4) ∧ (family child0 [] 1 4).provisional 0 = false ∧
    Child (family child0 [] 1 4) 1 rootM child0 ∧ rootM.queues = 4 ∧ child0.queuesGot = 2 ∧ rootM.cells = 100 ∧
    child0.cellsGot = 8 ∧ (∀ d ∈ (family child0 [] 1 4).dies, ∀ q ∈ d.2.col.queues, q.2.ctx ≠ 1) ∧
    (family child0 [] 1 4).leasing 1 = false ∧ ((1000 : Word).toInt ≤ rootM.energy ∧ -(1000 : Word).toInt ≤ child0.energy) ∧
    (rootM.energy < (1001 : Word).toInt ∧ child0.energy < -(-6 : Word).toInt) ∧
    ((family child0 [] 1 7).vfOf 7).part = some rootM.part ∧ child0.vf = none ∧ ((family child0 [] 1 7).vfOf 7).bound = none ∧
    ((family child0 [] 1 7).vfOf 7).resetting = none ∧
    Child (family { child0 with vf := some 7 } [] 1 0) 1 rootM { child0 with vf := some 7 } :=
  ⟨accepting rfl rfl rfl, by decide, child_of (by decide) rfl (by decide), rfl, rfl, rfl, rfl, by decide, by decide,
    by decide, by decide, rfl, rfl, rfl, rfl, child_of (by decide) rfl (by decide)⟩

/-- The child's own tables down to the last level. -/
def childTables : Memory :=
  memWrite (memWrite (memWrite (memWrite (placedTables []) 0x80000 8 0x90001) 0x90000 8 0xA0001) 0x30000 8 0x60001) 0x60808 8
    0x101001F

/-- A new child with cores, whose image lies where nothing is granted. -/
def fresh1 : Ctx := { child0 with st := .new, psaOff := 2, extents := [] }

/-- ContextsAreMadeEnteredAndDeleted: a free number and table page; the last cores of the root beside its service core; a
leaf with cores and no launches; an extent that the root covers and no other meets; a page that the root maps by a 64 KiB
leaf; a leaf of the tree without tables; an image that cannot be read. -/
theorem witness_contexts : Accepting (family child0 [] 0x40000 0x4000) ∧ (family child0 [] 0x40000 0x4000).drains = [] ∧
    tget (family child0 [] 0x40000 0x4000).ctxs 2 = none ∧ (∀ i < 2, (tget (family child0 [] 0 0).ctxs i).isSome = true) ∧
    ((family child0 [] 0 0).part rootM.part).poolPages.find? (fun q => !((family child0 [] 0 0).part 0).tables.contains q) =
      some 0x1000000 ∧
    (∀ i < 14, (family { child0 with coreLen := 0 } [] 1 0xE001).ownCore 0 (1 + i) = true ∧
      ((family { child0 with coreLen := 0 } [] 1 0xE001).part 0).leaving (1 + i) = false) ∧ 1 + 14 ≤ rootM.svch ∧
    Leaf (family child0 [] 1 0) 1 ∧ (∀ l ∈ (family child0 [] 1 0).launches, l.2.ctx ≠ 1) ∧
    (∀ i < child0.coreLen, ((family child0 [] 1 0).part 0).leaving (child0.coreBase + i) = false) ∧
    Settled ((family child0 [] 1 0).modCtx 1 fun z => { z with coreBase := 0, coreLen := 0 }) ∧
    (∀ z ∈ child0.extents, z.cpage + z.npages ≤ 32 ∨ 32 + 4 ≤ z.cpage) ∧ rootM.covers 100 4 = true ∧
    child0.extents.find? (fun z => z.holds 17 1) = some { cpage := 16, npages := 8, ppage := 256, r := true, w := true, x := false } ∧
    (family child0 childTables 1 0).leafOf 0 0x1010000 = some (0x101001F, false) ∧
    (family child0 childTables 1 0).entry child0.ttb2 0 = 0x90001 ∧
    (family child0 childTables 1 0).entry (entryAddr 0x90001) 0 = 0xA0001 ∧ NoTables (family child0 [] 1 0) child0 ∧
    Settled ((family child0 [] 1 0).modCtx 1 fun z =>
      { z with st := .draining, extents := [], psaValid := false, relaunch := none }) ∧
    (family fresh1 [] 1 0x400000).areasClash 1 15 2 = false ∧ (family fresh1 [] 1 0x400000).serviceOf 1 = 15 ∧
    (family fresh1 [] 1 0x400000).launchRoom 1 = true ∧
    ((((family fresh1 [] 1 0x400000).accepted Un.vir).enterCtx 1).readImage 0 0 1 0x400000 =
      (((family fresh1 [] 1 0x400000).accepted Un.vir).enterCtx 1, .fail 6)) := by
  exact ⟨accepting rfl rfl rfl, rfl, rfl, by decide, by decide, by decide, by decide, ⟨by decide, by decide⟩, by decide,
    by decide, by unfold Settled; decide, by decide, by decide, by decide, by decide, by decide, by decide, by unfold NoTables; decide,
    by unfold Settled; decide, by decide, by decide, by decide, rfl⟩

/-- A record of the root in its page-service area on core 15. -/
def post0 : Post :=
  { id := 4, page := false, target := 0, mp := false, body := [], waiter := .trap 0 0 uid, unit := none
    copies := [(15, 0x3FC0)], due := false }

def recorded : State :=
  let s : State := { st with cores := [(15, core0)], curCore := 15, posts := [post0] }
  (s.setLocal8 15 0x3FE0 3).setG 5 0x3FC0

theorem witness_reflect : Accepting recorded ∧ recorded.curCore = root0.svch ∧ root0.psaOff = 0 ∧
    recorded.local8 15 (0x3FC0 + 0x20) % 2 ^ 63 ≠ 0 ∧ recorded.posts = [post0] :=
  ⟨accepting rfl rfl rfl, rfl, rfl, by decide, rfl⟩

/-- A descriptor at 0x200000, and a whole image at 0x200100: magic number, version, an entry in a TEXT section of one word, the
CRC of the header. -/
def imgMem : Memory :=
  [(0x200001, 1), (0x200002, 0x20), (0x200100, 57), (0x200101, 88), (0x200102, 87), (0x200103, 71), (0x200105, 1),
   (0x20011A, 32), (0x200121, 1), (0x200124, 1), (0x200129, 2), (0x2001F0, 226), (0x2001F1, 187), (0x2001F2, 13),
   (0x2001F3, 145), (0x200200, 1), (0x20020A, 32), (0x200210, 128), (0x200211, 1), (0x200218, 4)]

def rwx (c : Nat) : TlbEntry := 
  { ctx := c, page := 0x20, big := false, spa := 0x200000, p1 := { r := true, w := true, x := true }
    p2 := { r := true, w := true, x := true }, lvl1 := 3, lvl2 := 3, ea := 0, gpage := 0x20 }

def img1 : Image :=
  { va := 0x200100, entry := 0x200000, features := 0, bankMask := 0, tileMask := 0, streams := 0, helpers := 0, prio := 0
    bankFmt := List.replicate 96 0, sections := [] }

def launch0 : Launch :=
  { ctx := 0, image := img1, arg := 0, astride := 0, nu := 2, cls := 0, node := 0, mapen := false, mapw := 0, cva := 0
    gmb := false, inen := false, slotIn := 0, slotOut := none, quant := 0, mode := 0, psize := 2, tsize := some 2, ovf := false
    site := 0, lebal := 5000, charged := 7, h := 0, tid := 0, heldBy := none, graph := none, porder := 0, isJob := false
    units := [(0, .resident 0), (1, .waiting false 0 0 0)], order := 0, cancelled := false, covered := false
    result := 0, confirmed := 0, page := .none, resultWritten := false, done := none }

/-- The small state with a launch of two units, of which unit 0 is resident; the buffers translate the image. -/
def launching (a b : Word) : State :=
  let s : State :=
    { st with mem := imgMem, launches := [(0, launch0)], cores := [(0, { core0 with dtlb := [rwx 0], itlb := [rwx 0] })] }
  (s.setG 5 a).setG 6 b

def node0 : Node := { desc := [], site := 0, launch := none, finished := false, status := 0, page := .none }

def desc1 : List Word := 0x200100 :: List.replicate 15 0

/-- A launch that may be made of a shape, of at most three units, two of them placed ahead of it. -/
def shaped : Launch :=
  { launch0 with
    gmb := true, quant := 8, tsize := none, psize := 2, nu := 3, units := [(0, .waiting true 0 0 0), (1, .waiting true 1 3 3)] }

def shaping : State := { launching 1 24 with launches := [(0, launch0), (1, shaped)] }

theorem image_ok {r : State × ImgRes} {u : State} {i : Image}
    (h : (match r with
      | (t, .ok j) => decide (t = u ∧ j = i)
      | _ => false) = true) : r = (u, .ok i) := by
  split at h
  · obtain ⟨rfl, rfl⟩ := of_decide_eq_true h
    rfl
  · cases h

theorem served {s : State} (u : (s.core s.curCore).unit.isSome = true) (c : s.castled = []) (k : s.cmds = []) : Served s :=
  ⟨u, fun x hx => absurd hx (by simp [c]), fun x hx => absurd hx (by simp [k])⟩

/-- A graph of two nodes, and one that GRUN has started. -/
def graph2 : Graph := { Graph.empty with nodes := [node0, node0] }

def ran (ph : Bool) : Graph := { Graph.empty with phase := ph, waiting := ph, order := 1 }

def withGraph (s : State) (g : Graph) : State := s.modCtx 0 fun y => { y with graphs := tput y.graphs 15 g }

/-- The small launch of a provisional unit. -/
def guessing : State := (launching 15 0).modCore 0 fun c => { c with unit := c.unit.map fun r => { r with prov := true } }

/-- GraphEngineCommandsActOnTheirObjects: a descriptor and an image that pass every check; a launch with room; shapes of one
unit and of all three; a waiting unit beside a resident one; graphs of no node and of two, idle and running; a GRUN with
and without PHASE, and of a provisional unit. -/
theorem witness_graph_engine : Accepting (launching 0x200000 15) ∧ Served (launching 0x200000 15) ∧
    ((launching 0x200000 15).accepted Un.grf).readDesc ((launching 0x200000 15).commandOf Un.grf (.launch 0x200000)) 0x200000 =
      ((launching 0x200000 15).accepted Un.grf, .ok desc1) ∧
    ((launching 0x200000 15).accepted Un.grf).readDesc ((launching 0x200000 15).commandOf Un.grf (.gnode 0x200000 15)) 0x200000 =
      ((launching 0x200000 15).accepted Un.grf, .ok desc1) ∧
    descOk desc1 = true ∧ Desc.mapen desc1 = false ∧ Desc.gmb desc1 = false ∧ Desc.slotOut desc1 = none ∧
    ((launching 0x200000 15).accepted Un.grf).readImage 0 0 0 0x200100 = ((launching 0x200000 15).accepted Un.grf, .ok img1) ∧
    (launching 0x200000 15).launchRoom 0 = true ∧ (launching 0x200000 15).freeLnum = some 1 ∧
    Settled (((launching 0x200000 15).accepted Un.grf).accept desc1 img1
      { ctx := 0, site := 0x10000, h := 0, tid := 0, add := 0, graph := none, heldBy := none, isJob := false }).1 ∧
    Graph.empty.busy = false ∧ Graph.empty.cyclic = false ∧ graph2.busy = false ∧ graph2.cyclic = false ∧
    ({ Graph.empty with st := .running } : Graph).busy = true ∧ (1 : Word).toNat = 1 ∧ (0x100 : Word).toNat = 0 + 1 * 2 ^ 8 ∧
    (launching 15 0).nextId = 0 ∧ (launching 15 0).provUnit 0 ((launching 15 0).unitId 0) = false ∧
    Settled (withGraph (launching 15 0) (ran true).start) ∧ Settled (withGraph (launching 15 0) { ran false with st := .done }) ∧
    Accepting guessing ∧ Served guessing ∧ guessing.provUnit 0 (guessing.unitId 0) = true ∧
    Settled (withGraph guessing { Graph.empty with held := some { holder := uid, arg := 0, phase := true, issuer := (0, 0), order := 1 } }) ∧
    Settled ((launching 63 9).modCtx 0 fun y => { y with slots := tput y.slots 63 { value := 9, final := true, bound := none } }) ∧
    shaping.provisional 0 = false ∧ tget shaping.launches 1 = some shaped ∧ Settled (shaping.applyShape 1 1) ∧
    Settled (shaping.applyShape 1 24) ∧ Settled ((launching 1 0).cancelUnit 0 1) ∧
    tget launch0.units 1 = some (.waiting false 0 0 0) ∧ (∀ e ∈ launch0.units, e.2 ≠ .cancelled) := by
  refine ⟨accepting rfl rfl rfl, served rfl rfl rfl, rfl, rfl, by decide, by decide, by decide, by decide,
    image_ok (by decide +kernel), by decide, by decide +kernel, ?_, by decide, by decide, by decide, by decide, by decide,
    by decide, by decide, rfl, by decide, ?_, ?_, accepting rfl rfl rfl, served rfl rfl rfl, by decide, ?_, ?_, by decide,
    by decide, ?_, ?_, ?_, by decide, by decide⟩ <;> (unfold Settled; decide +kernel)

/-- EnergyCommandsMoveAndReadBalances: masks of all three places and of the last, with a place that holds leave; an engine
with leave and one without; a launch whose balance falls to 0, and below it; a thread that waits for leave. -/
theorem witness_energy : Accepting (launching 1 0) ∧ (launching 1 0).provisional 0 = false ∧
    (∀ i < 3, (7 : Nat).testBit i = ((7 : Nat).testBit i && !((launching 7 0).core 0).placeHeld i)) ∧
    (∀ i < 3, (0 : Nat).testBit i = ((4 : Nat).testBit i &&
      !({ (launching 4 0).core 0 with leave := [(2, { held := true, wanted := true, idle := 0 })] } : Core).placeHeld i)) ∧
    ((launching 1 0).core 0).engineLeave 0 = { held := false, wanted := false, idle := 0 } ∧
    (∀ r ∈ ((launching 1 0).die 0).waiting, r.h ≠ 0) ∧ 0 = launch0.lebal + (-5 : Word).toInt * 1000 ∧ 0 < launch0.lebal ∧
    launch0.lebal + (-6 : Word).toInt * 1000 < 0 ∧ root0.energy < (1001 : Word).toInt ∧
    tget (launching 3 0).launches 3 = none ∧ tget (launching 0 0).launches ((launching 0 0).unitId 0).lnum = some launch0 ∧
    (launching 1 0).cur.u.pwait = 0 ∧ Accepting (withThread fun t => { t with u := { t.u with pwait := 1 } }) ∧
    (withThread fun t => { t with u := { t.u with pwait := 1 } }).cur.u.pwait ≠ 0 :=
  ⟨accepting rfl rfl rfl, by decide, by decide, by decide, by decide, by decide, by decide, by decide, by decide, by decide,
    rfl, rfl, rfl, accepting rfl rfl rfl, by decide⟩

/-! ## The bus and the collective queues -/

def port0 : Port :=
  { seg := 5, midx := 3, asked := 0, rate := 32, en := true, excluded := false, girth := 70000, guard := 2, stitch := 3, recal := 4
    entry := none, lit := [], replied := [] }

def seg0 : Seg :=
  { wlim := 15, calWlim := 15, cal := false, down := false, nports := 2, rate := 32, others := 24, foreignWeight := 1, lowest := 1, far := []
    groups := [(9, { part := 0, n := 2, ranks := [0, 1] })], recal := false, quar := [] }

/-- Rank 0 of the whole group 9 of two members, on port 2. -/
def hnd : Handle :=
  { Handle.unbound with st := 2, asking := false, port := 2, gid := 9, rank := 0, nm1 := 1, unit := uid, jtid := 0 }

/-- Tile entry 1, with a shadow; bank 0 holds INT8, bank 1 bytes, bank 4 FP32. -/
def busState (hs : Table Handle) (a b : Word) : State :=
  let s : State :=
    { st with
      ports := [(2, port0)], segs := [(5, seg0)]
      cores := [(0, { core0 with
        bus := hs, tiles := [(0, tile0), (1, { tile0 with nb := 1, vbank := 4, sbank := 6 })]
        banks := [(0, { core0.bank 0 with format := 6 }), (4, { core0.bank 4 with format := 1 })] })] }
  (s.setG 5 a).setG 6 b

def busOpOf (s : State) (m : Bool) : BusOp :=
  { max := m, tid := 0, unit := uid, ply := 0, addr := s.cur.r.pc, forms := s.g 5, geom := s.g 6, rnd := .rne, lease := Lease.none
    rails := [], asked := [], started := false, src := [], exps := [], awaiting := [], accepted := [], rejected := [], next := 0, sums := [], flags := 0, disc := false
    since := s.now, leave := Leave.reset }

/-- BusCommandsActOnTheirHandle: every field of a join word at its largest; each reserved bit of the words; an OBMAX of bytes
and an OBRED of INT8 into FP32 that pass their checks; word 2 of OBSTAT; a handle without operations. -/
theorem witness_bus : Accepting (busState [] 0 0) ∧ (busState [] 0 0).provisional 0 = false ∧
    (busState [] 0 0).portJoined (4 * dieOf 0 + 2) = true ∧ 0xFFFF02 = 2 + 0xFF * 2 ^ 8 + 15 * 2 ^ 16 + 15 * 2 ^ 20 ∧
    2 ^ 25 / 2 ^ 25 ≠ 0 ∧ 2 ^ 7 / 2 ^ 2 % 2 ^ 6 ≠ 0 ∧ tget ((busState [] 0 0).core 0).bus 3 = none ∧
    Accepting (busState [(3, hnd)] 0x4000004000 30) ∧ tget ((busState [(3, hnd)] 0 0).core 0).bus 3 = some hnd ∧
    (busState [(3, hnd)] 0x4000004000 30).busGate 0 (busOpOf (busState [(3, hnd)] 0x4000004000 30) true) = .ok ∧
    (busState [(3, hnd)] (2 ^ 42) 0x10001E).busGate 0 (busOpOf (busState [(3, hnd)] (2 ^ 42) 0x10001E) false) = .ok ∧
    2 ^ 54 / 2 ^ 54 ≠ 0 ∧ 2 ^ 34 / 2 ^ 34 ≠ 0 ∧ st.cur.late.length < 4 ∧ Unused (busState [(3, hnd)] 0 0) 0 ∧
    (∀ e ∈ ((busState [(3, hnd)] 0 0).core 0).bus, e.2.unit = (busState [(3, hnd)] 0 0).unitId 0) ∧
    (tget (busState [] 0x30 0).parts root0.part).isSome = true ∧ (0x30 : Word).toNat = 2 ^ 4 + 1 * 2 ^ 5 ∧ root0.level = 0 ∧
    child0.level ≠ 0 :=
  ⟨accepting rfl rfl rfl, by decide, by decide, by decide, by decide, by decide, rfl, accepting rfl rfl rfl, rfl,
    by decide +kernel, by decide +kernel, by decide, by decide, by decide, ⟨by decide, by decide, by decide⟩, by decide,
    by decide, by decide, rfl, by decide⟩

/-- A staged ALLREDUCE of one INT8 element. -/
def colOp0 : ColOp :=
  { seq := 7, running := false, desc := 0x1980 :: List.replicate 7 0, base := 0, unit := uid, h := 0, tid := 0, cls := 0
    started := 0, sent := [], written := [], partials := [], pages := [], flags := 0, disc := false }

def colQ0 : ColQ :=
  { ctx := 0, comm := 77, w := 16, root := true, parent := 0, children := [], rank := 0, members := 1, tmo := 1000, cnts := [0, 5]
    vf := 511, seq := 8, ops := [colOp0], ended := [{ seq := 3, status := 6, disc := true }], closing := false }

/-- Queues of the engine of die 0, and a descriptor of 64 bytes at 0x200000 whose word 0 is `d`. -/
def colState (qs : Table ColQ) (d : Nat) (a b : Word) : State :=
  let s : State :=
    { st with
      mem := memWrite [] 0x200000 8 d, cores := [(0, { core0 with dtlb := [rwx 0] })]
      dies := [(0, { Die.reset with col := { Die.reset.col with queues := qs } })] }
  (s.setG 5 a).setG 6 b

/-- A state reads the words of a descriptor. -/
theorem reads_words {s u : State} {va : Word} {d : List Word} (a : va.toNat % 64 = 0) (l : 0x200000 ≤ va.toNat)
    (h : (match u.readVa s.curCore s.curTid s.curCtx 1 .copyRead va.toNat 64 with
      | (t, .ok bs) => decide (t = u ∧ d = (chunks 8 8 bs).map (fun b => w64 (numOf b)))
      | _ => false) = true) : s.readsWords u va d := by
  refine ⟨a, l, ?_⟩
  split at h
  · rename_i t bs e
    obtain ⟨rfl, hd⟩ := of_decide_eq_true h
    exact ⟨bs, e, hd⟩
  · cases h

/-- The communicator descriptor of a root that is alone: every counter and buffer that one queue can have. -/
def comm0 : List Word := 0x3F8FFFFF :: List.replicate 7 0

/-- CollectiveCommandsActOnTheirQueue: descriptors that pass their checks; operands at both sides of 64; an open queue with a
staged collective and an ended one; an empty queue. -/
theorem witness_collective : Accepting (colState [] 0x3F8FFFFF 0x200000 0) ∧ Served (colState [] 0x3F8FFFFF 0x200000 0) ∧
    (colState [] 0x3F8FFFFF 0x200000 0).provisional 0 = false ∧
    (colState [] 0x3F8FFFFF 0x200000 0).readsWords ((colState [] 0x3F8FFFFF 0x200000 0).accepted Un.col) 0x200000 comm0 ∧
    commOk comm0 = true ∧
    (∀ k ∈ ((colState [] 0 0 0).die 0).col.queues, k.2.ctx ≠ 0) ∧ 1 ≤ ((colState [] 0 0 0).ctx 0).queues ∧
    2 * (Cd.word comm0 0 / 2 ^ 16 % 16 + 1) ≤ ((colState [] 0 0 0).die 0).col.freeBuffers ∧
    Cd.word comm0 0 / 2 ^ 24 % 64 ≤ ((colState [] 0 0 0).die 0).col.freeCounters.length ∧
    tfree ((colState [] 0 0 0).die 0).col.queues 0 64 = some 0 ∧
    Accepting (colState [(63, colQ0)] 0x1980 63 0x200000) ∧ (colState [(63, colQ0)] 0 63 0).colQueue 0 63 = some colQ0 ∧
    (colState [(63, colQ0)] 0 62 0).colQueue 0 62 = none ∧
    (colState [(63, colQ0)] 0x1980 63 0x200000).readsWords ((colState [(63, colQ0)] 0x1980 63 0x200000).accepted Un.col)
      0x200000 colOp0.desc ∧ collOk 0 colOp0.desc = true ∧
    Cd.op colOp0.desc ≠ Cop.barrier ∧ colQ0.ops.length < 16 ∧ (∀ o ∈ colQ0.ops, o.seq ≠ 3 ∧ o.seq ≠ 4) ∧
    (colQ0.ended.find? (fun x => x.seq == 3)).isSome = true ∧ colQ0.ended.find? (fun x => x.seq == 4) = none ∧
    (colState [(63, { colQ0 with ops := [] })] 0 63 1).colQueue 0 63 = some { colQ0 with ops := [] } :=
  ⟨accepting rfl rfl rfl, served rfl rfl rfl, by decide, reads_words (by decide) (by decide) (by decide +kernel), by decide,
    by decide, by decide, by decide, by decide, by decide, accepting rfl rfl rfl, rfl, rfl,
    reads_words (by decide) (by decide) (by decide +kernel), by decide, by decide, by decide, by decide,
    by decide, by decide, rfl⟩

/-! ## Waits, posts and replies -/

def waiting (w : Wait) : State := withThread fun t => { t with wait := w }

theorem live0 {s : State} {c : Core} {t : Thread} (h1 : s.core 0 = c) (h2 : tget c.threads 0 = some t)
    (h3 : c.unit.isSome = true) (h4 : t.exited = none) (h5 : t.halted = false) : Live s 0 0 c t := ⟨h1, h2, h3, h4, h5⟩

/-- A wait for a counter that is 1. -/
def counting : State :=
  (waiting (.waitc 15)).modCore 0 fun c => { c with sync := { c.sync with counters := [(15, 1)] } }

/-- Helper 1 has exited, and the control context waits for it. -/
def joining : State :=
  withCore fun c =>
    { c with
      threads := [(0, { thread0 with wait := .hjoin 7 [1] 0 }), (1, { thread0 with exited := some 9 })]
      unit := some { unit0 with assigned := [1] } }

/-- A VSETVL of g5 that waits while the queue still has a place, in a state whose current thread is another. -/
def queueing : State :=
  { (vecQueue 7).modCur (fun t => { t with wait := .dispatch { unit := 4, addr := 0x10000, word := 0xA8050012 } }) with curTid := 3 }

/-- WaitsEndAtTheirConditions: each wait with its condition met, and for counters and barriers not met. -/
theorem witness_waits : Live (waiting .yieldu) 0 0 ((waiting .yieldu).core 0) { thread0 with wait := .yieldu } ∧
    (counting.core 0).sync.counter 15 ≠ 0 ∧ ((waiting (.waitc 15)).core 0).sync.counter 15 = 0 ∧
    ((barred 1 0).core 0).sync.bar 7 ≠ ((barred 1 1).core 0).sync.bar 7 ∧
    (waiting (.waitm 0x17FFF8 5)).watched 0 ((waiting .none).unitId 0) 0x17FFF8 ≠ 5 ∧
    tget (tiled.core 0).tiles 0 = some tile0 ∧ (colState [(63, colQ0)] 0 0 0).colRuns 0 63 3 = false ∧
    (colState [(63, colQ0)] 0 0 0).colFinal 0 63 3 = (6, true) ∧ (waiting .confirm).provisional 0 = false ∧
    (waiting (.hexit 9)).exitHeld 0 1 = false ∧ (joining.core 0).contested 0 0 1 = false ∧
    ((joining.thread 0 1).exited = some 9 ∧ joining.inflight = []) ∧
    (thread0.t.tvec.getLsbD 0 = false ∧ ((handled 0 1).thread 0 0).t.tvec.getLsbD 0 = true ∧
      ((handled 0 1).thread 0 0).t.inh = false) ∧
    (queueing.core 0).vec.queue.length < 8 :=
  ⟨live0 rfl rfl rfl rfl rfl, by decide⟩

theorem witness_dispatch_wait :
    Live queueing 0 0 (queueing.core 0) (queueing.thread 0 0) ∧
    (queueing.thread 0 0).wait = .dispatch { unit := 4, addr := 0x10000, word := 0xA8050012 } ∧
    Accepting { queueing with curCore := 0, curTid := 0, curWord := 0xA8050012 } ∧ (queueing.core 0).formatPending = false ∧
    (∀ x ∈ (queueing.core 0).qrn.queue, x.tid ≠ 0) :=
  ⟨live0 rfl rfl rfl rfl rfl, rfl, ⟨quiet rfl rfl, rfl⟩, by decide, by decide⟩

def late0 : LateFault := { code := 255, ply := 5, addr := 0xFFFFFFFFFFFFFFFC, unit := 15 }

/-- LateFaultsAndTheWatchdog: three faults queued, and four; one to a thread with an open handler. -/
theorem witness_late_faults : (List.replicate 3 late0).length < 4 ∧ 4 ≤ (List.replicate 4 late0).length ∧
    late0.code < 256 ∧ late0.unit < 16 ∧ Live (handled 0 1) 0 0 ((handled 0 1).core 0) ((handled 0 1).thread 0 0) ∧
    (handled 0 1).inflight = [] ∧
    ((handled 0 1).thread 0 0).t.tvec.getLsbD 0 = true ∧ ((handled 0 1).thread 0 0).t.inh = false ∧
    ((handled 0 1).thread 0 0).wait = .none ∧ ((handled 0 1).thread 0 0).refused = [] :=
  ⟨by decide, by decide, by decide, by decide, live0 rfl rfl rfl rfl rfl, rfl, by decide, rfl, rfl, rfl⟩

/-- A record of the root that is due, the only one; the first two records of the page-service area are taken. -/
def duePost : Post := { post0 with page := true, body := [1, 2, 3, 4, 5, 6], copies := [], due := true }

def postable : State :=
  (({ st with posts := [duePost] } : State).setLocal8 15 0x60 1).setLocal8 15 0xA0 2

/-- RecordsArePostedAndAnswered: record 3 of the lowest area. -/
theorem witness_records : postable.Inv ∧ postable.posts = [duePost] ∧ duePost.body.length = 6 ∧
    postable.postHeld duePost = false ∧ tget postable.ctxs duePost.target = some root0 ∧ root0.st ≠ .draining ∧
    (postable.part 0).out = false ∧ isService root0.svch = true ∧ postable.local8 15 (64 * 3 + 0x20) % 2 ^ 63 = 0 ∧
    (∀ j, 1 ≤ j → j < 3 → postable.local8 15 (64 * j + 0x20) % 2 ^ 63 ≠ 0) := by
  refine ⟨by unfold State.Inv; decide, rfl, rfl, by decide, rfl, by decide, by decide, by decide, by decide, ?_⟩
  intro j h1 h3
  have : j = 1 ∨ j = 2 := by omega
  rcases this with rfl | rfl <;> decide

def tag0 : PageTag := { tag := 63, stage := 0, page := 5, post := 4 }

/-- A trap record in the last place of the area whose thread waits, and a page request that a thread waits on. -/
def replying : State :=
  (waiting (.trapReply 4)).setLocal8 15 0x3FE0 3

def paging : State :=
  { ((waiting (.page (.tag 0 63) 8 1)).modCtx 0 fun x => { x with tags := [tag0] }).setLocal8 15 0x3FE0 3 with
    posts := [{ post0 with page := true, waiter := .page 0 63 }] }

/-- RecordsArePostedAndAnswered. -/
theorem witness_replies : ({ replying with posts := [post0] } : State).Inv ∧
    PostedAt { replying with posts := [post0] } post0 15 0x3FC0 ∧ (replying.core 0).unit.map (·.id) = some uid ∧
    tget (replying.core 0).threads 0 = some { thread0 with wait := .trapReply 4 } ∧ replying.castled = [] ∧
    (1 : Word).toNat % 256 ≠ 0 ∧ paging.Inv ∧ PostedAt paging { post0 with page := true, waiter := .page 0 63 } 15 0x3FC0 ∧
    tget paging.ctxs 0 = some { root0 with tags := [tag0] } ∧
    tget (paging.core 0).threads 0 = some { thread0 with wait := .page (.tag 0 63) 8 1 } ∧
    Settled { replying with posts := [post0] } ∧ Settled (paging.answerTag 0 63 false) ∧ Settled (paging.answerTag 0 63 true) := by
  refine ⟨by unfold State.Inv; decide, ⟨rfl, rfl, by decide, by decide, by decide, by decide, by decide, by decide⟩, by decide,
    rfl, rfl, by decide, by unfold State.Inv; decide,
    ⟨rfl, rfl, by decide, by decide, by decide, by decide, by decide, by decide⟩, rfl, rfl, ?_, ?_, ?_⟩ <;>
    (unfold Settled; decide +kernel)

def load0 : Access :=
  { id := 1, h := 0, tid := 0, unit := uid, path := .mesh, va := 0x200000, addr := 0x200000, size := 8, kind := .load false
    reg := some 5, epc := 0x10000, scope := .core, release := false, acquire := false, fence := false }

/-- InvalidationsAndRegisterEvents: the area of the root; a word with ALL, one of the most pages, one with SEQ at its ends. -/
theorem witness_invalidations : st.Inv ∧ isService 15 = true ∧ st.posts = [] ∧ st.invals = [] ∧ st.areaOwner 15 0 = some 0 ∧
    0x1_0001_0000 / 2 ^ 32 = 1 ∧ 0x1_0001_0000 / 2 ^ 17 % 2 ^ 15 = 0 ∧ 0xFFFFFFFF_0000FFFF / 2 ^ 32 = 2 ^ 32 - 1 ∧
    0xFFFFFFFF_0000FFFF / 2 ^ 17 % 2 ^ 15 = 0 ∧ (∀ a ∈ st.inflight, a.unit.ctx ≠ 0) ∧
    0x20000 / 2 ^ 17 % 2 ^ 15 ≠ 0 ∧ ({ st with inflight := [load0] } : State).inflight = [load0] ∧ st.poison = [] ∧
    ((st.launch? 0).map (·.cancelled)).getD false = false :=
  ⟨by unfold State.Inv; decide, by decide, rfl, rfl, by decide, by decide, by decide, by decide, by decide, by decide, by decide,
    rfl, rfl, by decide⟩

/-! ## Registers, errors and power -/

def wayed (v : Bool) : State :=
  ({ st with
      parts := [(0, { part0 with pways := [0xF3], defMask := [0xF3] })]
      vfs := [(7, { Vf.reset with part := some 0, masks := [0xFF] })] } : State).modCore 0 fun c =>
    { c with regs := { c.regs with wayDef := v, wayVf := 7, wayDie := 0, wdogLimit := 3 } }

/-- InvalidationsAndRegisterEvents: the last bank waits with no formatted command under way; limits at the ends; masks within
the ways of the partition and beyond them, of the default tenant and of a VF. -/
theorem witness_register_events : (waiting (.bfmt 95 0x2C)).cur.wait = .bfmt 95 0x2C ∧ (st.core 0).formattedBusy = false ∧
    tget (st.core 0).threads 0 = some thread0 ∧ (st.core 0).unit.isSome = true ∧ 1 ≤ ((wayed true).core 0).regs.wdogLimit ∧
    (wayed true).ctxAt 0 = 0 ∧ ((wayed true).part 0).root = 0 ∧ ((wayed true).core 0).regs.wayDef = true ∧
    ((wayed false).vfOf 7).part = some 0 ∧ (0xF3 &&& 0xF3 = 0xF3 ∧ 0x04 &&& 0xF3 ≠ 0x04) ∧
    ({ part0 with root := 3 } : Part).root ≠ 0 :=
  ⟨rfl, by decide, rfl, by decide, by decide, by decide, by decide, by decide, by decide, by decide, by decide⟩

def dogged (n : Nat) : State := withCore fun c => { c with regs := { c.regs with wdogLimit := 3, wdogCount := n } }

/-- LateFaultsAndTheWatchdog: one cycle before the limit, and at it. -/
theorem witness_watchdog : ((dogged 3145727).core 0).regs.wdogCount < ((dogged 3145727).core 0).regs.wdogLimit * 2 ^ 20 ∧
    ((dogged 3145728).core 0).regs.wdogLimit * 2 ^ 20 ≤ ((dogged 3145728).core 0).regs.wdogCount ∧
    ((dogged 3145728).core 0).unit = some unit0 ∧ ((dogged 3145728).core 0).regs.wdtPost = none ∧
    ((dogged 3145728).core 0).threads = [(0, thread0)] ∧ thread0.exited = none ∧ thread0.refused = [] ∧ st.inflight = [] :=
  ⟨by decide, by decide, rfl, rfl, rfl, rfl, rfl, rfl⟩

/-- ErrorsAndPower: a unit of the partition's default tenant, which has no job; a way of no tenant. -/
theorem witness_errors : st.Inv ∧ (st.core 0).unit = some unit0 ∧ 512 ≤ st.tenantOf 0 ∧ st.jobsOf (st.tenantOf 0) = [] ∧
    st.tenantsOfWay 0 15 = [] :=
  ⟨by unfold State.Inv; decide, rfl, by decide, by decide, by decide⟩

def leaving (held : Nat) (now : Nat) : State :=
  ({ st with
      cycle := now
      dies := [(0, { Die.reset with held := held, waiting := [{ h := 0, agent := 1, cmd := 0, cls := 1, order := 7 }] })] } :
    State).modCore 0 fun c => c.modLeave 0 fun _ => { held := true, wanted := false, idle := 5 }

/-- ErrorsAndPower: the last unit of leave and none left; an engine at both sides of 2,048 idle cycles; a unit at
both sides of 3,200,000 cycles. -/
theorem witness_power : ((leaving 1024 0).die 0).cap ≤ ((leaving 1024 0).die 0).held ∧
    ((leaving 1023 0).die 0).held < ((leaving 1023 0).die 0).cap ∧ ((leaving 1023 0).die 0).thr < 2 ∧ dieOf 0 = 0 ∧
    (((leaving 3 2053).core 0).engineLeave 0).held = true ∧ ((leaving 3 2053).core 0).engineBusy 0 = false ∧
    (((leaving 3 2053).core 0).engineLeave 0).idle + 2048 ≤ (leaving 3 2053).now ∧
    (leaving 3 2052).now < (((leaving 3 2052).core 0).engineLeave 0).idle + 2048 ∧ tget (launching 0 0).launches 0 = some launch0 ∧
    launch0.done = none ∧ tget launch0.units 1 = some (.waiting false 0 0 0) ∧ launch0.heldBy = none ∧
    launch0.classOf 2 < 3 ∧ (0 < launch0.lebal ∧ launch0.lebal - 5000 ≤ 0 ∧ ¬launch0.lebal - 4999 ≤ 0) ∧
    0 + 3200000 ≤ ({ st with cycle := 3200000 } : State).now ∧
    ({ st with cycle := 3199999 } : State).now < 0 + 3200000 ∧ st.inflight = [] ∧
    (∀ c ∈ st.cores, c.2.vec.queue = []) := by
  decide

/-! ## Units, phases, drains, castling -/

/-- A launch whose unit 1 waits, and no unit on any core; the image claims banks 0, 2 and 95. -/
def placing : State :=
  { st with
    cores := [], launches := [(3, { launch0 with
      image := { img1 with bankMask := 0x800000000000000000000005 }, arg := 100, astride := 7, units := [(1, .waiting false 0 0 0)] })] }

def waiter : Waiting := { l := 3, i := 1, at_ := none, prov := false, cls := 0, raised := 0, since := 0, node := 0 }

/-- The one core of the context holds a unit that yields, and a unit of a class that is no lower waits. -/
def evicting (w : Wait) : State :=
  { st with
    cores := [(0, { core0 with threads := [(0, { thread0 with wait := w })], regBanks := [(4, .live 0)], tiles := [(0, tile0)] })]
    ctxs := [(0, { root0 with coreLen := 1 })], parts := [(0, { part0 with save := { base := 0, size := 2 ^ 30 } })]
    launches := [(0, launch0), (3, { launch0 with units := [(0, .waiting false 0 0 0)] })] }

/-- A unit whose control context has exited, or which has been asked to stop in cycle 5, at a later cycle. -/
def ending (e : Option Word) (q : Option StopReq) (now : Nat) : State :=
  { st with
    cycle := now, launches := [(0, launch0)]
    cores := [(0, { core0 with
      unit := some { unit0 with exit0 := e, stop := q }, threads := [(0, { thread0 with exited := e })]
      banks := [(3, { core0.bank 3 with owner := some uid })] })] }

def graph0 (n : Nat) : Graph := { Graph.empty with st := .running, waiting := true, phase := true, order := n, nodes := [node0] }

/-- A graph whose GRUN is number `n` in the order of acceptance waits at its boundary, while launch 0, of number 0, runs. -/
def bounded (n : Nat) : State :=
  { st with
    ctxs := [(0, { root0 with graphs := [(2, graph0 n)] })], launches := [(0, launch0)]
    parts := [(0, { part0 with cken := true, gated := [.write 0 4 8 [(spaHost + 8, 5)], .interrupt 1 3 1] })] }

/-- UnitsStartLeaveAndEnd: a unit that waits and an empty core; a unit that may be evicted and one that may not; a unit that
has exited; one at both sides of 2^20 cycles of its stop; a boundary that is reached and one that is not. -/
theorem witness_units : NoneEvicted placing ∧ placing.pool 0 = [waiter] ∧
    (∃ l, tget placing.launches 3 = some l ∧ ∃ hs, placing.choices l 1 = 0 :: hs) ∧ (placing.core 0).unit = none ∧
    Settled (placing.startUnit 3 1 0 false 0) ∧ NoneEvicted (evicting .yieldu) ∧ (evicting .yieldu).evictChosen 0 = true ∧
    (evicting (.waitc 3)).evictChosen 0 = false ∧ (ending (some 9) none 0).ucnt 0 = 0 ∧
    Settled (((ending (some 9) none 0).clearUnit 0 uid true).setUnit 0 0 (.completed 9)) ∧
    Settled (((ending none (some { since := 5 }) 1048581).clearUnit 0 uid true).setUnit 0 0 .cancelled) ∧
    5 + 2 ^ 20 ≤ (ending none (some { since := 5 }) 1048581).now ∧
    (ending none (some { since := 5 }) 1048580).now < 5 + 2 ^ 20 ∧
    (∃ t ∈ ((ending none (some { since := 5 }) 1048580).core 0).threads, t.2.exited = none ∧ t.2.wait = .none) ∧
    (bounded 0).phaseReady 0 (graph0 0) = true ∧ (bounded 1).phaseReady 0 (graph0 1) = false ∧
    tget ({ root0 with graphs := [(2, graph0 0)] } : Ctx).graphs 2 = some (graph0 0) := by
  refine ⟨by unfold NoneEvicted; decide, rfl, ⟨_, rfl, _, rfl⟩, rfl, ?_, by unfold NoneEvicted; decide,
    by decide +kernel, by decide +kernel, by decide +kernel, ?_, ?_, by decide, by decide, ⟨_, List.mem_singleton.2 rfl, rfl, rfl⟩,
    by decide, by decide, rfl⟩ <;> (unfold Settled; decide +kernel)

def drained (k : DrainKind) : State := { family { child0 with st := .draining } [] 0 0 with drains := [{ id := 8, kind := k, covers := [] }] }

/-- DrainsEnd: a unit of the root on core 0 keeps back a grant of cores 0 to 2 to the child; a unit of the child is on none. -/
theorem witness_drains : OnlyDrain (drained (.coreGrant 1 0 3)) { id := 8, kind := .coreGrant 1 0 3, covers := [] } (.coreGrant 1 0 3) ∧
    Performed (drained (.coreGrant 1 0 3)) { id := 8, kind := .coreGrant 1 0 3, covers := [] } ∧
    (drained (.coreGrant 1 0 3)).unitsOn 0 3 (fun k => !(drained (.coreGrant 1 0 3)).reaches 1 k) = true ∧
    (drained (.coreGrant 1 1 3)).unitsOn 1 3 (fun k => !(drained (.coreGrant 1 1 3)).reaches 1 k) = false ∧
    ¬Performed { drained (.revokeMem 1 3 4 []) with inflight := [load0] } { id := 8, kind := .revokeMem 1 3 4 [], covers := [1] } ∧
    (drained (.revokeCores 0 1 4 2)).unitsOn 4 2 ((drained (.revokeCores 0 1 4 2)).reaches 1) = false ∧
    Leaf (drained (.delete 0 1)) 1 ∧ (drained (.delete 0 1)).subtreeBusy [1] = false ∧
    ({ drained (.delete 0 1) with launches := [(5, { launch0 with ctx := 1 })] } : State).subtreeBusy [1] = true ∧
    ({ st with parts := [(0, { part0 with prepared := some (0, 16) })] } : State).prepareDrained = true ∧
    ({ st with parts := [(0, { part0 with prepared := some (5, 16) })] } : State).prepareDrained = false ∧
    tiled.tileUsed 0 uid 0 = false ∧ (st.core 0).evicted = [] ∧ (st.core 0).unit.map (·.id) = some uid :=
  ⟨⟨rfl, rfl⟩, (fun a h => by cases h), by decide, by decide, (fun h => h load0 (List.mem_singleton.2 rfl) (by decide)), by decide,
    ⟨by decide, by decide⟩, by decide, by decide, by decide +kernel, by decide +kernel, by decide, rfl, rfl⟩

/-- Two partitions of cores 0 to 15, whose first slice begins in cycle 10. -/
def sliced (now : Nat) : State :=
  { st with
    cycle := now, mem := [(3, 9)], mp := { st.mp with slices := [{ a := 0, b := some 1, sa := 100, sb := 100, t0 := 10 }] }
    parts := [(0, { part0 with partner := some 1 }), (1, { part0 with partner := some 0, out := true })] }

def castle0 : Castled := { part := 0, stopped := 10, cores := [(0, core0)], mem := [(spaAlias + 5, 7)] }

/-- CastlingStoresAndRestores: the cycle before the slice begins, and that in which it does; a partition that is out and whose
interval another holds, and one that comes back, in the last cycle of the stop and in the one after it. -/
theorem witness_castling : (sliced 10).Inv ∧ (sliced 9).sliced 0 = false ∧ (sliced 10).sliced 0 = true ∧
    (∀ a ∈ (sliced 10).inflight, a.h ∉ part0.interval) ∧ (∀ h ∈ part0.interval, ((sliced 10).core h).vec.queue = []) ∧
    ((sliced 10).part 1).out = true ∧ ((sliced 10).part 0).out = false ∧
    ({ part0 with out := true } : Part).out = true ∧ castle0.part = 0 ∧ (castle0.cores.map (·.1)).Nodup ∧
    Memory.wf castle0.mem = true ∧ (sliced 32009).now < castle0.stopped + 32000 ∧ castle0.stopped + 32000 ≤ (sliced 32010).now ∧
    0 < part0.hlen :=
  ⟨by unfold State.Inv; decide, by decide⟩

/-! ## Engines of a core -/

/-- A stream at the last position of bank 0 that its bounds allow, and one into the last bank. -/
def stream0 (b0 e0 : Nat) (write : Bool) : Stream :=
  { Stream.reset with b0 := b0, nb := 1, e0 := e0, cnt := [5, 0, 0, 0], str := [-3, 0, 0, 0], en := true, pos := 4, write := write }

def vecAdd : VecCmd := { vecCmd 0 with op := .vadd, bf := 27, scalar := 0x40490FDB, dst := 1, src := 2 }

/-- A vector command at the head of the queue, FP16 in bank 0 and FP32 in bank 95, VLEN 1. -/
def vecState (q : VecCmd) : State :=
  (withCore fun c =>
    { c with
      vec := { c.vec with queue := [q, vecCmd 1], streams := [(1, stream0 95 4095 true), (2, stream0 0 4095 false)] }
      banks := [(0, { c.bank 0 with format := 2 }), (95, { c.bank 95 with format := 1 })] }).modCur fun t =>
    { t with u := { t.u with vlen := 1 } }

theorem serves0 {s : State} {c : Core} {t : Thread} (h1 : s.core 0 = c) (h2 : tget c.threads 0 = some t)
    (h3 : t.halted = false) : Serves s 0 0 c t := ⟨h1, h2, h3⟩

/-- VectorCommandsArePerformed: a command that fails a check, and ones that fail none; a source and a destination at the end of
their banks. -/
theorem witness_vector_performed : (vecState vecAdd).Inv ∧
    Serves (vecState vecAdd) 0 vecAdd.tid ((vecState vecAdd).core 0) ((vecState vecAdd).thread 0 0) ∧
    ((vecState vecAdd).core 0).vec.queue = vecAdd :: [vecCmd 1] ∧
    (vecState { vecAdd with src := 3 }).vecFault 0 { vecAdd with src := 3 } = some Late.sflt ∧
    (vecState vecAdd).vecFault 0 vecAdd = none ∧ (vecState { vecCmd 0 with a := 4096 }).vecFault 0 { vecCmd 0 with a := 4096 } = none ∧
    (vecState { vecAdd with op := .vsumx }).vecFault 0 { vecAdd with op := .vsumx } = none ∧
    (vecState { vecAdd with op := .vclrq }).vecFault 0 { vecAdd with op := .vclrq } = none ∧
    (vecState { vecAdd with op := .vson, dst := 0 }).vecFault 0 { vecAdd with op := .vson, dst := 0 } = none ∧
    unit0.streams.getLsbD 1 = true ∧ (∀ d ∈ (stream0 95 0 true).dims, d.1 ≠ 0) ∧
    (∀ n, ((vecState vecAdd).core 0).phys n < 128 ↔ n < 128) ∧ ((vecState vecAdd).core 0).stream 1 = stream0 95 4095 true ∧
    (stream0 95 4095 true).position 4 = ((4083 : Nat) : Int) := by
  refine ⟨by unfold State.Inv; decide, serves0 rfl rfl rfl, rfl, by decide, by decide, by decide, by decide, by decide, by decide,
    by decide, by decide, ?_, rfl, by decide⟩
  intro n
  rw [show ((vecState vecAdd).core 0).phys n = n from rfl]

def vmsg (x seq : Nat) (v : Word32) : VmaxMsg :=
  { dst := 0, fromX := x, ctx := 0, lnum := 0, x0 := 0, wm1 := 1, seq := seq, value := v }

def vop (seq : Nat) : VmaxOp := { vmaxOp with tid := 0, seq := seq, x0 := 0, wm1 := 1, at_ := 5 }

/-- A contribution of core 1 is held, and that of core 0 arrives; cycle `now`. -/
def maxing (now : Word) : State :=
  { withCore (fun c => { c with vec := { c.vec with vmaxSeq := 3, vmax := [vop 2], vmaxHeld := [vmsg 1 2 0x40000000] } }) with
    msgs := [.vmax (vmsg 0 2 0x3F800000)], cycle := now }

def bmsg (rel ax : Bool) (w h : Nat) : BarMsg :=
  { dst := 0, z := 7, ctx := 0, lnum := 0, x0 := 0, y0 := 0, wm1 := w, hm1 := h, release := rel, alongX := ax }

/-- The barrier of the corner of a rectangle of 4 by 6 cores, which waits for one arrival along X, or along Y. -/
def bar0 (x y : Bool) : Bar :=
  { Bar.reset with cfg := true, wm1 := 3, hm1 := 5, gen := 4, rgen := 3, own := true, fromX := x, fromY := y }

/-- RankMaximaAndBarriersCombine: the first and the last number of the window; a last contribution; a core without a unit, and one with a unit of another
launch; the
cycle before the deadline, and that of it; an arrival along each rank that is the last, one of another rectangle. -/
theorem witness_ranks : Arrives (maxing 0) (.vmax (vmsg 0 2 0x3F800000)) 0 ∧ ((maxing 0).core 0).unit = some unit0 ∧
    (∀ q ∈ ((maxing 0).core 0).vec.queue, q.op ≠ .vmaxx) ∧ (vop 2).seq < ((maxing 0).core 0).vec.vmaxSeq ∧
    (∀ w ∈ [vmsg 1 2 0x40000000, vmsg 0 2 0x3F800000], w.seq = (vop 2).seq ∧ w.x0 = 0 ∧ w.wm1 = 1) ∧ 3 < 0 + 4 ∧
    (vop 2).at_ + 2 ^ 24 ≤ (maxing 16777221).now ∧ (maxing 16777220).now < (vop 2).at_ + 2 ^ 24 ∧
    Arrives { st with msgs := [.bar (bmsg false true 3 5)] } (.bar (bmsg false true 3 5)) 0 ∧
    (bar0 false true).sameRect (bmsg false true 3 5) = true ∧ (bar0 true false).sameRect (bmsg false false 3 5) = true ∧
    (bar0 false true).sameRect (bmsg false true 4 5) = false ∧ hilbertXY 0 = (0, 0) ∧ (bar0 false true).own = true ∧
    (Bar.reset.x0 + Bar.reset.wm1 ≤ 0 ∧ Bar.reset.y0 + Bar.reset.hm1 ≤ 0) ∧
    (({ st with cores := [] } : State).core 0).unit = none ∧ (({ st with cores := [] } : State).core 0).evicted = [] ∧
    (({ st with cores := [] } : State).core 0).vec.vmax = [] ∧ (({ st with cores := [] } : State).core 0).vec.vmaxSeq ≤ (vmsg 0 2 0).seq ∧
    (vmsg 0 2 0).seq < (({ st with cores := [] } : State).core 0).vec.vmaxSeq + 4 ∧
    unit0.id.lnum ≠ ({ vmsg 0 2 0 with lnum := 1 } : VmaxMsg).lnum :=
  ⟨⟨rfl, rfl⟩, rfl, by decide, by decide, by decide, by decide, by decide, by decide, ⟨rfl, rfl⟩, by decide, by decide, by decide,
    by decide, rfl, by decide, rfl, rfl, rfl, by decide, by decide, by decide⟩

def matCmd (op : MatOp) (b : Word) : MatCmd :=
  { op := op, tid := 0, ply := 1, addr := 8, a := 0x32, b := b, ms := 3, k := 3, rnd := .rne, m := 5, prog := 0, capA := [], capB := [], codeB := 0
    flags := 0x21, last := false, seq := 0 }

/-- One matrix command of stream 3; registers 2 and 3 hold one row of one element. -/
def matOne (q : MatCmd) (held : Bool) : State :=
  (withCore fun c =>
    { c with mat := { c.mat with
      queue := [q], m := [(2, { TileReg.reset with code := 6, rows := 1, cols := 1 }), (3, { TileReg.reset with code := 6, rows := 1, cols := 1 })] } }).modCore
    0 fun c => c.modLeave q.engine fun l => { l with held := held }

/-- MatrixCommandsAreTaken: an engine without leave and with it; a command that has taken its last step; an MST whose counter
is a queue's of the context. -/
theorem witness_matrix_taken : Serves (matOne (matCmd .mmai 0) false) 0 0 ((matOne (matCmd .mmai 0) false).core 0) thread0 ∧
    ((matOne (matCmd .mmai 0) false).core 0).mat.queue = [matCmd .mmai 0] ∧ (matCmd .mmai 0).ms < 4 ∧
    (matCmd .mmai 0).op.isMma = true ∧ (((matOne (matCmd .mmai 0) false).core 0).engineLeave (matCmd .mmai 0).engine).held = false ∧
    (((matOne (matCmd .mmai 0) false).core 0).engineLeave (matCmd .mmai 0).engine).wanted = false ∧ (st.die (dieOf 0)).waiting = [] ∧
    (((matOne (matCmd .mmai 0) true).core 0).engineLeave (matCmd .mmai 0).engine).held = true ∧ (matCmd .mmai 0).bankForm = false ∧
    (((matOne (matCmd .mmai 0) true).core 0).mat.reg (matCmd .mmai 0).ra).rows = 1 ∧
    (((matOne (matCmd .mmai 0) true).core 0).mat.reg (matCmd .mmai 0).rb).rows = 1 ∧ (matCmd .mst 0x0114000000000000).cinc = true ∧
    (matCmd .mst 0x0114000000000000).cid = 5 ∧ colQ0.cnts.contains 5 = true ∧ colQ0.ctx = st.ctxAt 0 ∧
    mconfOf 0x1F1F18 TileReg.reset = some { TileReg.reset with code := 8, sat := true, rows := 32, cols := 32 } :=
  ⟨serves0 rfl rfl rfl, by decide⟩

def copy0 (rows n : Nat) (x : Bool) : CopyCmd :=
  { id := 9, op := .chl, tid := 0, unit := uid, ply := 3, addr := 0x10000, a := 0, b := 0
    shape := { rows := rows, rowb := 0x10000, dpitch := 0, spitch := 0 }, index := none, counter := none, rnd := .rne, started := n ≠ 0
    cap := [], next := n, cur := none, aside := [], apart := [], resume := [], denied := [], page := .none, flags := 3, disc := true, xaflt := x, xpden := false
    cref := false, leave := Leave.reset }

def copying (q : CopyCmd) : State := tiled.modCore 0 fun c => { c with cpy := [q] }

def point0 (a b : Word) : QrnCmd :=
  { op := .qpt, tid := 0, ply := 3, addr := 8, a := a, b := b, gray := false, stream := 1, rnd := .rup, seq := 0 }

/-- CopyAndPointCommandsArePerformed: a command of 1 MiB and one past it; one that has written everything, with a fault and
without; the last dimension; an index past 48 bits. -/
theorem witness_copies : (copy0 16 0 false).moved ≤ 2 ^ 20 ∧ 2 ^ 20 < (copy0 17 0 false).moved ∧ (copy0 16 0 false).unit = unit0.id ∧
    tget ((copying (copy0 16 0 false)).core 0).threads 0 = some tiled.cur ∧
    (((copying (copy0 17 0 false)).core 0).engineLeave 2).held = false ∧ (st.die (dieOf 0)).waiting = [] ∧
    (copy0 1 0x100000000 true).started = true ∧ (copy0 1 0x100000000 true).op.indexed = false ∧
    (copy0 1 0x100000000 true).total 0 ≤ (copy0 1 0x100000000 true).next ∧
    (((copying (copy0 1 0x100000000 true)).launch? unit0.id.lnum).map (·.cancelled)).getD false = false ∧ thread0.late.length < 4 ∧
    (st.core 0).evicted = [] ∧ (point0 1 63).b.toNat < 64 ∧ (point0 0xFFFFFFFFFFFF 0).a.toNat < 2 ^ 48 ∧
    2 ^ 48 ≤ (point0 0x1000000000000 0).a.toNat :=
  by decide

/-! ## Bus and collective events -/

def busOp0 : BusOp :=
  { busOpOf st false with
    forms := 2 ^ 42, geom := 0x10001E, leave := { held := true, wanted := true, idle := 0 }, flags := 0x20, since := 5
    lease := { Lease.none with own := 2 }
    started := true }

def onBus (o : BusOp) (st : Nat) (asking : Bool) : Handle := { hnd with ops := [o], st := st, asking := asking, rank := 0, nm1 := 1 }

/-- One handle with one operation on segment `g`; the root has `cells` cells. -/
def busing (b : Handle) (g : Seg) (p : Port) (cells : Nat) : State :=
  { busState [(1, b)] 0 0 with segs := [(5, g)], ports := [(2, p)], ctxs := [(0, { root0 with cells := cells })] }

theorem one_handle (b : Handle) (g : Seg) (p : Port) (n : Nat) (h : b.unit = uid) (d : b.dom = false) :
    OneHandle (busing b g p n) 0 1 ((busing b g p n).core 0) unit0 b := ⟨rfl, rfl, rfl, rfl, rfl, by decide, h, d⟩

/-- The bits that `n` members see on the wired-or planes of a chunk of INT8 zeros, with no member's guard raised. -/
def counts0 (n : Nat) : List (List Nat) := [List.replicate 32 n] ++ List.replicate 9 (List.replicate 32 0)

/-- BusEventsActOnTheirSegment: a join of a new group, of another partition's, of a rank that is taken; a port that is down; a
lease with cells and with none; a chunk that passes its checks and one that does not; replies that accept, that reject for the
first time and for the third; both sides of the limit of 10^9 ns. -/
theorem witness_bus_events (b : Handle) (o : BusOp) (hb : b = onBus o 2 false) (ho : o = busOp0) :
    OneHandle (busing b seg0 port0 1) 0 1 ((busing b seg0 port0 1).core 0) unit0 b ∧
    tget (busing b seg0 port0 1).segs 5 = some seg0 ∧
    tget seg0.groups 77 = none ∧ 15 ≤ ({ hnd with rank := 15, nm1 := 15 } : Handle).nm1 ∧
    tget seg0.groups 9 = some { part := 0, n := 2, ranks := [0, 1] } ∧
    (busing b { seg0 with down := true } port0 1).busDown b = true ∧ (busing b seg0 port0 1).busDown b = false ∧
    (busing b seg0 port0 1).groupWhole b = true ∧ o.asks = 1 ∧
    min o.asks ((busing b seg0 port0 0).freeCells 5 0) = 0 ∧ min o.asks ((busing b seg0 port0 1).freeCells 5 0) = 1 ∧
    0 < (busing b seg0 port0 0).openCells 5 ∧ 0 < (busing b seg0 port0 0).lentCells 5 0 ∧ 0 < (busing b seg0 port0 0).poolCells 5 ∧
    (busing b seg0 port0 1).frameOpen { h := 0, u := uid, n := 1 } b o = true ∧ o.total = 1 ∧
    replyAccepts [0, 2, 0, 0] 2 = true ∧ replyAccepts [0, 1, 0, 0] 2 = false := by
  subst hb ho
  exact ⟨one_handle _ _ _ _ rfl rfl, by decide +kernel⟩

theorem witness_bus_chunks :
    (∃ p v, (busing (onBus busOp0 2 false) seg0 port0 1).receiveOne (onBus busOp0 2 false) busOp0 0 [counts0 2] = ([p], v) ∧
      p.ok = true) ∧
    (∃ p v, (busing (onBus busOp0 2 false) seg0 port0 1).receiveOne (onBus busOp0 2 false) busOp0 0 [counts0 1] = ([p], v) ∧
      p.ok = false) ∧
    busOp0.since + 1600000000 ≤ ({ st with cycle := 1600000005 } : State).now ∧
    ({ st with cycle := 1600000004 } : State).now < busOp0.since + 1600000000 ∧ tget (busing hnd seg0 port0 1).ports 2 = some port0 ∧
    port0.seg = 5 ∧ port0.en = true ∧ ((busing hnd seg0 port0 1).die (2 / 4)).gated = false ∧ seg0.groups.length < 256 := by
  refine ⟨⟨_, _, rfl, by decide +kernel⟩, ⟨_, _, rfl, by decide +kernel⟩, by decide, by decide, rfl, rfl, rfl, by decide, by decide⟩

def barring : ColOp := { colOp0 with seq := 263, running := true, desc := 4 :: List.replicate 7 0, started := 5 }

/-- The queue of a member of a BARRIER: the only member, a leaf, or a root with one child. -/
def barQueue (root : Bool) (parent : Nat) (children : List Nat) (o : ColOp) : ColQ :=
  { colQ0 with root := root, parent := parent, children := children, ops := [o] }

def barColl (k : ColQ) (held : Bool) (msgs : List Msg) (now : Word) : State :=
  { st with
    dies := [(0, { Die.reset with col :=
      { Die.reset.col with queues := [(9, k)], leave := [(511, { Leave.reset with held := held })] } }),
      (1, { Die.reset with col := { Die.reset.col with queues := [(0, colQ0)] } })]
    msgs := msgs, cycle := now }

theorem one_collective (k : ColQ) (o : ColOp) (held : Bool) (ms : List Msg) (n : Word) (h1 : k.ops = [o]) (h2 : o.running = true)
    (h3 : 1 ≤ k.w) (h4 : k.ended.length < 16) (h5 : k.ctx = 0) : OneCollective (barColl k held ms n) 0 9 k o :=
  ⟨rfl, h1, h2, by rw [h5]; rfl, h3, h4⟩

/-- A packet of the BARRIER: hop code, and the node that it goes to next. -/
def barPacket (hop node : Nat) : ColPacket :=
  { word0 := BitVec.ofNat 64 (77 + 7 * 2 ^ 40 + 2 ^ 48 + 4 * 2 ^ 52), word1 := BitVec.ofNat 64 (node + hop * 2 ^ 13)
    payload := [], exps := [], raw := [] }

def ownPart : Partial := { chunk := 0, sums := [], exps := [], raw := [], kids := 0, own := true, final := false }

/-- CollectiveEventsCombineAndDeliver: the root of a communicator of one, a leaf whose parent has its queue open, a root with one
child below the last node;
a partial and an abort that arrive, a packet to forward to the last node; both sides of COLTMO. -/
theorem witness_collective_events :
    OneCollective (barColl (barQueue true 0 [] barring) true [] 0) 0 9 (barQueue true 0 [] barring) barring ∧
    OneCollective (barColl (barQueue false 1 [] barring) false [] 0) 0 9 (barQueue false 1 [] barring) barring ∧
    (barQueue true 0 [] barring).hops.all ((barColl (barQueue true 0 [] barring) true [] 0).credit 0 (barQueue true 0 [] barring)) = true ∧
    (barQueue false 1 [] barring).hops.all ((barColl (barQueue false 1 [] barring) false [] 0).credit 0 (barQueue false 1 [] barring)) = true ∧
    1 / 16 = st.mp.modnum ∧
    FreshBarrier barring ∧ ((barColl (barQueue true 0 [] barring) true [] 0).die 0).col.cur = none ∧
    (barQueue true 0 [] barring).vf < 512 ∧ 1 ≤ (st.vfOf 511).weight ∧ (barQueue true 0 [] barring).comm < 2 ^ 16 ∧ 8191 < 2 ^ 13 ∧
    st.nodeId 0 = 0 ∧ Pk.hop (barPacket 1 8191) = 1 ∧ Pk.node (barPacket 1 8191) = 8191 ∧
    (∀ hop ∈ [2, 5], Pk.hop (barPacket hop 0) = hop ∧ Pk.comm (barPacket hop 0) = 77 ∧
      Pk.seq (barPacket hop 0) = barring.seq % 256 ∧ Pk.op (barPacket hop 0) = 4 ∧ Pk.chunk (barPacket hop 0) = 0) ∧
    OneCollective (barColl (barQueue true 0 [8191] { barring with partials := [ownPart] }) true [.col 8191 0 (barPacket 2 0)] 0) 0 9
      (barQueue true 0 [8191] { barring with partials := [ownPart] }) { barring with partials := [ownPart] } ∧
    barring.started + (barQueue true 0 [] barring).tmo * 1600 ≤ (barColl (barQueue true 0 [] barring) true [] 1600005).now ∧
    (barColl (barQueue true 0 [] barring) true [] 1600004).now < barring.started + (barQueue true 0 [] barring).tmo * 1600 := by
  refine ⟨one_collective _ _ _ _ _ rfl rfl (by decide) (by decide) rfl, one_collective _ _ _ _ _ rfl rfl (by decide) (by decide) rfl,
    by decide, by decide, by decide, ⟨by decide, by decide, by decide, by decide, rfl, rfl, rfl, rfl⟩, rfl, by decide, by decide,
    by decide, by decide, by decide,
    by decide, by decide, by decide, one_collective _ _ _ _ _ rfl rfl (by decide) (by decide) rfl, by decide, by decide⟩

/-! ## The host and the management processor -/

def vf7 : Vf := { Vf.reset with part := some 0, weight := 3, masks := [5], bound := some 0, jobimg := 0x200100, mboxgpa := 0x3FF0 }

/-- VF 7 is bound to the root, whose stage 2 maps 512 MiB to themselves. -/
def hosted (x : Vf) (y : Ctx) : State :=
  { st with mem := placedTables imgMem, ctxs := [(0, y)], vfs := [(7, x)], cores := [] }

theorem guest_ok {r : State × Guest} {u : State} {i : List (Loc × Nat × Nat)}
    (h : (match r with
      | (t, .ok j) => decide (t = u ∧ j = i)
      | _ => false) = true) : r = (u, .ok i) := by
  split at h
  · obtain ⟨rfl, rfl⟩ := of_decide_eq_true h
    rfl
  · cases h

theorem image_read {r : State × ImgRes} (h : (match r with
      | (_, .ok _) => true
      | _ => false) = true) : ∃ u i, r = (u, .ok i) := by
  split at h
  · exact ⟨_, _, rfl⟩
  · cases h

/-- The image of a job is read whole, and its launch begins. -/
theorem hosted_go : ∃ u img, (hosted vf7 rootM).beginJob 0 0 0 vf7.jobimg vf7.jobarg (some 7) = (u, .ok img) :=
  image_read (by decide +kernel)

/-- TheHostDrivesItsFunctions: a VF that is bound and one that is not; accesses at the first byte and at the end of a page,
of the message words too; contexts that are LIVE and not; a reset that may end, and one that may not. -/
theorem witness_host : (hosted vf7 rootM).vfOf 7 = vf7 ∧ ({ vf7 with bound := none } : Vf).bound = none ∧
    0 + 8 ≤ 2 ^ 36 ∧ tget (hosted vf7 rootM).ctxs 0 = some rootM ∧ rootM.st = .live ∧ rootM.job = none ∧ vf7.goWait = .none ∧
    vf7.msgWait = .none ∧ ({ rootM with st := .new } : Ctx).st ≠ .live ∧
    Idle { State.reset with vfs := [(511, vf7)] } ∧
    (∀ v, ((State.reset.vfOf v).bound = none ∧ (State.reset.vfOf v).resetting = none)) ∧
    (hosted vf7 rootM).resetOver [0] = true ∧ (launching 0 0).resetOver [0] = false ∧ (hosted vf7 rootM).mp.job = none ∧
    (hosted vf7 rootM).mp.boot = 0 :=
  ⟨rfl, rfl, by decide, rfl, rfl, rfl, rfl, rfl, by decide, ⟨rfl, rfl, rfl, rfl⟩, fun v => ⟨rfl, rfl⟩, by decide +kernel,
    by decide +kernel, rfl, rfl⟩

/-- The message word has been stored. -/
def messaged : State :=
  ((((hosted vf7 rootM).modVf 7 fun y => { y with hmsg := 5 }).guest 0 0x3FF0 8 .copyWrite).1.storeLoc 0 (.mem 0x3FF0)
    (bytesOf 8 5)).modVf 7 fun y => { y with msgStored := true }

/-- Every access of the host that succeeds also leaves a translation behind. -/
theorem witness_guest :
    (∃ u ls, (hosted vf7 rootM).guest 0 0x3000 8 .load = (u, .ok ls) ∧ u.Inv ∧ u.protectedJob 0 = false) ∧
    (∃ u, (hosted vf7 rootM).guest 0 0x3FF8 8 .store = (u, .ok [(.mem 0x3FF8, 0, 8)]) ∧ u.Inv ∧ u.protectedJob 0 = false) ∧
    (∃ u, ((hosted vf7 rootM).modVf 7 fun y => { y with hmsg := 5 }).guest 0 0x3FF0 8 .copyWrite = (u, .ok [(.mem 0x3FF0, 0, 8)]) ∧
      u.Inv) ∧
    (∃ w, messaged.guest 0 0x3FF8 8 .atomic = (w, .ok [(.mem 0x3FF8, 0, 8)]) ∧ w.Inv ∧ w.protectedJob 0 = false) ∧
    (messaged.vfOf 7).msgStored = true ∧ vf7.msgStored = false := by
  refine ⟨⟨_, _, guest_ok (i := [(.mem 0x3000, 0, 8)]) (u := ((hosted vf7 rootM).guest 0 0x3000 8 .load).1) (by decide +kernel), ?_⟩,
    ⟨((hosted vf7 rootM).guest 0 0x3FF8 8 .store).1, guest_ok (by decide +kernel), ?_⟩,
    ⟨(((hosted vf7 rootM).modVf 7 fun y => { y with hmsg := 5 }).guest 0 0x3FF0 8 .copyWrite).1, guest_ok (by decide +kernel), ?_⟩,
    ⟨(messaged.guest 0 0x3FF8 8 .atomic).1, guest_ok (by decide +kernel), ?_⟩, by decide +kernel, rfl⟩ <;>
    (unfold State.Inv; decide +kernel)

/-- The host's memory stays over BOOT, and the module's does not. -/
theorem witness_outside : (hosted vf7 rootM).Inv ∧ homeOf (spaHost + 8) = .host ∧ homeOf 0x200001 = .stack 0 := by
  refine ⟨by unfold State.Inv; decide +kernel, by decide, by decide⟩

/-- A command word: bytes from their offsets, with EGEN the largest GEN. -/
def cmdOf (l : List (Nat × Nat × Nat)) : BitVec 512 := ((4, 4, 2 ^ 32 - 1) :: l).foldl (fun c x => putBytes c x.1 x.2.1 x.2.2) 0

/-- The small state with the largest GEN, and values in the host's memory. -/
def managed (l : List (Nat × Nat × Nat)) : State :=
  { st with
    mp := { Mp.reset with gen := 0xFFFFFFFF }
    mem := l.foldl (fun m x => memWrite m (spaHost + x.1) x.2.1 x.2.2) [] }

theorem commanded {s : State} {c : BitVec 512} {used : List (Nat × Nat)} (h : s.mp = { Mp.reset with gen := 0xFFFFFFFF })
    (g : mc c 4 4 = 2 ^ 32 - 1) (p : mcBad c used = false) : Commanded s c used :=
  ⟨.inl (by rw [h]; rfl), ⟨by rw [h]; rfl, .inl (by rw [h]; rfl)⟩, by rw [h]; exact g, p⟩

def pblock0 : List (Nat × Nat × Nat) :=
  [(0x1000, 8, 0x100040003), (0x1008, 8, 777), (0x1010, 32, 2 ^ 256 - 1), (0x1060, 8, 0x1000000), (0x1068, 8, 0x100000),
   (0x1080, 8, 0x20), (0x1088, 8, 0x300 + 3 * 2 ^ 36 + 7 * 2 ^ 60)]

def pcreate0 (n : Nat) : BitVec 512 := cmdOf [(0, 1, 1), (8, 1, 47), (0x0A, 2, 4080), (0x0C, 2, n), (0x0E, 1, 3), (0x10, 8, 0x1000)]

/-- PCREATE of the last partition over the last interval, with both bits of PDET and one extent. -/
theorem witness_pcreate : Commanded (managed pblock0) (pcreate0 16) [(8, 1), (0x0A, 2), (0x0C, 2), (0x0E, 1), (0x10, 8)] ∧
    mc (pcreate0 16) 8 1 = 47 ∧ mc (pcreate0 16) 0x0A 2 + mc (pcreate0 16) 0x0C 2 = 4096 ∧ mc (pcreate0 16) 0x0E 1 = 3 ∧
    Buffer 0x1000 ∧ ((managed pblock0).pblock 0x1000).bad = false ∧ (managed pblock0).parts.length < 48 ∧
    48 ≤ (List.replicate 48 ((47 : Nat), part0)).length ∧ tget (managed pblock0).parts 47 = none ∧
    (managed pblock0).intervalUsed 4080 16 = false ∧
    (managed pblock0).blockUsed ((managed pblock0).pblock 0x1000) = false ∧
    extentsClash ((managed pblock0).pblock 0x1000).exts = false ∧ tfree (managed pblock0).ctxs 0 4096 = some 1 ∧
    ((managed pblock0).makePart 47 1 4080 16 3 ((managed pblock0).pblock 0x1000)).isSome = true ∧
    Commanded (managed []) (pcreate0 15) [(8, 1), (0x0A, 2), (0x0C, 2), (0x0E, 1), (0x10, 8)] ∧ mc (pcreate0 15) 0x0C 2 < 16 :=
  ⟨commanded rfl (by decide +kernel) (by decide +kernel), by decide +kernel, by decide +kernel, by decide +kernel,
    ⟨by decide, by decide⟩, by decide +kernel, by decide, by decide, rfl, by decide +kernel, by decide +kernel, by decide +kernel, by decide +kernel,
    by decide +kernel, commanded rfl (by decide +kernel) (by decide +kernel), by decide +kernel⟩

/-- PartitionCommandsAct, the layout of one partition: 16 cores at the end, and 15; MODNUM at the last number and past it. -/
theorem witness_layouts : Commanded { managed [] with parts := [] } (cmdOf [(8, 2, 431)]) [(8, 2)] ∧
    mc (cmdOf [(8, 2, 431)]) 8 2 < 432 ∧ 432 ≤ mc (cmdOf [(8, 2, 432)]) 8 2 ∧ st.parts ≠ [] ∧
    (∀ n ∈ [15, 16], Commanded { managed [(0x2000, 8, 4080 * 2 ^ 16 + n * 2 ^ 32)] with ctxs := [] }
        (cmdOf [(0, 1, 3), (8, 8, 1), (0x10, 8, 0x2000)]) [(8, 8), (0x10, 8)] ∧
      layoutOf (memRead (managed [(0x2000, 8, 4080 * 2 ^ 16 + n * 2 ^ 32)]).mem (spaHost + 0x2000) 8) = some (0, 4080, n)) ∧
    mc (cmdOf [(0, 1, 3), (8, 8, 1), (0x10, 8, 0x2000)]) 8 8 = 1 ∧ Buffer 0x2000 ∧ tget st.parts 0 = some part0 ∧
    part0.partner = none ∧ part0.out = false ∧ st.layoutClash [(0, 4080, 16)] 0 4080 16 = false ∧
    Commanded (managed []) (cmdOf [(0, 1, 4)]) [] ∧ tget st.ctxs part0.root = some root0 ∧
    Leaf { st with ctxs := [(0, root0)] } 0 ∧ NoTables st root0 ∧ root0.vf = none ∧ root0.graphs = [] ∧ root0.job = none ∧
    tget st.parts 3 = none := by
  refine ⟨commanded rfl (by decide +kernel) (by decide +kernel), by decide +kernel, by decide +kernel, by decide, ?_,
    by decide +kernel, ⟨by decide, by decide⟩, rfl, rfl, rfl, by decide, commanded rfl (by decide +kernel) (by decide +kernel), rfl,
    ⟨by decide, by decide⟩, by unfold NoTables; decide, rfl, rfl, rfl, rfl⟩
  intro n hn
  simp only [List.mem_cons, List.not_mem_nil, or_false] at hn
  rcases hn with rfl | rfl <;> exact ⟨commanded rfl (by decide +kernel) (by decide +kernel), by decide +kernel⟩

def vfassign0 (p : Nat) : BitVec 512 := cmdOf [(0, 1, 6), (8, 2, 511), (0x0C, 1, p), (0x0D, 1, 255)]

def slice0 (t0 : Nat) : BitVec 512 := cmdOf [(0, 1, 7), (9, 1, 2), (0x0C, 4, 100), (0x10, 4, 200), (0x18, 8, t0)]

/-- Two partitions of one interval at cycle 10. -/
def paired : State := { managed [] with parts := [(0, part0), (2, part0)], cycle := 10 }

/-- PartitionCommandsAct, functions and slices: the last VF, unassigned and bound; a reset of it and one past it; T0 at the
least cycle, and one cycle before it. -/
theorem witness_functions : (∀ p ∈ [0, 0xFF], Commanded (managed []) (vfassign0 p) [(8, 2), (0x0A, 2), (0x0C, 1), (0x0D, 1)] ∧
      mc (vfassign0 p) 8 2 = 511 ∧ mc (vfassign0 p) 0x0A 2 = 0 ∧ mc (vfassign0 p) 0x0C 1 = p ∧ mc (vfassign0 p) 0x0D 1 = 255) ∧
    (st.vfOf 511).resetting = none ∧ (st.vfOf 511).bound = none ∧ (st.vfOf 511).part = none ∧
    vf7.bound.isSome = true ∧ Commanded { State.reset with mp := (managed []).mp } (cmdOf [(0, 1, 0x10), (8, 2, 511)]) [(8, 2)] ∧
    mc (cmdOf [(0, 1, 0x10), (8, 2, 511)]) 0 1 = 0x10 ∧ mc (cmdOf [(0, 1, 0x10), (8, 2, 512)]) 8 2 = 512 ∧
    Idle { State.reset with mp := (managed []).mp } ∧
    Commanded paired (slice0 4106) [(8, 1), (9, 1), (0x0C, 4), (0x10, 4), (0x18, 8)] ∧ paired.now + 4096 ≤ mc (slice0 4106) 0x18 8 ∧
    mc (slice0 4105) 0x18 8 < paired.now + 4096 ∧ mc (slice0 4106) 8 1 = 0 ∧ mc (slice0 4106) 9 1 = 2 ∧
    tget paired.parts 2 = some part0 ∧ paired.mp.slices = [] := by
  refine ⟨?_, rfl, rfl, rfl, rfl, commanded rfl (by decide +kernel) (by decide +kernel), by decide +kernel, by decide +kernel,
    ⟨rfl, rfl, rfl, rfl⟩, commanded rfl (by decide +kernel) (by decide +kernel), by decide +kernel, by decide +kernel,
    by decide +kernel, by decide +kernel, rfl, rfl⟩
  intro p hp
  simp only [List.mem_cons, List.not_mem_nil, or_false] at hp
  rcases hp with rfl | rfl <;>
    exact ⟨commanded rfl (by decide +kernel) (by decide +kernel), by decide +kernel, by decide +kernel, by decide +kernel,
      by decide +kernel⟩

/-- ManagementCommandsAreAcceptedInOrder: GEN at its largest and an EGEN that is stale; recovery; a command under way. -/
theorem witness_acceptance : ({ Mp.reset with boot := 1 } : Mp).boot ≠ 0 ∧
    ({ Mp.reset with job := some (15, 0) } : Mp).job.isSome = true ∧ mc (cmdOf []) 4 4 = (managed []).mp.gen.toNat ∧
    mc (0 : BitVec 512) 4 4 ≠ (managed []).mp.gen.toNat ∧ (managed []).mp.job = none ∧ (managed []).mp.boot = 0 :=
  ⟨by decide, rfl, by decide +kernel, by decide +kernel, rfl, rfl⟩

def ply0 : PlyEntry := { ply := 0xFFFFFFFF, addr := 0xFFFFFFFFFFFFFFFC, word := 0xFFFFFFFF }

/-- A thread of the last core with its last helper number, halted or not. -/
def debugged (halted : Bool) : State :=
  { managed [] with cores := [(4095, { core0 with threads := [(10, { thread0 with halted := halted, ring := [ply0] })] })] }

def debug0 (sel : Nat) : BitVec 512 :=
  cmdOf [(0, 1, 9), (8, 1, 3), (0x0A, 2, 4095), (0x0C, 1, 10), (0x0E, 1, 1), (0x10, 8, sel), (0x18, 8, 0x40)]

theorem debugs0 (halted : Bool) (sel : Nat) (h : sel = 31 ∨ sel = 64) :
    Debugs (debugged halted) (debug0 sel) 4095 10 { core0 with threads := [(10, { thread0 with halted := halted, ring := [ply0] })] }
      { thread0 with halted := halted, ring := [ply0] } := by
  rcases h with rfl | rfl <;>
    exact ⟨commanded rfl (by decide +kernel) (by decide +kernel), by decide +kernel, by decide, rfl, rfl, rfl, rfl⟩

def ports0 : List (Nat × Nat × Nat) := [(0x108, 56, 2 ^ 432 - 1), (0x338, 8, 0xFFFF + 15 * 2 ^ 16 + 2 * 2 ^ 20 + 2 ^ 22)]

def domain0 : BitVec 512 := cmdOf [(0, 1, 12), (8, 8, 0x100)]

/-- ModuleAndDebugCommandsAct: dies, ways and caps at and past their limits; a thread to debug and its last general register;
buffers of the least size and one byte less; a map of all modules with the last port; the last group of GROUPTAB. -/
theorem witness_module_commands : (managed []).Inv ∧
    (mc (cmdOf [(8, 1, 15), (0x0A, 2, 1024)]) 8 1 < 16 ∧ mc (cmdOf [(8, 1, 15), (0x0A, 2, 1024)]) 0x0A 2 ≤ 1024) ∧
    16 ≤ mc (cmdOf [(8, 1, 16)]) 8 1 ∧ 1024 < mc (cmdOf [(0x0A, 2, 1025)]) 0x0A 2 ∧ mc (debug0 31) 0x10 8 = (31 : Reg).val ∧
    mc (debug0 64) 0x10 8 = 64 ∧ Buffer 0x40 ∧
    Commanded { managed [] with parts := [] } (cmdOf [(8, 32, 2 ^ 256 - 1), (0x28, 8, 0x40), (0x30, 8, 2 ^ 15)])
      [(8, 32), (0x28, 8), (0x30, 8)] ∧
    mc (cmdOf [(8, 32, 2 ^ 256 - 1), (0x28, 8, 0x40), (0x30, 8, 2 ^ 15)]) 0x30 8 = 2 ^ 15 ∧
    mc (cmdOf [(0x30, 8, 63)]) 0x30 8 < 64 ∧ (managed []).summaryBytes.length = 168 ∧
    mcBad (cmdOf [(0x10, 8, 168)]) [(8, 8), (0x10, 8)] = false ∧ mc (cmdOf [(0x10, 8, 168)]) 0x10 8 = 168 ∧
    mc (cmdOf [(0x10, 8, 167)]) 0x10 8 < 168 ∧ Commanded (managed ports0) domain0 [(8, 8)] ∧
    (∀ flags ∈ [1, 2], memRead (managed ((0x100, 8, flags) :: ports0)).mem (spaHost + 0x100) 8 = flags ∧
      memRead (managed ((0x100, 8, flags) :: ports0)).mem (spaHost + 0x100 + 8) 56 < 2 ^ 432) ∧
    (∀ p < 64, memRead (managed ports0).mem (spaHost + 0x100 + 0x40 + 8 * p) 8 / 2 ^ 20 % 4 ≠ 3 ∧
      memRead (managed ports0).mem (spaHost + 0x100 + 0x40 + 8 * p) 8 < 2 ^ 23) ∧
    Commanded (managed [(0x100, 8, 255)]) (cmdOf [(8, 8, 0x100), (0x10, 8, 1)]) [(8, 8), (0x10, 8)] ∧
    memRead (managed [(0x100, 8, 255)]).mem (spaHost + 0x100) 8 = 255 ∧ (managed []).groupBound 255 = false ∧
    (busState [(1, { hnd with dom := true, gid := 255 })] 0 0).groupBound 255 = true := by
  refine ⟨by unfold State.Inv; decide, by decide +kernel, by decide +kernel, by decide +kernel, by decide +kernel,
    by decide +kernel, ⟨by decide, by decide⟩, commanded rfl (by decide +kernel) (by decide +kernel), by decide +kernel,
    by decide +kernel, by decide +kernel, by decide +kernel, by decide +kernel, by decide +kernel,
    commanded rfl (by decide +kernel) (by decide +kernel), by decide +kernel, by decide +kernel,
    commanded rfl (by decide +kernel) (by decide +kernel), by decide +kernel, by decide, by decide⟩

/-! ## More of the statements: tables, withdrawals, deliveries, vector results, rows, copies and points -/

/-- DivisionResults, packed: an element of the divisor that is 0, and none. -/
theorem witness_packed_division : (∃ i < 64 / 16, laneVal false 16 ((withG 6 0x00010001).g 6) i = 0) ∧
    ∀ i < 64 / 16, laneVal false 16 ((withG 6 0x0001000100010001).g 6) i ≠ 0 :=
  ⟨⟨2, by decide⟩, by decide⟩

/-- The unit of the small state has a launch; helper 1 is assigned, and it has claimed bank 95 alone. -/
def reading : State :=
  { withUnit (fun r => { r with assigned := [1], bankMask := 0x800000000000000000000000 }) with launches := [(0, launch0)] }

/-- SrrReadsThreadAndIdentityRegisters: the last bank, which is claimed, and the first, which is not; a way register of the
default tenant. -/
theorem witness_srr : (reading.core reading.curCore).unit.isSome = true ∧ reading.inflight = [] ∧ Quiet reading ∧
    tget reading.launches unit0.id.lnum = some launch0 ∧ (0x45F : BitVec 12).toNat = 0x400 + 95 ∧
    (reading.core reading.curCore).claimed 95 = true ∧ (reading.core reading.curCore).claimed 0 = false ∧
    ({ (reading.core 0).regs with wayDef := true } : CoreRegs).wayDef = true :=
  ⟨rfl, rfl, quiet rfl rfl, by decide⟩

/-- WaitmYieldAndYieldu on a service core: the last doubleword of its mailbox. -/
theorem witness_waitm_service : Quiet (serving.setG 5 0x1FFFF8) ∧ isService (serving.setG 5 0x1FFFF8).curCore = true ∧
    ((serving.setG 5 0x1FFFF8).g 5).toNat % 8 = 0 ∧ ((serving.setG 5 0x1FFFF8).g 5).toNat < 0x200000 :=
  ⟨quiet rfl rfl, by decide⟩

/-- A unit that was evicted from core 0, and core 0 with the quasi-random tables of `o`. -/
def away : Evicted :=
  { res := { unit0 with id := { uid with index := 1 } }, threads := [], regs := CoreRegs.reset, tags := [], tiles := []
    vec := VecUnit.reset, mat := none, sync := SyncUnit.reset, qrn := none, bus := [], banks := [], order := 0 }

def tabled (o : Option UnitId) (ev : List Evicted) : State :=
  withCore fun c => { c with evicted := ev, qrn := { c.qrn with owner := o } }

/-- CopyAndPointCommandsEnterTheirQueues: the tables are nobody's, and an evicted unit's. -/
theorem witness_point_tables : Accepting (tabled none []) ∧ ((tabled none []).core 0).qrn.owner ≠ some (st.unitId 0) ∧
    ((tabled none []).core 0).qrn.queue = [] ∧ Accepting (tabled (some away.res.id) [away]) ∧
    ((tabled (some away.res.id) [away]).core 0).qrn.owner = some away.res.id ∧
    ((tabled (some away.res.id) [away]).core 0).qrn.queue = [] ∧ away.res.id ≠ st.unitId 0 :=
  ⟨accepting rfl rfl rfl, by decide, rfl, accepting rfl rfl rfl, by decide, rfl, by decide⟩

/-- A child with one page, below tables that hold another entry beside the page's own. -/
def child1 : Ctx := { child0 with extents := [{ cpage := 16, npages := 1, ppage := 256, r := true, w := true, x := false }] }

def composed : State :=
  family child1 (memWrite (memWrite (memWrite (memWrite [] 0x80000 8 0x90001) 0x90000 8 0xA0001) 0xA0080 8 0x101001F) 0xA0088 8
    0x102001F) 0x10001 0

/-- ContextsAreMadeEnteredAndDeleted, a withdrawal of one page: its entry and another one in the last table. -/
theorem witness_withdrawal : Accepting composed ∧ Child composed 1 rootM child1 ∧ Leaf composed 1 ∧
    (composed.g 5).toNat % 2 ^ 12 = 1 ∧ (composed.g 5).toNat / 2 ^ 12 = 16 ∧ (composed.g 6).toNat = 0 ∧
    child1.extents.find? (fun z => z.holds 16 1) = child1.extents.head? ∧
    child1.extents.find? (fun z => z.cpage == 16) = child1.extents.head? ∧ child1.ttb2 % 0x10000 = 0 ∧
    composed.entry child1.ttb2 0 = 0x90001 ∧ composed.entry (entryAddr 0x90001) 0 = 0xA0001 ∧
    entryAddr 0x90001 = 0x90000 ∧ entryAddr 0xA0001 = 0xA0000 ∧ memGet composed.mem 0x90000 ≠ 0 ∧
    memGet composed.mem 0xA0088 ≠ 0 ∧ 0xA0000 + 8 * 16 + 8 ≤ 0xA0088 :=
  ⟨accepting rfl rfl rfl, child_of (by decide) rfl (by decide), ⟨by decide, by decide⟩, by decide +kernel⟩

/-- A new child that fetches its image through translations that the buffers hold. -/
def entering : State :=
  let s : State := { family fresh1 imgMem 1 0x200100 with cores := [(0, { core0 with dtlb := [rwx 1], itlb := [rwx 1] })] }
  (s.setG 5 1).setG 6 0x200100

/-- What the command reads its image in. -/
def entered : State := (entering.accepted Un.vir).enterCtx 1

def jobbing : State :=
  ((entered.readImage 0 0 1 0x200100).1.accept (jobDesc 0x200100 0) img1
    { ctx := 1, site := 0, h := 0, tid := 0, add := 0, graph := none, heldBy := none, isJob := true }).1.startJob 1 0x200100 0
    img1.prio none ((entered.readImage 0 0 1 0x200100).1.nextId + 1)

/-- ContextsAreMadeEnteredAndDeleted, CTXENTER of an image that is read whole. -/
theorem witness_ctxenter : Accepting entering ∧ Child entering 1 rootM fresh1 ∧ (entering.g 5).toNat = 1 ∧
    entering.areasClash 1 15 2 = false ∧ (entering.core entering.curCore).unit.isSome = true ∧
    entering.launchRoom 1 = true ∧ entering.curCore = 0 ∧ entering.curTid = 0 ∧ entering.g 6 = 0x200100 ∧
    entered.readImage 0 0 1 0x200100 = ((entered.readImage 0 0 1 0x200100).1, .ok img1) ∧
    (entered.readImage 0 0 1 0x200100).1.freeLnum = some 0 ∧
    tget (entered.readImage 0 0 1 0x200100).1.launches 0 = none ∧
    ((entered.readImage 0 0 1 0x200100).1.core 0).unit = (entered.core 0).unit ∧
    (entered.readImage 0 0 1 0x200100).1.cur = entered.cur ∧ Settled jobbing := by
  refine ⟨accepting rfl rfl rfl, ⟨rfl, rfl, Nat.one_ne_zero, by decide, rfl, by decide, by decide⟩, by decide, by decide, rfl,
    by decide, rfl, rfl, by decide, image_ok (by decide +kernel), by decide +kernel, by decide +kernel, by decide +kernel, by decide +kernel, ?_⟩
  unfold Settled
  decide +kernel

/-- Unit 1 of the launch runs provisionally on core 1, with a trap record that is held back. -/
def guessed : Resident := { unit0 with id := { uid with index := 1 }, prov := true }

def squashing : State :=
  { launching 1 0 with
    launches := [(0, { launch0 with units := [(0, .resident 0), (1, .resident 1)] })]
    cores := [(0, (launching 1 0).core 0), (1, { core0 with unit := some guessed, tiles := [(0, tile0)] })]
    posts := [{ post0 with copies := [], unit := some guessed.id, due := true }] }

/-- GraphEngineCommandsActOnTheirObjects, CANCEL of a resident provisional unit. -/
theorem witness_squash : Accepting squashing ∧ Served squashing ∧ squashing.provisional 0 = false ∧
    (squashing.g 5).toNat = 1 + 0 * 2 ^ 32 ∧
    tget squashing.launches 0 = some { launch0 with units := [(0, .resident 0), (1, .resident 1)] } ∧ launch0.heldBy = none ∧
    (squashing.core 1).unit = some guessed ∧ guessed.id = { ctx := squashing.curCtx, lnum := 0, index := 1 } ∧
    guessed.prov = true ∧ squashing.inflight = [] ∧ Settled (squashing.cancelUnit 0 1) := by
  refine ⟨accepting rfl rfl rfl, served rfl rfl rfl, by decide, by decide, rfl, rfl, rfl, by decide, rfl, rfl, ?_⟩
  unfold Settled
  decide +kernel

/-- What the command does to the unit, its tiles and its held record. -/
theorem test_squash : (match exec (.cancel 5 0 .unit) squashing with
    | .next t => (t.core 1).unit.isNone && (t.core 1).tiles.isEmpty && t.posts.all (fun p => !p.copies.isEmpty) &&
        decide (t.cur.u.gfstat = 0) && ((tget t.launches 0).map (fun z => decide (tget z.units 1 = some .cancelled))).getD false
    | _ => false) = true := by decide +kernel

/-- A thread with an open handler and one late fault, of the last cause. -/
def faulting : State := (handled 0 1).modCur fun t => { t with late := [{ late0 with code := 0x2C }] }

/-- LateFaultsAndTheWatchdog: a fault that is delivered; WaitsEndAtTheirConditions: a thread that does not go on past it. -/
theorem witness_delivery : Live faulting 0 0 (faulting.core 0) (faulting.thread 0 0) ∧
    (faulting.thread 0 0).late = [{ late0 with code := 0x2C }] ∧ (faulting.thread 0 0).wait = .none ∧
    (faulting.thread 0 0).refused = [] ∧ faulting.inflight = [] ∧ (faulting.thread 0 0).t.tvec.getLsbD 0 = true ∧
    (faulting.thread 0 0).t.inh = false ∧ (0x20 ≤ 0x2C ∧ 0x2D > 0x2C ∧ 0x1F < 0x20) :=
  ⟨live0 rfl rfl rfl rfl rfl, rfl, rfl, rfl, rfl, by decide⟩

/-- WaitsEndAtTheirConditions: a page request answered by RETRY, and by DENY to a thread with an open handler. -/
def answered (deny : Bool) : State := (handled 0 1).modCur fun t => { t with wait := .page (.replied deny) 0x200000 2 }

theorem witness_answered (deny : Bool) (hd : deny = true ∨ deny = false) :
    Live (answered deny) 0 0 ((answered deny).core 0) ((answered deny).thread 0 0) ∧
    ((answered deny).thread 0 0).late = [] ∧ ((answered deny).thread 0 0).wait = .page (.replied deny) 0x200000 2 ∧ 2 < 3 ∧
    ((answered deny).thread 0 0).t.tvec.getLsbD 0 = true ∧ ((answered deny).thread 0 0).t.inh = false := by
  rcases hd with rfl | rfl <;> exact ⟨live0 rfl rfl rfl rfl rfl, by decide⟩

/-- A trap record whose thread's unit is that of a launch. -/
def ending0 : State := { replying with posts := [post0], launches := [(0, launch0)] }

/-- RecordsArePostedAndAnswered, a reply that is not RESUME. -/
theorem witness_kill : ending0.Inv ∧ PostedAt ending0 post0 15 0x3FC0 ∧ (2 : Word).toNat % 256 ≠ 0 ∧ (2 : Word).toNat % 256 ≠ 1 ∧
    ending0.castled = [] ∧ tget ending0.launches uid.lnum = some launch0 ∧ launch0.ctx = uid.ctx ∧
    tget launch0.units uid.index = some (.resident 0) ∧ (ending0.core 0).unit = some unit0 ∧ unit0.id = uid ∧
    unit0.prov = false ∧ (ending0.core 0).evicted = [] ∧ Settled (ending0.cancelUnit uid.lnum uid.index) := by
  refine ⟨by unfold State.Inv; decide, ⟨rfl, rfl, by decide, by decide, by decide, by decide, by decide, by decide⟩, by decide,
    by decide, rfl, rfl, rfl, rfl, rfl, rfl, rfl, rfl, ?_⟩
  unfold Settled
  decide +kernel

/-- A root's page request, which the management processor answers. -/
def asking : State := { paging with posts := [{ post0 with page := true, mp := true, copies := [], waiter := .page 0 63 }] }

theorem witness_root_request : asking.posts = [{ post0 with page := true, mp := true, copies := [], waiter := .page 0 63 }] ∧
    tget asking.ctxs 0 = some { root0 with tags := [tag0] } ∧
    tget (asking.core 0).threads 0 = some { thread0 with wait := .page (.tag 0 63) 8 1 } ∧ Settled (asking.answerTag 0 63 true) := by
  refine ⟨rfl, rfl, rfl, ?_⟩
  unfold Settled
  decide +kernel

/-- The unit's tenant runs a job, in a protected phase or not. -/
def working (cken : Bool) : State :=
  { st with
    ctxs := [(0, { root0 with job := some { image := 0, arg := 0, cls := 0, graphs := [], slots := [], jobmap := none, opening := none } })]
    parts := [(0, { part0 with cken := cken })] }

/-- ErrorsAndPower: an uncorrectable error in a unit whose tenant has a job, protected and not; the event that the trip stops. -/
theorem witness_job_errors : (working true).Inv ∧ ((working true).core 0).unit = some unit0 ∧ (working true).tenantOf 0 = 512 ∧
    (working true).jobsOf 512 = [0] ∧ (working true).protectedJob 0 = true ∧ (working false).jobsOf 512 = [0] ∧
    (working false).protectedJob 0 = false ∧ offCore (.leaveGrant 15) = false ∧ st.writtenBy [] 0 = false ∧
    tget ({ st with clusterTlb := [(0, [rwx 0])] } : State).clusterTlb (clusterOf 0) = some [rwx 0] ∧
    tget ({ st with nestedTlb := [(0, [rwx 0])] } : State).nestedTlb (clusterOf 0) = some [rwx 0] :=
  ⟨by unfold State.Inv; decide, rfl, by decide⟩

/-- A vector command whose operand b and addend are elements of stream 3, beside its source and destination. -/
def vecStreams (op : VecOp) : State :=
  (vecState { vecAdd with op := op, bf := 31, a := 7 }).modCore 0 fun c =>
    { c with vec := { c.vec with streams := c.vec.streams ++ [(3, stream0 0 4095 false)] } }

def vecResultOps : List VecOp :=
  [.vcvt, .vadd, .vsub, .vmul, .vfma, .vmax, .vmin, .vsel, .vscale, .vlog2, .vrcp, .vrsq, .vceq, .vclt, .vcle, .vexp2, .vdotx,
   .vrdq, .vmaxr]

/-- A destination for a whole BSI8 record at the start of bank 95. -/
def recording : State :=
  (vecState { vecAdd with op := .vqnt }).modCore 0 fun c =>
    { c with
      banks := [(0, { c.bank 0 with format := 2 }), (95, { c.bank 95 with format := 12 })]
      vec := { c.vec with streams :=
        [(1, { stream0 95 0 true with cnt := [32, 0, 0, 0], str := [1, 0, 0, 0], pos := 0 }),
         (2, { stream0 0 0 false with cnt := [32, 0, 0, 0], str := [1, 0, 0, 0], pos := 0 })] } }

def quantising : State := recording.modCur fun t => { t with u := { t.u with vlen := 32 } }

/-- VectorResultsAreEncodedOnce: a command of every operation passes its checks; selectors of VRDQ that name a format and
none; a whole record. -/
theorem witness_vector_results :
    (∀ op ∈ vecResultOps, (vecStreams op).vecFault 0 { vecAdd with op := op, bf := 31, a := 7 } = none) ∧
    (vecStreams .vadd).Inv ∧ isService 0 = false ∧ (((vecStreams .vadd).core 0).bank 95).format = 1 ∧
    (stream0 95 4095 true).nb = 1 ∧ (stream0 95 4095 true).position 4 = ((4083 : Nat) : Int) ∧
    ((vecStreams .vadd).cur.u.vlen = 1 ∧ 8 < (9 : Word).toNat % 16 ∧ (selFmt ((8 : Word).toNat % 16)).isSome = true) ∧
    quantising.vecFault 0 { vecAdd with op := .vqnt } = none ∧ quantising.cur.u.vlen = recElems 12 ∧
    ((quantising.core 0).stream 1).position 0 = ((recElems 12 * 0 : Nat) : Int) := by
  unfold State.Inv
  decide +kernel

theorem same_banks {c : Core} (h : c.rename = []) (n : Nat) : c.phys n = n := by
  simp only [Core.phys, h, tget, Option.getD_none]

/-- A command that moves rows of 128 bytes between register 0, of 32 of them, and a tile over the last banks of the core, one
row every 0x1F0 bytes from byte 0x100; its progress is `n` and what it holds `cap`. -/
def rowCmd (op : MatOp) (n : Nat) (cap : List Byte) : MatCmd :=
  { matCmd op 0x800001F000010005 with a := 0, prog := n, capA := cap, flags := 0 }

def rowTile : Tile := { tile0 with vbank := 94, sbank := 0, nosh := true, shw := false }

def rowing (q : MatCmd) : State :=
  withCore fun c =>
    { c with
      tiles := [(5, rowTile)], banks := [(94, { c.bank 94 with format := 1 }), (95, { c.bank 95 with format := 1 })]
      mat := { c.mat with queue := [q], m := [(0, { TileReg.reset with code := 1, rows := 32, cols := 32 })] } }

theorem matrix_row (q : MatCmd) (r : Nat) (h : q.rc = 0 ∧ q.entry = 5) (i : r < 32) (a : Nat) (e : a = q.rowAt rowTile r)
    (l : a + 128 ≤ 0x200000) : MatrixRow (rowing q) 0 ((rowing q).core 0) q rowTile r 128 a :=
  ⟨by decide, by decide, fun k hk => by rw [same_banks rfl]; exact hk,
    fun i _ j _ e => by rwa [same_banks rfl, same_banks rfl] at e, by rw [h.2]; rfl, by rw [h.1]; exact i, by decide, l, e⟩

/-- MatrixCommandsAreTaken, rows: the first and the last row of a register, and of what MST and MRD hold. -/
theorem witness_matrix_rows :
    MatrixRow (rowing (rowCmd .mld 0 [])) 0 ((rowing (rowCmd .mld 0 [])).core 0) (rowCmd .mld 0 []) rowTile 0 128 0x178100 ∧
    MatrixRow (rowing (rowCmd .mst 31 (List.replicate 4096 7))) 0 ((rowing (rowCmd .mst 31 (List.replicate 4096 7))).core 0)
      (rowCmd .mst 31 (List.replicate 4096 7)) rowTile 31 128 0x17BD10 ∧
    MatrixRow (rowing (rowCmd .mrd 32 (List.replicate 4096 7))) 0 ((rowing (rowCmd .mrd 32 (List.replicate 4096 7))).core 0)
      (rowCmd .mrd 32 (List.replicate 4096 7)) rowTile 31 128 0x17BD10 ∧
    128 * (31 + 1) ≤ (List.replicate 4096 (7 : Byte)).length ∧ rowBytes 1 32 = 128 ∧
    ((rowing (rowCmd .mrd 32 [])).core 0).tileCode rowTile (rowCmd .mrd 32 []).off = 1 ∧ (rowCmd .mrd 0 []).bankForm = true ∧
    ({ rowCmd .mrd 1 [] with b := 0 } : MatCmd).bankForm = false ∧ Serves (rowing (rowCmd .mld 0 [])) 0 0
      ((rowing (rowCmd .mld 0 [])).core 0) thread0 :=
  ⟨matrix_row _ 0 ⟨rfl, rfl⟩ (by decide) _ rfl (by decide), matrix_row _ 31 ⟨rfl, rfl⟩ (by decide) _ (by decide +kernel) (by decide),
    matrix_row _ 31 ⟨rfl, rfl⟩ (by decide) _ (by decide +kernel) (by decide), by decide +kernel, by decide, by decide, by decide, by decide,
    serves0 rfl rfl rfl⟩

/-- A started copy command of one row of 16 bytes; it counts in counter 15. -/
def moveCmd (op : CopyOp) (a b : Word) (n : Nat) (cap : List Byte) : CopyCmd :=
  { copy0 1 1 false with
    op := op, a := a, b := b, next := n, cap := cap, counter := some 15, xaflt := false
    shape := { rows := 1, rowb := 16, dpitch := 0, spitch := 0 }
    index := if op.indexed then some { off := 0, entry := 2, esz := 3, count := 2 } else none }

/-- Tile 0 has bank 0, of format `f`, and tile 1 bank 4, of format `g`, first; the buffer translates page 0x20. -/
def moving (q : CopyCmd) (f g : Nat) : State :=
  withCore fun c =>
    { c with
      tiles := [(0, tile0), (1, { tile0 with vbank := 4, sbank := 6 })], cpy := [q], dtlb := [rwx 0]
      banks := [(0, { c.bank 0 with format := f }), (4, { c.bank 4 with format := g })] }

theorem copy_runs {q : CopyCmd} {f g : Nat} (u : q.unit = uid) (s : q.started = true) (d : q.isDone 0 = false)
    (p : q.page = .none) (l : q.leave.wanted = false) : CopyRuns (moving q f g) 0 ((moving q f g).core 0) q :=
  ⟨rfl, by rw [u]; rfl, rfl, rfl, s, d, by rw [p]; rfl, fun w => by rw [l] at w; cases w⟩

theorem copy_side {q : CopyCmd} {f g : Nat} {w : Word} {t : Tile} {o n a : Nat} (ht : t = tile0 ∧ formEntry w = 0 ∨
      t = { tile0 with vbank := 4, sbank := 6 } ∧ formEntry w = 1) (hi : o + n ≤ 0x4000)
    (ha : a = (if formSh 0 w then t.sbank else t.vbank) * 0x4000 + o) :
    CopySide (moving q f g) 0 ((moving q f g).core 0) uid w t o n a := by
  rcases ht with ⟨rfl, e⟩ | ⟨rfl, e⟩ <;>
    exact ⟨rfl, rfl, rfl, by decide, by decide, fun k hk => by rw [same_banks rfl]; exact hk, by decide, by rw [e]; rfl,
      fun _ => by decide, Nat.le_trans hi (by decide), by have : o % 0x4000 ≤ o := Nat.mod_le _ _; omega, ha⟩

/-- A read and a write of memory that change nothing else. -/
theorem copy_read {s : State} {q : CopyCmd} {va n : Nat} {bs : List Byte} (h : (match s.copyRead 0 q va n with
      | (t, .ok l) => decide (t = s ∧ l = bs)
      | _ => false) = true) : s.copyRead 0 q va n = (s, .ok bs) := by
  split at h
  · rename_i e
    obtain ⟨rfl, rfl⟩ := of_decide_eq_true h
    exact e
  · cases h

theorem copy_place {s : State} {q : CopyCmd} {va m : Nat} (h : (match s.copyPlace 0 q va .copyWrite with
      | (t, .ok (.mem l)) => decide (t = s ∧ l = m)
      | _ => false) = true) : s.copyPlace 0 q va .copyWrite = (s, .ok (.mem m)) := by
  split at h
  · rename_i e
    obtain ⟨rfl, rfl⟩ := of_decide_eq_true h
    exact e
  · cases h

def chl0 : CopyCmd := moveCmd .chl 0x200003 0 5 []

def clh0 : CopyCmd := moveCmd .clh 0 0x200003 5 []

def cbb0 (rowb n : Nat) : CopyCmd :=
  { moveCmd .cbb 0 1 n [] with shape := { rows := 1, rowb := rowb, dpitch := 0, spitch := 0 } }

/-- A multicast into tile 1 of its own core. -/
def cmc0 : CopyCmd := moveCmd .cmc 0 0x8400000000000001 5 (List.replicate 16 9)

/-- Indices 2 and 1 of elements of 8 bytes. -/
def indexed0 (op : CopyOp) : CopyCmd :=
  if op = .cgath then moveCmd op 0x200000 0 0 [2, 0, 0, 0, 1, 0, 0, 0] else moveCmd op 0 0x200000 0 [2, 0, 0, 0, 1, 0, 0, 0]

/-- CopyWritesMoveBytesAndCountThem: writes that end at a boundary of 8 bytes, from and to memory. -/
theorem witness_memory_copies : (moving chl0 0 0).Inv ∧ CopyRuns (moving chl0 0 0) 0 ((moving chl0 0 0).core 0) chl0 ∧
    chl0.op = .chl ∧ min (8 - 5 % 8) (16 - 5) = 3 ∧
    (moving chl0 0 0).copyRead 0 chl0 ((chl0.a.toNat + 0 * 0 + 5) % 2 ^ 64) 3 = (moving chl0 0 0, .ok [0, 0, 0]) ∧
    CopySide (moving chl0 0 0) 0 ((moving chl0 0 0).core 0) uid chl0.b tile0 5 3 5 ∧
    CopyRuns (moving clh0 0 0) 0 ((moving clh0 0 0).core 0) clh0 ∧ clh0.op = .clh ∧ formSh 0 clh0.a = false ∧
    CopySide (moving clh0 0 0) 0 ((moving clh0 0 0).core 0) uid clh0.a tile0 5 8 5 ∧
    (moving clh0 0 0).copyPlace 0 clh0 0x200008 .copyWrite = (moving clh0 0 0, .ok (.mem 0x200008)) ∧
    (moving clh0 0 0).protectedJob 0 = false ∧ 0x200008 + 8 ≤ 2 ^ 41 :=
  ⟨by unfold State.Inv; decide, copy_runs rfl rfl (by decide) rfl rfl, rfl, by decide, copy_read (by decide +kernel),
    copy_side (.inl ⟨rfl, by decide⟩) (by decide) (by decide), copy_runs rfl rfl (by decide) rfl rfl, rfl, by decide,
    copy_side (.inl ⟨rfl, by decide⟩) (by decide) (by decide), copy_place (by decide +kernel), by decide, by decide⟩

/-- RAW bytes, and one INT8 element that becomes FP32. -/
theorem witness_bank_copies : CopyRuns (moving (cbb0 16 5) 0 0) 0 ((moving (cbb0 16 5) 0 0).core 0) (cbb0 16 5) ∧
    CopySide (moving (cbb0 16 5) 0 0) 0 ((moving (cbb0 16 5) 0 0).core 0) uid (cbb0 16 5).a tile0 0 16 0 ∧
    CopySide (moving (cbb0 16 5) 0 0) 0 ((moving (cbb0 16 5) 0 0).core 0) uid (cbb0 16 5).b
      { tile0 with vbank := 4, sbank := 6 } 0 16 0x10000 ∧
    (tileFormat ((moving (cbb0 16 5) 0 0).core 0) tile0 0).1 = 0 ∧
    CopyRuns (moving (cbb0 1 0) 6 1) 0 ((moving (cbb0 1 0) 6 1).core 0) (cbb0 1 0) ∧
    (tileFormat ((moving (cbb0 1 0) 6 1).core 0) tile0 0).1 = 6 ∧
    (tileFormat ((moving (cbb0 1 0) 6 1).core 0) { tile0 with vbank := 4, sbank := 6 } 0).1 = 1 ∧
    (fmtOf 6).isSome = true ∧ fmtOf 1 = some (.flt .fp32) ∧ (cbb0 1 0).shape.rowb = elemSize 6 ∧ elemSize 1 = 4 ∧
    CopySide (moving (cbb0 1 0) 6 1) 0 ((moving (cbb0 1 0) 6 1).core 0) uid (cbb0 1 0).b
      { tile0 with vbank := 4, sbank := 6 } 0 4 0x10000 :=
  ⟨copy_runs rfl rfl (by decide) rfl rfl, copy_side (.inl ⟨rfl, by decide⟩) (by decide) (by decide),
    copy_side (.inr ⟨rfl, by decide⟩) (by decide) (by decide), by decide, copy_runs rfl rfl (by decide) rfl rfl, by decide,
    by decide, rfl, rfl, by decide, by decide, copy_side (.inr ⟨rfl, by decide⟩) (by decide) (by decide)⟩

/-- A multicast whose member is its own core; elements of 8 bytes. -/
theorem witness_indexed_copies : CopyRuns (moving cmc0 0 0) 0 ((moving cmc0 0 0).core 0) cmc0 ∧ cmc0.op = .cmc ∧
    (members 0 cmc0.b).getD 0 0 = 0 ∧ (moving cmc0 0 0).receiver 0 cmc0.unit = some uid ∧ formSh 0 cmc0.b = true ∧
    cmc0.cap.length = cmc0.shape.rowb ∧
    CopySide (moving cmc0 0 0) 0 ((moving cmc0 0 0).core 0) uid cmc0.a tile0 0 16 0 ∧
    CopySide (moving cmc0 0 0) 0 ((moving cmc0 0 0).core 0) uid cmc0.b { tile0 with vbank := 4, sbank := 6 } 0 16 0x18000 ∧
    (∀ op ∈ [CopyOp.cgath, .cscat], (indexed0 op).op = op ∧ (indexed0 op).nextElem = some (0, false) ∧
      (indexed0 op).esize = 8 ∧ (indexed0 op).elemVa 0 = 0x200010 ∧ (indexed0 op).isDone 0 = false) ∧
    CopyRuns (moving (indexed0 .cgath) 0 0) 0 ((moving (indexed0 .cgath) 0 0).core 0) (indexed0 .cgath) ∧
    (moving (indexed0 .cgath) 0 0).copyRead 0 (indexed0 .cgath) 0x200010 8 =
      (moving (indexed0 .cgath) 0 0, .ok (List.replicate 8 0)) ∧
    CopyRuns (moving (indexed0 .cscat) 0 0) 0 ((moving (indexed0 .cscat) 0 0).core 0) (indexed0 .cscat) ∧
    (moving (indexed0 .cscat) 0 0).copyPlace 0 (indexed0 .cscat) 0x200010 .copyWrite =
      (moving (indexed0 .cscat) 0 0, .ok (.mem 0x200010)) :=
  ⟨copy_runs rfl rfl (by decide) rfl rfl, rfl, by decide, by decide, by decide, by decide,
    copy_side (.inl ⟨rfl, by decide⟩) (by decide) (by decide), copy_side (.inr ⟨rfl, by decide⟩) (by decide) (by decide),
    by decide, copy_runs rfl rfl (by decide) rfl rfl, copy_read (by decide +kernel), copy_runs rfl rfl (by decide) rfl rfl,
    copy_place (by decide +kernel)⟩

/-- A point command at the head of its queue; stream 1 writes at the end of bank 95, of format `code`. -/
def pointing (q : QrnCmd) (code : Nat) : State :=
  withCore fun c =>
    { c with
      qrn := { c.qrn with owner := some uid, queue := [q] }
      vec := { c.vec with streams := [(1, stream0 95 4095 true)] }, banks := [(95, { c.bank 95 with format := code })] }

/-- The last dimension alone, from the last bytes of the banks; one point of dimension 63 in Gray order into the stream. -/
def loading (op : QrnOp) (a : Word) : QrnCmd := { point0 a 63 with op := op }

/-- CopyAndPointCommandsArePerformed: QLD and QSCR from the ends of the banks, QSEQ of one point in each format. -/
theorem witness_points : (pointing (loading .qld 0x17FE80) 0).Inv ∧
    (pointing (loading .qld 0x17FE80) 0).qrnFault 0 (loading .qld 0x17FE80) = none ∧
    (pointing (loading .qscr 0x17FFF8) 0).qrnFault 0 (loading .qscr 0x17FFF8) = none ∧
    (∀ code ∈ [0, 8, 1], (pointing { loading .qseq 1 with gray := true } code).qrnFault 0 { loading .qseq 1 with gray := true } = none ∧
      (((pointing (loading .qseq 1) code).core 0).bank 95).format = code) ∧
    (loading .qseq 1).b.toNat / 2 ^ 8 % 64 + 1 = 1 ∧ isService 0 = false ∧ (stream0 95 4095 true).nb = 1 ∧
    (stream0 95 4095 true).position 4 = ((4083 : Nat) : Int) ∧ thread0.halted = false := by
  unfold State.Inv
  decide +kernel

/-- A handle of group `gid` whose join is not decided, and a segment that another module masters. -/
def joinAsk (gid rank nm1 : Nat) (ms : Option (List Nat)) : Handle :=
  { hnd with st := 1, asking := true, gid := gid, rank := rank, nm1 := nm1, masters := ms }

def far0 : Seg := { seg0 with lowest := 0 }

/-- BusEventsActOnTheirSegment, joins: the largest rank of a new group; another partition's group; a rank that is taken and one
that is not; the request to another master and its answer. -/
theorem witness_joins : (∀ g ∈ [seg0, far0], ∀ k ∈ [joinAsk 77 15 15 none, joinAsk 9 1 1 none, joinAsk 77 1 1 (some [5])],
      (busing k g port0 1).Inv ∧ tget ((busing k g port0 1).core 0).threads k.jtid = some thread0 ∧ k.asking = true ∧ k.st = 1) ∧
    (busing (joinAsk 77 15 15 none) seg0 port0 1).masters 5 = true ∧ (joinAsk 77 15 15 none).masters = none ∧
    (15 ≤ (joinAsk 77 15 15 none).nm1 ∧ tget seg0.groups 77 = none ∧ seg0.groups.length < 256) ∧
    tget { seg0 with groups := [(9, { part := 7, n := 2, ranks := [0] })] }.groups 9 = some { part := 7, n := 2, ranks := [0] } ∧
    (∀ ranks ∈ [[0, 1], [0]], tget { seg0 with groups := [(9, { part := 0, n := 2, ranks := ranks })] }.groups 9 =
      some { part := 0, n := 2, ranks := ranks }) ∧
    (busing (joinAsk 77 1 1 none) far0 port0 1).masters 5 = false ∧ (joinAsk 77 1 1 (some [5])).masters = some [5] ∧
    ((busing (joinAsk 9 1 1 none) seg0 port0 1).ctx unit0.id.ctx).part = 0 := by
  unfold State.Inv
  decide +kernel

theorem joinAsk_handle (gid rank nm1 : Nat) (ms : Option (List Nat)) (g : Seg) :
    OneHandle (busing (joinAsk gid rank nm1 ms) g port0 1) 0 1 ((busing (joinAsk gid rank nm1 ms) g port0 1).core 0) unit0
      (joinAsk gid rank nm1 ms) := one_handle _ _ _ _ rfl rfl

/-- An operation that has its leave and no lease. -/
def unleased : BusOp :=
  { busOp0 with started := false, lease := Lease.none, leave := { held := true, wanted := true, idle := 0 } }

/-- BusEventsActOnTheirSegment, leases: an operation that has not asked for leave, of a halted thread; cells here, and the
request to another master and its answer. -/
theorem witness_leases : (busing (onBus unleased 2 false) seg0 port0 1).Inv ∧
    (busing (onBus unleased 2 false) seg0 port0 1).masters 5 = true ∧
    (busing (onBus unleased 2 false) far0 port0 0).masters 5 = false ∧
    ({ unleased with leave := Leave.reset } : BusOp).leave.wanted = false ∧
    (unleased.leave.wanted = true ∧ unleased.leave.held = true ∧ unleased.lease = Lease.none ∧ unleased.rails = []) ∧
    (onBus unleased 2 false).rank = 0 ∧ (seg0.far = [] ∧ seg0.quar = []) ∧ (∀ q ∈ st.parts, q.1 < 32) ∧
    ((busing (onBus unleased 2 false) seg0 port0 1).ctx unleased.unit.ctx).part = 0 ∧ unleased.unit = unit0.id ∧
    ((busing (onBus unleased 2 false) seg0 port0 1).part 0).out = false ∧ unleased.asked = [] ∧
    ({ unleased with asked := [5] } : BusOp).asked = [5] ∧
    tget ({ (busing (onBus unleased 2 false) seg0 port0 1).core 0 with threads := [(0, { thread0 with halted := true })] } : Core).threads
      unleased.tid = some { thread0 with halted := true } := by
  unfold State.Inv
  decide +kernel

/-- What is sent of the one chunk; the port saw its checks pass or not. -/
def sentChunk (ok : Bool) : SentChunk :=
  { chunk := 0, value := [3], stages := [{ port := 2, members := 2, first := 0, passes := 1, ok := ok }] }

def awaiting0 (ok : Bool) (rejected : List (Nat × Nat)) : BusOp :=
  { busOp0 with geom := 0x100000, next := 1, awaiting := [sentChunk ok], rejected := rejected }

/-- BusEventsActOnTheirSegment, chunks and replies: readings that differ; a chunk sent first, and a second time; a reply that
rejects for the first time and for the third; the one element written at the start of tile 1's shadow. -/
theorem witness_bus_replies : (∀ o ∈ [busOp0, { busOp0 with next := 1, rejected := [(0, 2)] }, awaiting0 true [], awaiting0 false [(0, 2)]],
      (busing (onBus o 2 false) seg0 port0 1).Inv ∧ (busing (onBus o 2 false) seg0 port0 1).busDown (onBus o 2 false) = false ∧
      (busing (onBus o 2 false) seg0 port0 1).frameOpen { h := 0, u := uid, n := 1 } (onBus o 2 false) o = true ∧
      o.total = 1 ∧ o.accepted = [] ∧ o.started = true) ∧
    (busOp0.next = 0 ∧ busOp0.rejected = [] ∧ busOp0.awaiting = [] ∧ busOp0.max = false) ∧ 1 + 1 ≤ seg0.wlim ∧
    ((awaiting0 true []).awaiting = [sentChunk true] ∧ (sentChunk true).stages.length = 1) ∧
    tget ((busing (onBus (awaiting0 true []) 2 false) seg0 port0 1).core 0).tiles (awaiting0 true []).dent =
      some { tile0 with nb := 1, vbank := 4, sbank := 6 } ∧
    (awaiting0 true []).counter = none ∧ (awaiting0 true []).doff = 0 ∧ (awaiting0 true []).ne = 1 ∧
    (∀ i < 128, ((busing (onBus (awaiting0 true []) 2 false) seg0 port0 1).core 0).phys i < 128) ∧
    (((busing (onBus (awaiting0 true []) 2 false) seg0 port0 1).core 0).bank 4).format = 1 := by
  unfold State.Inv
  decide +kernel

/-- A port with an entry that waits for its training, and a segment of one group of one other member. -/
def entryPort : Port := { port0 with entry := some { asked := 1, seg := 5, midx := 15, en := true } }

/-- BusEventsActOnTheirSegment, trainings and members elsewhere: the entry comes into force on its segment, or on none yet. -/
theorem witness_trainings : tget ({ st with ports := [(2, entryPort)] } : State).ports 2 = some entryPort ∧
    entryPort.enter.en = true ∧ entryPort.enter.seg = 5 ∧ ({ st with parts := [] } : State).parts = [] ∧ seg0.far = [] ∧
    tget ({ busing hnd seg0 port0 1 with segs := [(6, seg0)] } : State).segs entryPort.enter.seg = none ∧
    (∀ gid ∈ [9, 77], (busing hnd seg0 port0 1).groupEnt gid = none) ∧ tget seg0.groups 77 = none ∧ 15 < 16 ∧
    { seg0 with groups := [(9, { part := 0, n := 2, ranks := [1] })] }.groups = [(9, { part := 0, n := 2, ranks := [1] })] := by
  decide +kernel

/-- A collective of `n` INT8 elements into the last 16 bytes of tile 0's shadow. -/
def tileOp (op fn n : Nat) : ColOp :=
  { barring with
    desc := [BitVec.ofNat 64 (op + fn * 2 ^ 4 + 6 * 2 ^ 6 + 2 ^ 18 + 2 ^ 19 + (n - 1) * 2 ^ 32), 0,
      BitVec.ofNat 64 (2 ^ 63 + 0x7FF0 * 2 ^ 8)] ++ List.replicate 5 0 }

/-- The queue of the root of one child, node 8191, or of the last of three members, a leaf. -/
def placeQueue (root : Bool) (o : ColOp) : ColQ :=
  { colQ0 with
    root := root, parent := 1, children := if root then [8191] else [], rank := if root then 0 else 2, members := 3, ops := [o] }

def placePacket (op hop : Nat) (pay : List Int) (raw : List Byte) : ColPacket :=
  { word0 := BitVec.ofNat 64 (77 + 7 * 2 ^ 40 + 2 ^ 48 + op * 2 ^ 52), word1 := BitVec.ofNat 64 (hop * 2 ^ 13)
    payload := pay, exps := [], raw := raw }

/-- The engine of die 0, at which a packet arrives; tile 0 has the format `fmt` in its last bank. -/
def placeState (k : ColQ) (p : ColPacket) (fmt : Nat) : State :=
  { barColl k true [.col 1 0 p] 0 with
    cores := [(0, { core0 with tiles := [(0, tile0)], banks := [(1, { core0.bank 1 with format := fmt })] })] }

/-- The root has contributed its own three elements. -/
def rootOp (fn : Nat) : ColOp := { tileOp 0 fn 3 with partials := [{ ownPart with sums := [1, -5, 100000] }] }

theorem place_collective (k : ColQ) (o : ColOp) (p : ColPacket) (fmt : Nat) (h : k.ops = [o]) (r : o.running = true)
    (c : k.ctx = 0) (w : 1 ≤ k.w ∧ k.ended.length < 16) : OneCollective (placeState k p fmt) 0 9 k o :=
  ⟨rfl, h, r, by rw [c]; rfl, w.1, w.2⟩

theorem place_tile (k : ColQ) (p : ColPacket) (o : ColOp) (fmt bytes : Nat) (hb : bytes ≤ 16)
    (ho : o.unit = uid ∧ Cd.dtile o.desc = true ∧ Cd.dfmt o.desc = 0 ∧ Cd.ce o.desc = false ∧ Cd.dcore o.desc = 0 ∧
      Cd.dst o.desc = BitVec.ofNat 64 (2 ^ 63 + 0x7FF0 * 2 ^ 8)) :
    CollectiveTile (placeState k p fmt) o 0 ((placeState k p fmt).core 0) tile0 fmt bytes 0xFFF0 := by
  obtain ⟨hu, hd, hf, hc, hh, hx⟩ := ho
  have e : formEntry (Cd.dst o.desc) = 0 := by rw [hx]; decide
  have f : formOff 0 (Cd.dst o.desc) = 0x7FF0 := by rw [hx]; decide
  have u : ∀ v, v = uid → (placeState k p fmt).receiver 0 v = some uid := fun v hv => by rw [hv]; rfl
  exact ⟨hd, hf, hc, hh, rfl, by simp only [State.colUnit, u _ hu]; rfl, rfl, rfl, by decide,
    fun n hn => by rw [same_banks rfl]; exact hn, by decide, by rw [e]; rfl, rfl, rfl, by rw [f]; rfl,
    by rw [f]; exact Nat.add_le_add_left hb _, by rw [f]; exact Nat.add_le_add_left hb _, by rw [f], by rw [f]; rfl⟩

/-- CollectiveEventsCombineAndDeliver: the part of an ALLRED's only child, a sum and a maximum, at the root; at a leaf the
result of three elements, the last block of seven and an empty block of four, bytes of ALLGATH and of BCAST. -/
theorem witness_deliveries :
    (∀ fn ∈ [0, 1], (placeState (placeQueue true (rootOp fn)) (placePacket 0 2 [7, 8, -9] []) 1).Inv ∧
      (rootOp fn).partials = [{ ownPart with sums := [1, -5, 100000] }] ∧ (rootOp fn).written = [] ∧ (rootOp fn).pages = [] ∧
      Cd.op (rootOp fn).desc = 0 ∧ Cd.sfmt (rootOp fn).desc = 6 ∧ Cd.ne (rootOp fn).desc = 3 ∧ Cd.fn (rootOp fn).desc = fn) ∧
    (∀ op ∈ [0, 1, 2, 3], Cd.op (tileOp op 0 7).desc = op ∧ Cd.ne (tileOp op 0 7).desc = 7 ∧ Cd.sfmt (tileOp op 0 7).desc = 6 ∧
      Pk.op (placePacket op 3 [] []) = op ∧ Pk.chunk (placePacket op 3 [] []) = 0 ∧ Pk.comm (placePacket op 4 [] []) = 77 ∧
      Pk.seq (placePacket op 4 [] []) = (tileOp op 0 7).seq % 256 ∧ Pk.hop (placePacket op 4 [] []) = 4) ∧
    ([1, 2, 3, 4, 5, 6, 7].drop (2 * ((7 + 3 - 1) / 3))).take ((7 + 3 - 1) / 3) = [7] ∧
    ([1, 2, 3, 4].drop (2 * ((4 + 3 - 1) / 3))).take ((4 + 3 - 1) / 3) = ([] : List Int) ∧ 3 * 5 ≤ 16 := by
  unfold State.Inv
  decide +kernel

theorem witness_destinations (k : ColQ) (p : ColPacket) :
    (∀ fn, fn = 0 ∨ fn = 1 → CollectiveTile (placeState k p 1) (rootOp fn) 0 ((placeState k p 1).core 0) tile0 1 (4 * 3) 0xFFF0) ∧
    (∀ op, op = 0 ∨ op = 1 → CollectiveTile (placeState k p 1) (tileOp op 0 3) 0 ((placeState k p 1).core 0) tile0 1 (4 * 3) 0xFFF0) ∧
    (∀ op, op = 2 ∨ op = 3 → CollectiveTile (placeState k p 6) (tileOp op 0 5) 0 ((placeState k p 6).core 0) tile0 6 (3 * 5) 0xFFF0) := by
  refine ⟨fun fn h => ?_, fun op h => ?_, fun op h => ?_⟩ <;>
    exact place_tile _ _ _ _ _ (by decide) (by rcases h with rfl | rfl <;> decide)

/-- The collectives of the deliveries, the only ones of their engine. -/
theorem witness_delivering (p : ColPacket) :
    OneCollective (placeState (placeQueue true (rootOp 0)) p 1) 0 9 (placeQueue true (rootOp 0)) (rootOp 0) ∧
    OneCollective (placeState (placeQueue false (tileOp 1 0 7)) p 1) 0 9 (placeQueue false (tileOp 1 0 7)) (tileOp 1 0 7) :=
  ⟨place_collective _ _ _ _ rfl rfl rfl (by decide), place_collective _ _ _ _ rfl rfl rfl (by decide)⟩

def image0 : BootImage := { firmware := [], config := [], key := [1], signature := [], version := 0, failing := 7 }

/-- TheHostDrivesItsFunctions, orders: a GO and a message that wait for a page, and one behind each; the message word is stored
at last; a BOOT whose own step fails. -/
theorem witness_host_order : (hosted { vf7 with gos := [(0x200100, 1)], goWait := .tag 5 0 } rootM).vfOf 7 =
      { vf7 with gos := [(0x200100, 1)], goWait := .tag 5 0 } ∧
    (hosted vf7 { rootM with tags := [tag0] }).pageClear (.tag 0 63) = false ∧
    (PageWait.tag 0 63) ≠ .replied true ∧ vf7.resetting = none ∧ vf7.gos = [] ∧ vf7.msgs = [] ∧
    (hosted vf7 rootM).pageClear .none = true ∧ image0.failing ≠ 0 ∧
    ((messaged.modVf 7 fun y => { y with msgs := [5] }).vfOf 7).msgs = [5] ∧
    ((messaged.modVf 7 fun y => { y with msgs := [5] }).vfOf 7).msgStored = true := by
  decide +kernel
/-- The partition's layout moves from cores 16 to 31 to the last 16 cores, beside the partitions `extra`; `low` stand below its
root. -/
def layingOut (extra : Table Part) (low : Table Ctx) : State :=
  { managed [(0x2000, 8, 4080 * 2 ^ 16 + 16 * 2 ^ 32)] with
    ctxs := (0, root0) :: low, parts := (0, { part0 with hbase := 16 }) :: extra }

/-- The same layout, prepared. -/
def committing (extra : Table Part) : State :=
  let s := layingOut extra []
  { s with
    parts := (0, { part0 with hbase := 16, prepared := some (4080, 16) }) :: extra
    mp := { s.mp with preparing := true, prepared := true } }

def prepare0 : BitVec 512 := cmdOf [(0, 1, 3), (8, 8, 1), (0x10, 8, 0x2000)]

/-- A partition on the last core. -/
def lastPart : Part := { part0 with hbase := 4095, hlen := 1 }

/-- PartitionCommandsAct, PREPARE and COMMIT: a root that is alone; an interval that another partition has; a core that leaves
and is granted below the root; a prepared layout that meets a partition. -/
theorem witness_prepare : Commanded (layingOut [] []) prepare0 [(8, 8), (0x10, 8)] ∧
    layoutOf (memRead (layingOut [] []).mem (spaHost + 0x2000) 8) = some (0, 4080, 16) ∧
    (layingOut [] []).ctxs = [({ part0 with hbase := 16 }.root, root0)] ∧ root0.level = 0 ∧ (layingOut [] []).launches = [] ∧
    (layingOut [] []).layoutClash [(0, 4080, 16)] 0 4080 16 = false ∧
    (layingOut [(47, lastPart)] []).layoutClash [(0, 4080, 16)] 0 4080 16 = true ∧
    (layingOut [] [(1, { child0 with coreBase := 31, coreLen := 1, part := 0 })]).leavesGrant 0 4080 16 = true ∧
    Commanded (committing []) (cmdOf [(0, 1, 4)]) [] ∧ tget (committing []).ctxs 0 = some root0 ∧
    (committing [(47, lastPart)]).preparedLayout.any
      (fun l => (committing [(47, lastPart)]).layoutClash (committing [(47, lastPart)]).preparedLayout l.1 l.2.1 l.2.2) = true :=
  ⟨commanded rfl (by decide +kernel) (by decide +kernel), by decide +kernel, rfl, rfl, rfl, by decide,
    by decide, by decide, ⟨.inl rfl, ⟨rfl, .inl rfl⟩, by decide +kernel, by decide +kernel⟩, rfl, by decide⟩

/-- PartitionCommandsAct, PCREATE: a block at the end of the host's memory; an interval that a partition has; a region that one
has. -/
theorem witness_pcreate_clash :
    2 ^ 48 < mc (cmdOf [(0, 1, 1), (0x10, 8, 2 ^ 48 - 64)]) 0x10 8 + 0x80 + 16 * 0 ∧
    mc (cmdOf [(0, 1, 1), (0x10, 8, 2 ^ 48 - 64)]) 0x10 8 % 64 = 0 ∧
    (layingOut [(47, lastPart)] []).intervalUsed 4080 16 = true ∧
    { managed pblock0 with parts := [(0, { part0 with tpool := { base := 0x3030000, size := 0x10000 } })] }.blockUsed
      ((managed pblock0).pblock 0x1000) = true := by decide +kernel

/-- An evicted unit has helper 10; nothing is resident. -/
def late : State :=
  { managed [] with cores := [(4094, { core0 with unit := none, threads := [], evicted := [{ away with threads := [(10, thread0)] }] })] }

def lateRead : BitVec 512 :=
  cmdOf [(0, 1, 9), (8, 1, 3), (0x0A, 2, 4094), (0x0C, 1, 10), (0x0E, 1, 1), (0x10, 8, 64)]

/-- ModuleAndDebugCommandsAct: a thread of an evicted unit, and one that no unit has; the measurements of a module that has not
booted an image. -/
theorem witness_late : Commanded late lateRead dbgUsed ∧ mc lateRead 0x0A 2 = 4094 ∧ mc lateRead 0x0C 1 = 10 ∧
    mc lateRead 0x0D 1 < 2 ∧ mc lateRead 0x0E 1 < 2 ∧ late.hasThread 4094 10 = false ∧ mc lateRead 0x10 8 = 64 ∧
    (∃ v, (Machine.served late).dbgView 4094 10 = some v) ∧ (Machine.served late).dbgView 4094 9 = none ∧
    (late.mp.measured.getD ((List.range 96).map Config.measurement)).length = 96 :=
  ⟨commanded rfl (by decide +kernel) (by decide +kernel), by decide +kernel, by decide +kernel, by decide +kernel,
    by decide +kernel, by decide, by decide +kernel, Option.isSome_iff_exists.mp (by decide +kernel), by decide +kernel, rfl⟩

/-! ## Single instructions, with results from the spec's worked cases -/

/-- A general register, an f register and the flags after an instruction that goes on. -/
def after (o : Out) (n : Reg) : Option (Word × Word × Flags) :=
  match o with
  | .next t => some (t.g n, t.f n, t.cur.r.fflags)
  | _ => none

/-- The worked cases after R94: pdiv, prem, pclz and pffs. -/
def pal0 : State := (withG 5 0x00098000FFF90064).setG 6 0x0000FFFF00020007

theorem test_pdiv : after (execPdiv 4 5 6 .w16 false pal0) 4 = some (0xFFFF8000FFFD000E, 0, 0x10) := by decide +kernel
theorem test_prem : (after (execPrem 4 5 6 .w16 false pal0) 4).map (·.1) = some 0x00090000FFFF0002 := by decide +kernel
theorem test_pclz : after (execPclz 4 5 .w16 (withG 5 0x80000010)) 4 = some (0x001000100000000B, 0, 0) := by decide +kernel
theorem test_pffs : after (execPffs 4 5 .w16 (withG 5 0x80000010)) 4 = some (0x100005, 0, 0) := by decide +kernel

/-- The worked case after R97: an exact product and sum; and a product that is rounded first. -/
def fpu0 : State := ((st.setF 3 0x3F800800).setF 4 0x3F800800).setF 2 0xBF801000

theorem test_fma : after (execFma 2 3 4 .s .rne fpu0) 2 = some (0, 0x33800000, 0) := by decide +kernel
theorem test_fmul : after (execFmul 5 3 4 .s .rne fpu0) 5 = some (0, 0x3F801000, 0x08) := by decide +kernel

/-- The examples after R99: −0.75, −1.0 and 2.5. -/
theorem test_ftoi : after (execFtoi 4 5 .s false true .rtz (st.setF 5 0xBF400000)) 4 = some (0, 0, 0x08) ∧
    after (execFtoi 4 5 .s false true .rtz (st.setF 5 0xBF800000)) 4 = some (0, 0, 0x20) ∧
    after (execFtoi 4 5 .s false false .rne (st.setF 5 0x40200000)) 4 = some (2, 0, 0x08) := by
  refine ⟨?_, ?_, ?_⟩ <;> decide +kernel

/-- The worked decode after R33: the first two elements of a QN4 superblock record. -/
theorem test_qn4 : (encodeFloat (superElem 9 [0, 0, 0, 0x40, 0x73, 0xA7] 0) .fp32 .rne false).1 = 0xB9CC4000 ∧
    (encodeFloat (superElem 9 [0, 0, 0, 0x40, 0x73, 0xA7] 1) .fp32 .rne false).1 = 0x3B033800 := by decide +kernel

/-- The examples after R8, and the alias of core (5, 3). -/
theorem test_hilbert : hilbertXY 0 = (0, 0) ∧ hilbertXY 15 = (3, 0) ∧ hilbertXY 4095 = (63, 0) ∧
    aliasBase (hilbertH 5 3) + 0x100 = 0x000F000028600100 := by decide +kernel

/-! ## Steps of the machine, from reset with one word placed -/

def placed (w : Nat) : State := State.reset.withFetchWord 32 w

/-- The word's registers after one step: `g4`, the program counter, TCAUSE's code and the thread's number of words waiting. -/
def stepped (w : Nat) : Option (Word × Word × Nat) :=
  match step (placed w) with
  | .next t => some ((t.thread 0 0).r.readG 4, (t.thread 0 0).r.pc, t.posts.length)
  | _ => none

/-- li g4, 7; the next word follows. -/
theorem test_step_li : stepped 0x24800007 = some (7, 0x10004, 0) := by decide +kernel

/-- 0 is no instruction: ILL, and as no handler is open a record of the trap. -/
theorem test_step_illegal : stepped 0 = some (0, 0x10000, 1) := by decide +kernel

/-- j back to its own address. -/
theorem test_step_j : stepped 0x8C000000 = some (0, 0x10000, 0) := by decide +kernel

/-! ## Witnesses for steps -/

theorem issue_word {r : Issue} (h : (match r with
      | .word _ _ => true
      | _ => false) = true) : ∃ w u, r = .word w u := by
  cases r with
  | word w u => exact ⟨w, u, rfl⟩
  | done s => cases h

theorem issuing {r : Action × State} (h : (match r.1 with
      | .issue h tid => decide (h = 0 ∧ tid = 0)
      | _ => false) = true) : r = (.issue 0 0, r.2) := by
  obtain ⟨a, t⟩ := r
  cases a with
  | issue h tid =>
    obtain ⟨rfl, rfl⟩ := of_decide_eq_true h
    rfl
  | _ => cases h

theorem next_of {o : Out} (h : (match o with
      | .next _ => true
      | _ => false) = true) : ∃ t, o = .next t := by
  cases o with
  | next t => exact ⟨t, rfl⟩
  | _ => cases h

/-- A word in memory where the unit of the small state fetches, and the translation of that page. -/
def fetching (w : Nat) : State :=
  { withCore (fun c => { c with itlb := [{ rwx 0 with page := 1, spa := 0x10000 }] }) with mem := memWrite [] 0x10000 4 w }

/-- AStepRunsTheDecodedInstruction, EveryStepKeepsMemoryCanonical: an event at the head of the agenda; a word that decodes,
in a state whose memory is canonical, with no window open; and a step that goes on. -/
theorem witness_step : (fetching 0x24800007).unpowered = false ∧ (fetching 0x24800007).Inv ∧
    (fetching 0x24800007).turnOf = (.issue 0 0, (fetching 0x24800007).turnOf.2) ∧
    (∃ w u, (fetching 0x24800007).turnOf.2.issue 0 0 = .word w u) ∧
    decodeWord 0x24800007 = .ok (.li 4 7) ∧ decodeWord 0 = .error .illegalMajor ∧ lacking 0 0x24800007 = false ∧
    lacking 15 0xB4000000 = true ∧ ({ st with agenda := [.leaveGrant 15] } : State).unpowered = false ∧
    ∃ t, step (fetching 0x24800007) = .next t :=
  ⟨by decide +kernel, by unfold State.Inv; decide +kernel, issuing (by decide +kernel), issue_word (by decide +kernel), rfl, rfl,
    by decide, by decide, by decide, next_of (by decide +kernel)⟩

/-- The fetch of a word from memory: nothing holds it back, and its address translates. -/
theorem witness_fetch : (((fetching 0x24800007).take 0 0).thread 0 0).deliverable = false ∧
    (∀ p ∈ ((fetching 0x24800007).take 0 0).cur.pend, p.since < p.look) ∧
    (((fetching 0x24800007).take 0 0).takeRefused 0 0).isNone = true ∧
    (match (((fetching 0x24800007).take 0 0).translate 0 0 0x10000 .fetch).2 with
      | .ok a => a == 0x10000
      | _ => false) = true ∧
    tget (((fetching 0x24800007).take 0 0).core 0).icache 0x10000 = none ∧
    (fetching 0x24800007).readLoc (.mem 0x10000) 4 = [7, 0, 0x80, 0x24] :=
  ⟨by decide +kernel, by decide +kernel, by decide +kernel, by decide +kernel, by decide +kernel, by decide +kernel⟩

/-- AStepRunsTheDecodedInstruction: a command that waits for the management processor, and the thread that the debugger steps. -/
theorem witness_turns : ({ st with mp := { st.mp with queue := [.leaveGrant 15] } } : State).unpowered = false ∧
    st.mp.job = none ∧ st.agenda = [] ∧ st.hasThread 0 0 = true ∧ st.inflight = [] ∧ (st.thread 0 0).refused = [] :=
  ⟨by decide, rfl, rfl, by decide, rfl, by decide⟩

/-- A core with two tiles, one of them at the last banks, and a full queue of late faults. -/
def bounding : State :=
  let s := fetching 0x24800007
  { s with cores := [(0, { s.core 0 with
    threads := [(0, { thread0 with late := List.replicate 4 late0, t := { thread0.t with inh := true } })]
    tiles := [(0, tile0), (63, { tile0 with nb := 16, vbank := 80, nosh := true })] })] }

/-- EveryStepKeepsTheBoundsOfTheCores: a state within the bounds, and its step. -/
theorem witness_bounds : bounding.Bounded ∧ ∃ t, step bounding = .next t := by
  refine ⟨⟨fun x hx => ?_, fun k hk => by cases hk⟩, next_of (by decide +kernel)⟩
  obtain rfl := List.mem_singleton.mp hx
  exact
    { threads := fun y hy => by
        obtain rfl := List.mem_singleton.mp hy
        exact (by decide : 4 ≤ 4)
      parked := fun n u tid o t h => by cases h
      tiles := by
        refine ⟨by decide, by decide⟩
      vector := by decide
      points := by decide
      copies := by decide
      matrix := fun ms _ => Nat.zero_le _
      evicted := fun e he => by cases he }

/-- DecodingAnEncodedInstructionGivesItBack, EveryLegalWordIsTheWordOfItsInstruction: a well-formed instruction with a word, and the words of majors that hold none. -/
theorem witness_encodings : (Instr.casd 30 8 0 .acquire .die 0).WellFormed ∧
    (encode? (.casd 30 8 0 .acquire .die 0)).isSome = true ∧ 0xEC000000 / 2 ^ 26 = 0x3B ∧
    encode? (.threadWake 0 0) = none := by decide +kernel

end Sys2Proof.Tests
end

section
/-! PROOFS. A word that decodes is the one word of its instruction: a word is the sum of its fields, each operand that
the decoder reads has the value of its field, and so the word that the encoder sums from the operands is the word
decoded. -/

namespace Sys2Proof

/-! ## Fields of a word -/

theorem fld_lt (w lo n : Nat) : fld w lo n < 2 ^ n := Nat.mod_lt _ (Nat.two_pow_pos n)

/-- A field is its low part and, above it, the rest. -/
theorem fld_append (w lo m n : Nat) : fld w lo (m + n) = fld w lo m + 2 ^ m * fld w (lo + m) n := by
  rw [fld, fld, fld, Nat.pow_add, Nat.mod_mul, Nat.div_div_eq_div_mul, ← Nat.pow_add]

/-- The value of adjacent fields of the widths listed, the first from bit `lo`. -/
def fieldSum (w : Nat) : Nat → List Nat → Nat
  | _, [] => 0
  | lo, n :: ns => fld w lo n + 2 ^ n * fieldSum w (lo + n) ns

theorem fld_eq_fieldSum (w : Nat) (ns : List Nat) (lo : Nat) : fld w lo ns.sum = fieldSum w lo ns := by
  induction ns generalizing lo with
  | nil => simp [fld, fieldSum, Nat.mod_one]
  | cons n ns ih => rw [List.sum_cons, fld_append, ih, fieldSum]

/-- A word is its fields, at whatever widths its 32 bits are cut (R53). -/
theorem word_eq_fieldSum {w : Nat} (h : w < 2 ^ 32) (ns : List Nat) (hn : ns.sum = 32) : w = fieldSum w 0 ns := by
  rw [← fld_eq_fieldSum, hn, fld, Nat.pow_zero, Nat.div_one, Nat.mod_eq_of_lt h]

/-! ## Codes -/

theorem Rnd.fromCode?_eq_some {n : Nat} {x : Rnd} : Rnd.fromCode? n = some x ↔ n = x.code := by
  unfold Rnd.fromCode?
  split <;> cases x <;> simp_all [Rnd.code]

theorem LaneW.fromCode?_eq_some {n : Nat} {x : LaneW} : LaneW.fromCode? n = some x ↔ n = x.code := by
  unfold LaneW.fromCode?
  split <;> cases x <;> simp_all [LaneW.code]

theorem Scope.fromCode?_eq_some {n : Nat} {x : Scope} : Scope.fromCode? n = some x ↔ n = x.code := by
  unfold Scope.fromCode?
  split <;> cases x <;> simp_all [Scope.code]

theorem CLevel.fromCode?_eq_some {n : Nat} {x : CLevel} : CLevel.fromCode? n = some x ↔ n = x.code := by
  unfold CLevel.fromCode?
  split <;> cases x <;> simp_all [CLevel.code]

theorem Prec.code_fromCode : ∀ n < 2, (Prec.fromCode n).code = n := by decide
theorem Order.code_fromCode : ∀ n < 4, (Order.fromCode n).code = n := by decide
theorem TileSt.code_fromCode : ∀ n < 4, (TileSt.fromCode n).code = n := by decide

/-! ## Operands -/

theorem regAt_val (w lo : Nat) : (regAt w lo).val = fld w lo 5 := Nat.mod_eq_of_lt (fld_lt w lo 5)

theorem lookAt_val (w lo : Nat) : (lookAt w lo).val = fld w lo 4 := Nat.mod_eq_of_lt (fld_lt w lo 4)

theorem bitAt_toNat (w lo : Nat) : (bitAt w lo).toNat = fld w lo 1 := by
  rcases Nat.mod_two_eq_zero_or_one (w / 2 ^ lo) with h | h <;> simp [bitAt, fld, h]

theorem ofNat_fld_toNat (w lo n : Nat) : (BitVec.ofNat n (fld w lo n)).toNat = fld w lo n :=
  Nat.mod_eq_of_lt (fld_lt w lo n)

theorem ofNat_fld_val (w lo n : Nat) [NeZero (2 ^ n)] : (Fin.ofNat (2 ^ n) (fld w lo n)).val = fld w lo n :=
  Nat.mod_eq_of_lt (fld_lt w lo n)

/-- The length of a bit field lies in two fields of its word (R93). -/
theorem bitFieldLen_val (w : Nat) :
    (Fin.ofNat 64 (fld w 6 1 * 32 + fld w 11 5)).val % 32 = fld w 11 5 ∧
    (Fin.ofNat 64 (fld w 6 1 * 32 + fld w 11 5)).val / 32 = fld w 6 1 := by
  have h1 := fld_lt w 6 1
  have h5 := fld_lt w 11 5
  simp only [Fin.val_ofNat]
  omega

/-- Each operand that the decoder reads has the value of its field. -/
theorem field_values (w : Nat) :
    (∀ lo, (regAt w lo).val = fld w lo 5) ∧ (∀ lo, (lookAt w lo).val = fld w lo 4) ∧
    (∀ lo, (bitAt w lo).toNat = fld w lo 1) ∧
    (∀ lo n, (BitVec.ofNat n (fld w lo n)).toNat = fld w lo n) ∧
    (∀ lo, (Fin.ofNat 4 (fld w lo 2)).val = fld w lo 2) ∧
    (∀ lo, (Fin.ofNat 8 (fld w lo 3)).val = fld w lo 3) ∧
    (∀ lo, (Fin.ofNat 16 (fld w lo 4)).val = fld w lo 4) ∧
    (∀ lo, (Fin.ofNat 32 (fld w lo 5)).val = fld w lo 5) ∧
    (∀ lo, (Fin.ofNat 64 (fld w lo 6)).val = fld w lo 6) ∧
    (∀ lo, (Fin.ofNat 128 (fld w lo 7)).val = fld w lo 7) ∧
    (∀ lo, (Prec.fromCode (fld w lo 1)).code = fld w lo 1) ∧
    (∀ lo, (Order.fromCode (fld w lo 2)).code = fld w lo 2) ∧
    (∀ lo, (TileSt.fromCode (fld w lo 2)).code = fld w lo 2) ∧
    (Fin.ofNat 64 (fld w 6 1 * 32 + fld w 11 5)).val % 32 = fld w 11 5 ∧
    (Fin.ofNat 64 (fld w 6 1 * 32 + fld w 11 5)).val / 32 = fld w 6 1 :=
  ⟨regAt_val w, lookAt_val w, bitAt_toNat w, ofNat_fld_toNat w, (ofNat_fld_val w · 2), (ofNat_fld_val w · 3),
    (ofNat_fld_val w · 4), (ofNat_fld_val w · 5), (ofNat_fld_val w · 6), (ofNat_fld_val w · 7),
    fun lo => Prec.code_fromCode _ (fld_lt w lo 1), fun lo => Order.code_fromCode _ (fld_lt w lo 2),
    fun lo => TileSt.code_fromCode _ (fld_lt w lo 2), bitFieldLen_val w⟩

/-! ## Words that spell an instruction -/

/-- Whatever instruction the decoder answers, `w` is its word. -/
def Spells {α : Type} (word : α → Option Nat) (w : Nat) (r : Except Reject α) : Prop :=
  ∀ i, r = .ok i → word i = some w

/-- The word of an instruction of the majors 0x23–0x2A. -/
noncomputable def High.word? (i : High) : Option Nat := encode? i.toInstr

section
variable {α : Type} {word : α → Option Nat} {w : Nat}

theorem spells_error (r : Reject) : Spells word w (.error r) := nofun

theorem spells_ok (i : α) : Spells word w (.ok i) ↔ word i = some w :=
  ⟨fun h => h i rfl, fun h _ hi => Except.ok.inj hi ▸ h⟩

/-- A guard on reserved fields. -/
theorem spells_guard (c : Prop) [Decidable c] (x : Except Reject α) (r : Reject) :
    Spells word w (if c then x else .error r) ↔ (c → Spells word w x) := by
  by_cases hc : c <;> simp [hc, spells_error]

/-- A word whose only operands are reserved fields. -/
theorem spells_plain {c : Prop} [Decidable c] {i : α} {r : Reject} (h : c → word i = some w) :
    Spells word w (if c then .ok i else .error r) :=
  (spells_guard c _ r).2 fun hc => (spells_ok i).2 (h hc)

/-- A field of named codes, `code` giving the code of a name. -/
theorem spells_elim {β : Type} {o : Option β} {n : Nat} {code : β → Nat} (ho : ∀ {x}, o = some x ↔ n = code x)
    (r : Reject) (f : β → Except Reject α) :
    Spells word w (o.elim (.error r) f) ↔ ∀ x, n = code x → Spells word w (f x) := by
  simp only [← ho]
  cases o <;> simp [spells_error]

/-- What each shape that a branch of the decoder has asks of the word. -/
theorem spells_iff :
    (∀ r, Spells word w (.error r)) ∧ (∀ i, Spells word w (.ok i) ↔ word i = some w) ∧
    (∀ (c : Prop) [Decidable c] x r, Spells word w (if c then x else .error r) ↔ (c → Spells word w x)) ∧
    (∀ n r f, Spells word w ((Rnd.fromCode? n).elim (.error r) f) ↔ ∀ x, n = x.code → Spells word w (f x)) ∧
    (∀ n r f, Spells word w ((LaneW.fromCode? n).elim (.error r) f) ↔ ∀ x, n = x.code → Spells word w (f x)) ∧
    (∀ n r f, Spells word w ((Scope.fromCode? n).elim (.error r) f) ↔ ∀ x, n = x.code → Spells word w (f x)) ∧
    ∀ n r f, Spells word w ((CLevel.fromCode? n).elim (.error r) f) ↔ ∀ x, n = x.code → Spells word w (f x) :=
  ⟨spells_error, spells_ok, fun c _ => spells_guard c, fun _ => spells_elim Rnd.fromCode?_eq_some,
    fun _ => spells_elim LaneW.fromCode?_eq_some, fun _ => spells_elim Scope.fromCode?_eq_some,
    fun _ => spells_elim CLevel.fromCode?_eq_some⟩

end

section
variable {w : Nat}

/-! ## The majors of the integer and memory words

Each major is cut at the bounds of its fields; a field that some of its words divide is given by its parts. -/

theorem decodeAlu_spells (h : w < 2 ^ 32) (hm : fld w 26 6 = 1) : Spells encode? w (decodeAlu w) := by
  have cuts := word_eq_fieldSum h [4, 7, 5, 5, 5, 6] rfl
  simp only [fieldSum, Nat.reduceAdd] at cuts
  unfold decodeAlu
  split
  all_goals simp only [spells_iff]
  all_goals
    intros
    exact congrArg some (by simp only [regs, field_values]; omega)

theorem decodeShi_spells (h : w < 2 ^ 32) (hm : fld w 26 6 = 8) : Spells encode? w (decodeShi w) := by
  have cuts : _ ∧ _ ∧ _ := ⟨word_eq_fieldSum h [5, 1, 7, 3, 5, 5, 6] rfl, fld_append w 0 5 1, fld_append w 5 1 7⟩
  simp only [fieldSum, Nat.reduceAdd] at cuts
  unfold decodeShi
  split
  all_goals simp only [spells_iff]
  all_goals
    intros
    exact congrArg some (by simp only [regs, field_values]; omega)

theorem decodePal_spells (h : w < 2 ^ 32) (hm : fld w 26 6 = 11) : Spells encode? w (decodePal w) := by
  have cuts : _ ∧ _ := ⟨word_eq_fieldSum h [1, 1, 2, 7, 5, 5, 5, 6] rfl, fld_append w 0 1 1⟩
  simp only [fieldSum, Nat.reduceAdd] at cuts
  unfold decodePal
  split
  all_goals simp only [spells_iff]
  all_goals
    intros
    exact congrArg some (by simp only [regs, field_values]; omega)

theorem decodeBit_spells (h : w < 2 ^ 32) (hm : fld w 26 6 = 12) : Spells encode? w (decodeBit w) := by
  have cuts := word_eq_fieldSum h [6, 1, 2, 2, 5, 5, 5, 6] rfl
  simp only [fieldSum, Nat.reduceAdd] at cuts
  unfold decodeBit
  split
  all_goals simp only [spells_iff]
  all_goals
    intros
    exact congrArg some (by simp only [regs, field_values]; omega)

/-- The three majors of the atomics share one format (R182). -/
theorem decodeAtomic_spells (h : w < 2 ^ 32) :
    (fld w 26 6 = 30 → Spells encode? w (decodeAtw w)) ∧
    (fld w 26 6 = 31 → Spells encode? w (decodeAtd w)) ∧
    (fld w 26 6 = 32 → Spells encode? w (decodeAtx w)) := by
  have cuts := word_eq_fieldSum h [4, 2, 2, 3, 5, 5, 5, 6] rfl
  simp only [fieldSum, Nat.reduceAdd] at cuts
  refine ⟨fun hm => ?_, fun hm => ?_, fun hm => ?_⟩
  all_goals simp only [decodeAtw, decodeAtd, decodeAtx]
  all_goals split
  all_goals simp only [spells_iff]
  all_goals
    intros
    exact congrArg some (by simp only [regs, field_values]; omega)

theorem decodeFence_spells (h : w < 2 ^ 32) (hm : fld w 26 6 = 33) : Spells encode? w (decodeFence w) := by
  have cuts := word_eq_fieldSum h [4, 3, 1, 3, 15, 6] rfl
  simp only [fieldSum, Nat.reduceAdd] at cuts
  unfold decodeFence
  split
  all_goals simp only [spells_iff]
  all_goals
    intros
    exact congrArg some (by omega)

theorem decodeBr_spells (h : w < 2 ^ 32) (hm : fld w 26 6 = 34) : Spells encode? w (decodeBr w) := by
  have cuts := word_eq_fieldSum h [13, 3, 5, 5, 6] rfl
  simp only [fieldSum, Nat.reduceAdd] at cuts
  unfold decodeBr
  split
  all_goals simp only [spells_iff]
  all_goals exact congrArg some (by simp only [regs, field_values]; omega)

/-! ## The majors 0x23–0x2A -/

theorem decodeJr_spells (h : w < 2 ^ 32) (hm : fld w 26 6 = 37) : Spells High.word? w (decodeJr w) := by
  have cuts := word_eq_fieldSum h [8, 3, 5, 5, 5, 6] rfl
  simp only [fieldSum, Nat.reduceAdd] at cuts
  unfold decodeJr
  split
  all_goals simp only [spells_iff]
  all_goals
    intros
    exact congrArg some (by simp only [regs, field_values, Fin.val_zero]; omega)

theorem decodeLoop_spells (h : w < 2 ^ 32) (hm : fld w 26 6 = 38) : Spells High.word? w (decodeLoop w) := by
  have cuts := word_eq_fieldSum h [12, 1, 3, 5, 5, 6] rfl
  simp only [fieldSum, Nat.reduceAdd] at cuts
  unfold decodeLoop
  split
  all_goals simp only [spells_iff]
  all_goals
    intros
    exact congrArg some (by simp only [regs, field_values]; omega)

theorem decodeFpu_spells (h : w < 2 ^ 32) (hm : fld w 26 6 = 39) : Spells High.word? w (decodeFpu w) := by
  have cuts := word_eq_fieldSum h [3, 1, 7, 5, 5, 5, 6] rfl
  simp only [fieldSum, Nat.reduceAdd] at cuts
  unfold decodeFpu
  split
  all_goals simp only [spells_iff]
  all_goals
    intros
    exact congrArg some (by simp only [regs, field_values]; omega)

theorem decodeFcv_spells (h : w < 2 ^ 32) (hm : fld w 26 6 = 40) : Spells High.word? w (decodeFcv w) := by
  have cuts : _ ∧ _ ∧ _ ∧ _ := ⟨word_eq_fieldSum h [3, 1, 1, 1, 5, 5, 5, 5, 6] rfl, fld_append w 3 1 1,
    fld_append w 3 2 1, fld_append w 3 3 5⟩
  simp only [fieldSum, Nat.reduceAdd] at cuts
  unfold decodeFcv
  split
  case' isFalse => split
  case' isFalse => split <;> split
  case h_4 h0 h1 h2 =>
    have hop : fld w 3 2 = 3 := by
      have hlt := fld_lt w 3 2
      simp only [imp_false] at h0 h1 h2
      omega
    simp only [spells_iff]
    intros
    exact congrArg some (by simp only [regs, field_values]; omega)
  all_goals simp only [spells_iff]
  all_goals
    intros
    exact congrArg some (by simp only [regs, field_values]; omega)

theorem decodeSys_spells (h : w < 2 ^ 32) (hm : fld w 26 6 = 41) : Spells High.word? w (decodeSys w) := by
  have cuts : _ ∧ _ := ⟨word_eq_fieldSum h [12, 4, 5, 5, 6] rfl, fld_append w 16 5 5⟩
  simp only [fieldSum, Nat.reduceAdd] at cuts
  unfold decodeSys
  split
  case h_1 | h_6 => exact spells_plain fun _ => congrArg some (by omega)
  all_goals simp only [spells_iff]
  all_goals
    intros
    exact congrArg some (by simp only [regs, field_values]; omega)

theorem decodeCtx_spells (h : w < 2 ^ 32) (hm : fld w 26 6 = 42) : Spells High.word? w (decodeCtx w) := by
  have cuts : _ ∧ _ ∧ _ := ⟨word_eq_fieldSum h [6, 5, 5, 5, 5, 6] rfl, fld_append w 11 5 10, fld_append w 16 5 5⟩
  simp only [fieldSum, Nat.reduceAdd] at cuts
  unfold decodeCtx
  split
  case h_5 | h_6 => exact spells_plain fun _ => congrArg some (by omega)
  all_goals simp only [spells_iff]
  all_goals
    intros
    exact congrArg some (by simp only [regs, field_values, Fin.val_zero]; omega)

/-! ## The majors of the units -/

theorem decodeSync_spells (h : w < 2 ^ 32) (hm : fld w 26 6 = 43) : Spells encode? w (decodeSync w) := by
  have cuts : _ ∧ _ ∧ _ := ⟨word_eq_fieldSum h [4, 3, 1, 4, 4, 5, 5, 6] rfl, fld_append w 4 3 1, fld_append w 16 5 5⟩
  simp only [fieldSum, Nat.reduceAdd] at cuts
  unfold decodeSync
  split
  all_goals simp only [spells_iff]
  all_goals
    intros
    exact congrArg some (by simp only [regs, field_values]; omega)

theorem decodeTag_spells (h : w < 2 ^ 32) (hm : fld w 26 6 = 44) : Spells encode? w (decodeTag w) := by
  have cuts : _ ∧ _ ∧ _ ∧ _ ∧ _ ∧ _ ∧ _ ∧ _ := ⟨word_eq_fieldSum h [1, 1, 2, 3, 1, 3, 5, 5, 5, 6] rfl,
    fld_append w 0 1 1, fld_append w 0 2 2, fld_append w 4 3 1, fld_append w 2 2 4, fld_append w 0 4 4,
    fld_append w 11 5 10, fld_append w 16 5 5⟩
  simp only [fieldSum, Nat.reduceAdd] at cuts
  unfold decodeTag
  split
  case h_5 => exact spells_plain fun _ => congrArg some (by omega)
  all_goals simp only [spells_iff]
  all_goals
    intros
    exact congrArg some (by simp only [regs, field_values]; omega)

theorem decodeTile_spells (h : w < 2 ^ 32) (hm : fld w 26 6 = 45) : Spells encode? w (decodeTile w) := by
  have cuts : _ ∧ _ := ⟨word_eq_fieldSum h [6, 2, 4, 4, 5, 5, 6] rfl, fld_append w 16 5 5⟩
  simp only [fieldSum, Nat.reduceAdd] at cuts
  unfold decodeTile
  split
  all_goals simp only [spells_iff]
  all_goals
    intros
    exact congrArg some (by simp only [regs, field_values]; omega)

/-- The two majors of vector commands share one format (R195, R198). -/
theorem decodeVector_spells (h : w < 2 ^ 32) :
    (fld w 26 6 = 46 → Spells encode? w (decodeVec w)) ∧
    (fld w 26 6 = 58 → Spells encode? w (decodeVex w)) := by
  have cuts : _ ∧ _ ∧ _ := ⟨word_eq_fieldSum h [3, 2, 2, 5, 4, 5, 5, 6] rfl, fld_append w 3 2 2, fld_append w 16 5 5⟩
  simp only [fieldSum, Nat.reduceAdd] at cuts
  refine ⟨fun hm => ?_, fun hm => ?_⟩
  all_goals simp only [decodeVec, decodeVex]
  all_goals split
  all_goals simp only [spells_iff]
  all_goals
    intros
    exact congrArg some (by simp only [regs, field_values]; omega)

/-- The majors whose commands name a stream, a tile register or a bus handle in bits 4 to 7 (R206, R215, R226, R361). -/
theorem decodeSelector_spells (h : w < 2 ^ 32) :
    (fld w 26 6 = 47 → Spells encode? w (decodeVcf w)) ∧
    (fld w 26 6 = 48 → Spells encode? w (decodeMat w)) ∧
    (fld w 26 6 = 49 → Spells encode? w (decodeMcf w)) ∧
    (fld w 26 6 = 52 → Spells encode? w (decodeObs w)) := by
  have cuts : _ ∧ _ ∧ _ ∧ _ ∧ _ ∧ _ ∧ _ := ⟨word_eq_fieldSum h [3, 1, 2, 2, 4, 4, 5, 5, 6] rfl, fld_append w 0 3 1,
    fld_append w 3 1 2, fld_append w 4 2 2, fld_append w 0 4 2, fld_append w 0 4 4, fld_append w 16 5 5⟩
  simp only [fieldSum, Nat.reduceAdd] at cuts
  refine ⟨fun hm => ?_, fun hm => ?_, fun hm => ?_, fun hm => ?_⟩
  all_goals simp only [decodeVcf, decodeMat, decodeMcf, decodeObs]
  all_goals split
  all_goals simp only [spells_iff]
  all_goals
    intros
    exact congrArg some (by simp only [regs, field_values]; omega)

theorem decodeCpy_spells (h : w < 2 ^ 32) (hm : fld w 26 6 = 50) : Spells encode? w (decodeCpy w) := by
  have cuts : _ ∧ _ ∧ _ ∧ _ := ⟨word_eq_fieldSum h [3, 1, 4, 4, 4, 5, 5, 6] rfl, fld_append w 0 3 1,
    fld_append w 0 4 4, fld_append w 16 5 5⟩
  simp only [fieldSum, Nat.reduceAdd] at cuts
  unfold decodeCpy
  split
  all_goals simp only [spells_iff]
  all_goals
    intros
    exact congrArg some (by simp only [regs, field_values]; omega)

theorem decodeQrn_spells (h : w < 2 ^ 32) (hm : fld w 26 6 = 51) : Spells encode? w (decodeQrn w) := by
  have cuts : _ ∧ _ ∧ _ ∧ _ ∧ _ ∧ _ := ⟨word_eq_fieldSum h [3, 2, 2, 1, 4, 4, 5, 5, 6] rfl, fld_append w 0 3 5,
    fld_append w 3 2 3, fld_append w 5 2 1, fld_append w 3 2 2, fld_append w 16 5 5⟩
  simp only [fieldSum, Nat.reduceAdd] at cuts
  unfold decodeQrn
  split
  all_goals simp only [spells_iff]
  all_goals
    intros
    exact congrArg some (by simp only [regs, field_values]; omega)

/-- The majors whose low bits hold a command alone (R302, R347, R400). -/
theorem decodeModule_spells (h : w < 2 ^ 32) :
    (fld w 26 6 = 53 → Spells encode? w (decodeCol w)) ∧
    (fld w 26 6 = 55 → Spells encode? w (decodeVir w)) ∧
    (fld w 26 6 = 56 → Spells encode? w (decodePwr w)) := by
  have cuts : _ ∧ _ ∧ _ ∧ _ := ⟨word_eq_fieldSum h [4, 4, 4, 4, 5, 5, 6] rfl, fld_append w 0 4 4, fld_append w 4 4 4,
    fld_append w 16 5 5⟩
  simp only [fieldSum, Nat.reduceAdd] at cuts
  refine ⟨fun hm => ?_, fun hm => ?_, fun hm => ?_⟩
  all_goals simp only [decodeCol, decodeVir, decodePwr]
  all_goals split
  all_goals simp only [spells_iff]
  all_goals
    intros
    exact congrArg some (by simp only [regs, field_values]; omega)

theorem decodeGrf_spells (h : w < 2 ^ 32) (hm : fld w 26 6 = 54) : Spells encode? w (decodeGrf w) := by
  have cuts : _ ∧ _ ∧ _ ∧ _ ∧ _ ∧ _ ∧ _ ∧ _ := ⟨word_eq_fieldSum h [1, 1, 1, 1, 4, 4, 4, 5, 5, 6] rfl,
    fld_append w 0 1 1, fld_append w 0 2 1, fld_append w 0 3 5, fld_append w 3 1 4, fld_append w 2 1 5,
    fld_append w 1 1 6, fld_append w 16 5 5⟩
  simp only [fieldSum, Nat.reduceAdd] at cuts
  unfold decodeGrf
  split
  case' h_5 => split
  all_goals simp only [spells_iff]
  all_goals
    intros
    exact congrArg some (by simp only [regs, field_values]; omega)

/-! ## Every word that decodes -/

theorem decodeHigh_spells (h : w < 2 ^ 32) : Spells High.word? w (decodeHigh w) := by
  have cuts := word_eq_fieldSum h [26, 6] rfl
  simp only [fieldSum, Nat.reduceAdd] at cuts
  unfold decodeHigh
  split
  case h_3 => exact decodeJr_spells h ‹_›
  case h_4 => exact decodeLoop_spells h ‹_›
  case h_5 => exact decodeFpu_spells h ‹_›
  case h_6 => exact decodeFcv_spells h ‹_›
  case h_7 => exact decodeSys_spells h ‹_›
  case h_8 => exact decodeCtx_spells h ‹_›
  case h_9 => exact spells_error _
  all_goals exact (spells_ok _).2 (congrArg some (by simp only [field_values]; omega))

theorem decodeLow_spells (h : w < 2 ^ 32) : Spells encode? w (decodeLow w) := by
  have himm := word_eq_fieldSum h [16, 5, 5, 6] rfl
  have hlong := word_eq_fieldSum h [21, 5, 6] rfl
  have hmem := word_eq_fieldSum h [4, 12, 5, 5, 6] rfl
  have hord := word_eq_fieldSum h [4, 3, 1, 1, 2, 5, 5, 5, 6] rfl
  have hmfc := word_eq_fieldSum h [7, 4, 10, 5, 6] rfl
  simp only [fieldSum, Nat.reduceAdd] at himm hlong hmem hord hmfc
  obtain ⟨hatw, hatd, hatx⟩ := decodeAtomic_spells h
  obtain ⟨hvec, hvex⟩ := decodeVector_spells h
  obtain ⟨hvcf, hmat, hmcf, hobs⟩ := decodeSelector_spells h
  obtain ⟨hcol, hvir, hpwr⟩ := decodeModule_spells h
  unfold decodeLow
  split
  case h_1 => exact decodeAlu_spells h ‹_›
  case h_8 => exact decodeShi_spells h ‹_›
  case h_11 => exact decodePal_spells h ‹_›
  case h_12 => exact decodeBit_spells h ‹_›
  case h_30 => exact hatw ‹_›
  case h_31 => exact hatd ‹_›
  case h_32 => exact hatx ‹_›
  case h_33 => exact decodeFence_spells h ‹_›
  case h_34 => exact decodeBr_spells h ‹_›
  case h_35 => exact decodeSync_spells h ‹_›
  case h_36 => exact decodeTag_spells h ‹_›
  case h_37 => exact decodeTile_spells h ‹_›
  case h_38 => exact hvec ‹_›
  case h_39 => exact hvcf ‹_›
  case h_40 => exact hmat ‹_›
  case h_41 => exact hmcf ‹_›
  case h_42 => exact decodeCpy_spells h ‹_›
  case h_43 => exact decodeQrn_spells h ‹_›
  case h_44 => exact hobs ‹_›
  case h_45 => exact hcol ‹_›
  case h_46 => exact decodeGrf_spells h ‹_›
  case h_47 => exact hvir ‹_›
  case h_48 => exact hpwr ‹_›
  case h_50 => exact hvex ‹_›
  all_goals simp only [spells_iff]
  all_goals
    intros
    exact congrArg some (by simp only [regs, field_values]; omega)

theorem spells_map {r : Except Reject High} (h : Spells High.word? w r) : Spells encode? w (r.map High.toInstr) := by
  cases r with
  | error e => exact spells_error e
  | ok i => exact (spells_ok _).2 ((spells_ok i).1 h)

theorem decodeFields_spells (h : w < 2 ^ 32) : Spells encode? w (decodeFields w) := by
  unfold decodeFields
  split
  · exact spells_map (decodeHigh_spells h)
  · exact decodeLow_spells h

/-- What the decoder answers: one word, that its fields spell and whose operands pass the checks (R53, R58). -/
theorem decodeWord_eq_ok_iff {i : Instr} :
    decodeWord w = .ok i ↔ w < 2 ^ 32 ∧ decodeFields w = .ok i ∧ i.WellFormed := by
  unfold decodeWord
  split
  case isFalse hw => simp only [reduceCtorEq, hw, false_and]
  case isTrue hw =>
    cases decodeFields w with
    | error r => simp only [reduceCtorEq, false_and, and_false]
    | ok j =>
      cases hc : j.check with
      | none =>
        simp only [hc, hw, Except.ok.injEq, true_and, iff_self_and]
        exact fun e => e ▸ hc
      | some r =>
        simp only [hc, hw, Except.ok.injEq, true_and, reduceCtorEq, false_iff, not_and]
        rintro rfl hi
        simp [hi] at hc

theorem decodeFields_unassigned {k : Nat} (hk : fld w 26 6 = k) (hmem : k ∈ [0x00, 0x3B, 0x3C, 0x3D, 0x3E, 0x3F]) :
    decodeFields w = .error .illegalMajor := by
  simp only [List.mem_cons, List.not_mem_nil, or_false] at hmem
  rcases hmem with rfl | rfl | rfl | rfl | rfl | rfl <;> simp [decodeFields, isHigh, decodeLow, hk]

theorem decodeWord_unassigned (hmem : w / 2 ^ 26 ∈ [0x00, 0x3B, 0x3C, 0x3D, 0x3E, 0x3F]) :
    decodeWord w = .error .illegalMajor := by
  have hmax : w / 2 ^ 26 < 2 ^ 6 := by
    generalize w / 2 ^ 26 = k at hmem
    revert k
    decide
  have hw : w < 2 ^ 32 := by omega
  rw [decodeWord, if_pos hw, decodeFields_unassigned (Nat.mod_eq_of_lt hmax) hmem]

end

/-- Settles O55: each branch of the decoder answers the instruction that the fields of its format spell (R53), and a
major that holds none has no branch (R58). -/
theorem everyLegalWordIsTheWordOfItsInstruction : Obligations.EveryLegalWordIsTheWordOfItsInstruction := by
  refine ⟨fun w i hd => ?_, fun w hmem => ⟨_, decodeWord_unassigned hmem⟩⟩
  obtain ⟨hw, hf, hwf⟩ := decodeWord_eq_ok_iff.1 hd
  exact ⟨hwf, decodeFields_spells hw i hf⟩

end Sys2Proof
end

section
/-! PROOFS. Every function of the model that answers a state keeps memory canonical (R15). Memory is written by `memSet` and
what is built of it, and cut by `List.filter`, and both keep the form (Laws/Memory); the rest follows the definitions, one
lemma for a function, in the order of the model's files. `State.Inv.f` says that the state which `f` answers is canonical
where the one that it takes is, `canon_f` the same of a meaning that answers an outcome, `OptInv.f` of one that may answer
none. -/

namespace Sys2Proof.Machine

/-! ## Results that hold a state -/

/-- Whatever state an outcome answers, its memory is canonical. -/
def Canon (o : Out) : Prop := ∀ t, o = .next t → t.Inv

theorem Canon.next {t : State} (ht : t.Inv) : Canon (.next t) := fun _ h => Host.Outcome.next.inj h ▸ ht

theorem Canon.fault (r : Fault) : Canon (.fault r) := nofun

/-- Whatever an option holds has the property. -/
def OptAll {α : Type} (p : α → Prop) (o : Option α) : Prop := ∀ x, o = some x → p x

theorem OptAll.some {α : Type} {p : α → Prop} {x : α} (hx : p x) : OptAll p (some x) := fun _ h => Option.some.inj h ▸ hx

theorem OptAll.none {α : Type} {p : α → Prop} : OptAll p none := nofun

theorem OptAll.map {α β : Type} {p : α → Prop} {q : β → Prop} {o : Option α} {f : α → β} (ho : OptAll p o)
    (hf : ∀ x, p x → q (f x)) : OptAll q (o.map f) := by
  cases o with
  | none => exact .none
  | some x => exact .some (hf x (ho x rfl))

theorem OptAll.bind {α β : Type} {p : α → Prop} {q : β → Prop} {o : Option α} {f : α → Option β} (ho : OptAll p o)
    (hf : ∀ x, p x → OptAll q (f x)) : OptAll q (o.bind f) := by
  cases o with
  | none => exact .none
  | some x => exact hf x (ho x rfl)

theorem OptAll.foldl {α β : Type} {p : α → Prop} {f : Option α → β → Option α} {l : List β} {o : Option α}
    (ho : OptAll p o) (hf : ∀ o x, OptAll p o → OptAll p (f o x)) : OptAll p (l.foldl f o) := by
  induction l generalizing o with
  | nil => exact ho
  | cons x l ih => exact ih (hf o x ho)

/-- Whatever state an option holds, its memory is canonical. -/
abbrev OptInv (o : Option State) : Prop := OptAll State.Inv o

theorem OptInv.some {t : State} (ht : t.Inv) : OptInv (some t) := OptAll.some ht

theorem OptInv.none : OptInv none := nofun

theorem OptInv.map {α : Type} {o : Option α} {f : α → State} (hf : ∀ x, (f x).Inv) : OptInv (o.map f) :=
  OptAll.map (p := fun _ => True) (fun _ _ => trivial) fun x _ => hf x

/-- The states that a command to the management processor, a command of a unit, of the virtualisation unit and of the graph
engine, and a fetch answer are canonical. -/
def McEnd.Inv : McEnd → Prop
  | .fail _ => True
  | .ok s _ => s.Inv
  | .report s _ => s.Inv
  | .later s => s.Inv

@[inherit_doc McEnd.Inv]
def CmdEnd.Inv : CmdEnd → Prop
  | .done s => s.Inv
  | .page s _ => s.Inv

@[inherit_doc McEnd.Inv]
def VirEnd.Inv : VirEnd → Prop
  | .fail _ => True
  | .ok s _ => s.Inv

@[inherit_doc McEnd.Inv]
def GrfEnd.Inv : GrfEnd → Prop
  | .fail _ => True
  | .ok s _ => s.Inv
  | .page s _ => s.Inv

@[inherit_doc McEnd.Inv]
def Issue.Inv : Issue → Prop
  | .done s => s.Inv
  | .word _ s => s.Inv

theorem VirEnd.Inv.ok {s : State} {res : Option Word} (hs : s.Inv) : (VirEnd.ok s res).Inv := hs

theorem McEnd.Inv.of_eq {a b : McEnd} (h : a = b) (ha : a.Inv) : b.Inv := h ▸ ha

theorem CmdEnd.Inv.of_eq {a b : CmdEnd} (h : a = b) (ha : a.Inv) : b.Inv := h ▸ ha

theorem Issue.Inv.of_eq {a b : Issue} (h : a = b) (ha : a.Inv) : b.Inv := h ▸ ha

/-! ## How invariants compose -/

theorem State.Inv.getD {o : Option State} {s : State} (ho : OptInv o) (hs : s.Inv) : (o.getD s).Inv := by
  cases o with
  | none => exact hs
  | some t => exact ho t rfl

theorem State.Inv.of_fst {α : Type} {p : State × α} {t : State} {r : α} (h : p = (t, r)) (hp : p.1.Inv) : t.Inv := by
  rw [h] at hp
  exact hp

theorem State.Inv.of_snd {α : Type} {p : α × State} {t : State} {r : α} (h : p = (r, t)) (hp : p.2.Inv) : t.Inv := by
  rw [h] at hp
  exact hp

theorem State.Inv.foldl {α : Type} {f : State → α → State} {l : List α} {s : State} (hs : s.Inv)
    (hf : ∀ t x, t.Inv → (f t x).Inv) : (l.foldl f s).Inv :=
  List.foldlRecOn l f hs fun t ht x _ => hf t x ht

theorem State.Inv.foldl_fst {α β : Type} {f : State × β → α → State × β} {l : List α} {p : State × β} (hp : p.1.Inv)
    (hf : ∀ p x, p.1.Inv → (f p x).1.Inv) : (l.foldl f p).1.Inv :=
  List.foldlRecOn (motive := fun p => p.1.Inv) l f hp fun p hp x _ => hf p x hp

theorem memFoldl_wf {α : Type} {f : Memory → α → Memory} {l : List α} {m : Memory} (hm : Memory.wf m = true)
    (hf : ∀ m x, Memory.wf m = true → Memory.wf (f m x) = true) : Memory.wf (l.foldl f m) = true :=
  List.foldlRecOn (motive := fun m => Memory.wf m = true) l f hm fun m hm x _ => hf m x hm

section
variable {s : State}

/-! ## Parts of the state (Machine/Ops) -/

theorem State.Inv.setCore {h c} (hs : s.Inv) : (s.setCore h c).Inv := hs

theorem State.Inv.modCore {h f} (hs : s.Inv) : (s.modCore h f).Inv := hs

theorem State.Inv.modThread {h tid f} (hs : s.Inv) : (s.modThread h tid f).Inv := hs

theorem State.Inv.modCur {f} (hs : s.Inv) : (s.modCur f).Inv := hs

theorem State.Inv.modCtx {c f} (hs : s.Inv) : (s.modCtx c f).Inv := hs

theorem State.Inv.modPart {p f} (hs : s.Inv) : (s.modPart p f).Inv := hs

theorem State.Inv.modVf {v f} (hs : s.Inv) : (s.modVf v f).Inv := hs

theorem State.Inv.modDie {d f} (hs : s.Inv) : (s.modDie d f).Inv := hs

theorem State.Inv.fresh (hs : s.Inv) : s.fresh.2.Inv := hs

theorem State.Inv.setG {n v} (hs : s.Inv) : (s.setG n v).Inv := hs

theorem State.Inv.setF {n v} (hs : s.Inv) : (s.setF n v).Inv := hs

theorem State.Inv.raise {f} (hs : s.Inv) : (s.raise f).Inv := hs

theorem State.Inv.raiseAt {h tid f} (hs : s.Inv) : (s.raiseAt h tid f).Inv := hs

theorem State.Inv.retire (hs : s.Inv) : s.retire.Inv := hs

theorem State.Inv.jumpTo {target cancels} (hs : s.Inv) : (s.jumpTo target cancels).Inv := hs

theorem State.Inv.block {w} (hs : s.Inv) : (s.block w).Inv := hs

theorem State.Inv.addPost {page target mp body w u} (hs : s.Inv) : (s.addPost page target mp body w u).2.Inv := hs

theorem inv_takeTrap {h tid k} (hs : s.Inv) : (takeTrap s h tid k).Inv := by
  unfold takeTrap
  extract_lets
  split <;> exact .modThread hs

theorem inv_lateFault {h tid f} (hs : s.Inv) : (lateFault s h tid f).Inv := hs

/-! ## Places of bytes (Machine/Home) -/

theorem State.Inv.hostPut {before a bs} (hs : s.Inv) : (s.hostPut before a bs).Inv := memStore_wf _ _ hs

theorem State.Inv.modEvicted {h u f} (hs : s.Inv) : (s.modEvicted h u f).Inv := hs

theorem State.Inv.sendInt {v k} (hs : s.Inv) : (s.sendInt v k).Inv := by
  unfold State.sendInt
  split <;> exact hs

theorem State.Inv.releaseGate {c} (hs : s.Inv) : (s.releaseGate c).Inv := by
  unfold State.releaseGate
  extract_lets _ _ s1
  have h1 : s1.Inv := .modPart hs
  clear_value s1
  split
  · exact h1
  · refine .foldl h1 fun _ _ h2 => ?_
    split
    · exact .foldl h2 fun _ _ h3 => .hostPut h3
    · exact .sendInt h2

theorem State.Inv.unprotect {c} (hs : s.Inv) : (s.unprotect c).Inv := .releaseGate (.modCtx hs)

theorem State.Inv.journal {c a} (hs : s.Inv) : (s.journal c a).Inv := by
  unfold State.journal
  split
  · exact hs
  · extract_lets
    split
    · exact hs
    · split
      · exact .unprotect hs
      · exact .modPart hs

theorem OptInv.gate {c g} (hs : s.Inv) : OptInv (s.gate c g) := by
  unfold State.gate
  split
  · exact .none
  · extract_lets
    split
    · exact .none
    · exact .some (.modPart hs)

theorem State.Inv.healed {a n} (hs : s.Inv) : (s.healed a n).Inv := hs

theorem State.Inv.writeMem {c a bs} (hs : s.Inv) : (s.writeMem c a bs).Inv := by
  unfold State.writeMem
  split
  · exact memStore_wf _ _ (State.Inv.journal hs)
  · split
    rename_i t1 h1
    have h2 : t1.Inv := .of_snd h1 (.fresh hs)
    split
    · rename_i t2 h3
      have h4 : t2.Inv := OptInv.gate h2 _ h3
      exact h4
    · refine .hostPut ?_
      split
      · exact .unprotect h2
      · exact h2
  · exact memStore_wf _ _ hs

theorem State.Inv.writeLoc {c l bs} (hs : s.Inv) : (s.writeLoc c l bs).Inv := by
  unfold State.writeLoc
  split
  · exact .writeMem hs
  · exact .modEvicted hs

theorem State.Inv.strike {c} (hs : s.Inv) : (s.strike c).Inv := hs

theorem State.Inv.localStore {h off bs} (hs : s.Inv) : (s.localStore h off bs).Inv :=
  .foldl hs fun _ _ h1 => memSet_wf _ _ h1

/-! ## Translation (Machine/Mmu) -/

theorem State.Inv.s2Walk {w c g k} (hs : s.Inv) : (s.s2Walk w c g k).1.Inv := by
  unfold State.s2Walk
  split
  · exact hs
  · split
    · exact hs
    · exact .strike hs
    · exact hs

theorem State.Inv.walkGo {w c va k n lvl tab} (hs : s.Inv) : (s.walkGo w c va k n lvl tab).1.Inv := by
  induction n generalizing s lvl tab with
  | zero => exact hs
  | succ n ih =>
    unfold State.walkGo
    extract_lets ea
    split
    next t r h =>
    have ht := State.Inv.of_fst h (.s2Walk hs)
    split
    · split
      · exact ht
      · split
        · exact .strike ht
        · exact ht
        · split
          · exact ht
          · split
            · extract_lets g
              split
              · exact ht
              · split
                next u r' h' =>
                have hu := State.Inv.of_fst h' (.s2Walk ht)
                split
                · split <;> exact hu
                · exact hu
            · exact ih ht
    · exact ht

theorem State.Inv.fillTlbs {h k e} (hs : s.Inv) : (s.fillTlbs h k e).Inv := hs

theorem State.Inv.pick (hs : s.Inv) : s.pick.2.Inv := by
  unfold State.pick
  split <;> exact hs

theorem State.Inv.translate {h c va k} (hs : s.Inv) : (s.translate h c va k).1.Inv := by
  unfold State.translate
  extract_lets
  split
  · exact hs
  · split
    · exact hs
    · split
      rename_i t1 h1
      have h2 : t1.Inv := .of_snd h1 (.pick hs)
      split
      rename_i t2 _ h3
      have h4 : t2.Inv := .of_fst h3 (.walkGo h2)
      split
      · exact .fillTlbs h4
      · exact h4
      · exact h4

theorem State.Inv.pageFault {c h tid agent va k f} (hs : s.Inv) : (s.pageFault c h tid agent va k f).1.Inv := by
  unfold State.pageFault
  extract_lets
  split
  · exact hs
  · split
    · exact hs
    · split
      split
      · exact hs
      · exact .modCtx hs

theorem State.Inv.answerTag {c tag deny} (hs : s.Inv) : (s.answerTag c tag deny).Inv := hs

theorem State.Inv.dropVa {c all first n} (hs : s.Inv) : (s.dropVa c all first n).Inv := hs

theorem State.Inv.dropGpa {c lo hi} (hs : s.Inv) : (s.dropGpa c lo hi).Inv := hs

theorem State.Inv.dropCtx {c} (hs : s.Inv) : (s.dropCtx c).Inv := hs

/-! ## Images and reads through translation (Machine/Image) -/

theorem State.Inv.engineTranslate {h tid c agent va k} (hs : s.Inv) :
    (s.engineTranslate h tid c agent va k).1.Inv := by
  unfold State.engineTranslate
  split
  rename_i t1 _ h1
  have h2 : t1.Inv := .of_fst h1 (.translate hs)
  split
  · exact h2
  · exact h2
  · split
    rename_i t2 _ h3
    have h4 : t2.Inv := .of_fst h3 (.pageFault h2)
    exact h4

theorem State.Inv.readVa {h tid c agent k va n} (hs : s.Inv) : (s.readVa h tid c agent k va n).1.Inv := by
  unfold State.readVa
  refine .foldl_fst hs fun _ _ h1 => ?_
  split
  split
  split
  · split
    rename_i t1 _ h2
    have h3 : t1.Inv := .of_fst h2 (.engineTranslate h1)
    split
    · split
      · split
        · exact .strike h3
        · exact h3
      · exact h3
    · exact h3
    · exact h3
  · exact h1

theorem State.Inv.readLocals {h tid c va l} (hs : s.Inv) : (State.readLocals s h tid c va l).1.Inv := by
  induction l generalizing s with
  | nil => exact hs
  | cons x xs ih =>
    unfold State.readLocals
    split
    · split
      next t r h =>
      have ht := State.Inv.of_fst h (.readVa hs)
      split
      · split
        next u r' h' =>
        have hu := State.Inv.of_fst h' (ih ht)
        split <;> exact hu
      · exact ht
      · exact ht
    · exact ih hs

theorem State.Inv.mapped {h tid c l} (hs : s.Inv) : (State.mapped s h tid c l).1.Inv := by
  induction l generalizing s with
  | nil => exact hs
  | cons x xs ih =>
    unfold State.mapped
    split
    · split
      next t r h =>
      have ht : t.Inv := by
        refine .of_fst h (.foldl_fst hs fun p y hp => ?_)
        split
        split
        split
        · split
          next h' => exact .of_fst h' (.engineTranslate hp)
        · exact hp
      split
      · exact ih ht
      · exact ht
    · exact ih hs

theorem State.Inv.readImage {h tid c va} (hs : s.Inv) : (s.readImage h tid c va).1.Inv := by
  unfold State.readImage
  extract_lets
  split
  rename_i t1 _ h1
  have h2 : t1.Inv := .of_fst h1 (.readVa hs)
  split
  · exact h2
  · exact h2
  · split
    · exact h2
    · split
      rename_i t2 _ h3
      have h4 : t2.Inv := .of_fst h3 (.readVa h2)
      split
      · exact h4
      · exact h4
      · extract_lets
        split
        · exact h4
        · split
          · exact h4
          · split
            rename_i t3 _ h5
            have h6 : t3.Inv := .of_fst h5 (.mapped h4)
            split
            · exact h6
            · exact h6
            · split
              rename_i t4 _ h7
              have h8 : t4.Inv := .of_fst h7 (.readLocals h6)
              split
              · exact h8
              · exact h8
              · split <;> exact h8

/-! ## The links (Machine/Net) -/

theorem State.Inv.modSeg {n f} (hs : s.Inv) : (s.modSeg n f).Inv := hs

theorem State.Inv.modPort {n f} (hs : s.Inv) : (s.modPort n f).Inv := hs

theorem State.Inv.netSend {m} (hs : s.Inv) : (s.netSend m).Inv := hs

theorem State.Inv.leaveGroups {b} (hs : s.Inv) : (s.leaveGroups b).Inv :=
  .foldl hs fun _ _ h1 => .netSend (.modSeg h1)

theorem State.Inv.abortGroups {b} (hs : s.Inv) : (s.abortGroups b).Inv := by
  unfold State.abortGroups
  split
  · exact hs
  · exact .foldl hs fun _ _ h1 => .netSend h1

theorem State.Inv.endFarLease {b} (hs : s.Inv) : (s.endFarLease b).Inv := by
  unfold State.endFarLease
  refine .foldl hs fun _ _ h1 => ?_
  split
  · exact .netSend h1
  · exact h1

theorem State.Inv.dropHandles {a1} (hs : s.Inv) : (s.dropHandles a1).Inv := by
  unfold State.dropHandles
  refine .foldl hs fun _ _ h1 => ?_
  split
  · exact h1
  · extract_lets s1
    have h2 : s1.Inv := .abortGroups h1
    refine .leaveGroups ?_
    clear_value s1
    split
    · exact h2
    · exact .endFarLease h2

theorem State.Inv.colSend {die k o hop node p} (hs : s.Inv) : (s.colSend die k o hop node p).Inv := hs

theorem State.Inv.colAbort {die k o} (hs : s.Inv) : (s.colAbort die k o).Inv := .foldl hs fun _ _ h1 => .colSend h1

theorem State.Inv.abortCollectives {p} (hs : s.Inv) : (s.abortCollectives p).Inv :=
  .foldl hs fun _ _ h1 => .foldl h1 fun _ _ h2 => .foldl h2 fun _ _ h3 => .colAbort h3

/-! ## Launches, units and phases (Machine/Sched) -/

theorem State.Inv.modLaunch {l f} (hs : s.Inv) : (s.modLaunch l f).Inv := hs

theorem State.Inv.setUnit {l i u} (hs : s.Inv) : (s.setUnit l i u).Inv := hs

theorem State.Inv.raiseInt {v k} (hs : s.Inv) : (s.raiseInt v k).2.Inv := hs

theorem State.Inv.setInt {v k} (hs : s.Inv) : (s.setInt v k).Inv := by
  unfold State.setInt
  split
  rename_i t1 h1
  have h2 : t1.Inv := .of_snd h1 (.raiseInt hs)
  split
  · exact .sendInt h2
  · exact h2

theorem State.Inv.setJobInt {c v k} (hs : s.Inv) : (s.setJobInt c v k).Inv := by
  unfold State.setJobInt
  split
  rename_i t1 h1
  have h2 : t1.Inv := .of_snd h1 (.raiseInt hs)
  split
  · exact h2
  · split
    · rename_i t2 h3
      have h4 : t2.Inv := OptInv.gate h2 _ h3
      exact h4
    · refine .sendInt ?_
      split
      · exact .unprotect h2
      · exact h2

theorem State.Inv.clearBank {h n} (hs : s.Inv) : (s.clearBank h n).Inv := memFilter_wf _ hs

theorem State.Inv.spillBank {h n} (hs : s.Inv) : (s.spillBank h n).Inv := by
  unfold State.spillBank
  extract_lets
  split
  · exact hs
  · exact .modEvicted hs

theorem State.Inv.reloadBank {h n u b} (hs : s.Inv) : (State.reloadBank s h n u b).Inv := by
  unfold State.reloadBank
  extract_lets s1 a s2
  have h1 : s2.Inv := memFoldl_wf (State.Inv.clearBank hs) fun _ _ hm => memSet_wf _ _ hm
  exact .modCore h1

theorem State.Inv.flushLocal {h u} (hs : s.Inv) : (State.flushLocal s h u).Inv := by
  unfold State.flushLocal
  split
  · exact hs
  · extract_lets mine t
    have ht : t.Inv := .foldl hs fun s a h => by
      split
      · exact .getD (.map fun _ => .writeLoc h) h
      · exact h
    exact ht

theorem State.Inv.modCoreOf {p h f} (hs : s.Inv) : (s.modCoreOf p h f).Inv := by
  unfold State.modCoreOf
  split
  · exact hs
  · exact .modCore hs

theorem State.Inv.dropLeaves {h u keepCopies} (hs : s.Inv) : (s.dropLeaves h u keepCopies).Inv := hs

theorem State.Inv.clearUnit {h u keepCopies} (hs : s.Inv) : (s.clearUnit h u keepCopies).Inv :=
  .modPart (.modCoreOf (.dropLeaves (.dropHandles (.flushLocal hs))))

theorem State.Inv.predict {c site mode hint nu} (hs : s.Inv) : (s.predict c site mode hint nu).1.Inv := by
  unfold State.predict
  split <;> exact hs

theorem State.Inv.predUpdate {c site t} (hs : s.Inv) : (s.predUpdate c site t).Inv := by
  unfold State.predUpdate
  split <;> exact hs

theorem State.Inv.dropHeld {u} (hs : s.Inv) : (s.dropHeld u).Inv := by
  unfold State.dropHeld
  extract_lets s1 _ s2
  have h1 : s1.Inv := hs
  have h2 : s2.Inv := .foldl h1 fun _ _ h3 => h3
  exact h2

theorem State.Inv.releaseHeld {u} (hs : s.Inv) : (s.releaseHeld u).Inv := hs

theorem State.Inv.squash {u h last} (hs : s.Inv) : (State.squash s u h last).Inv := by
  unfold State.squash
  extract_lets t t'
  have ht : t.Inv := .clearUnit hs
  clear_value t
  have ht' : t'.Inv := ht
  exact .setUnit (.dropHeld ht')

theorem State.Inv.confirmUnit {c l i a4} (hs : s.Inv) : (s.confirmUnit c l i a4).Inv := by
  unfold State.confirmUnit
  split
  · exact .setUnit hs
  · exact .releaseHeld (.setUnit hs)
  · exact .releaseHeld (.modCoreOf hs)
  · exact .releaseHeld (.modCoreOf hs)
  · exact hs

theorem State.Inv.trimUnit {c l i a4} (hs : s.Inv) : (s.trimUnit c l i a4).Inv := by
  unfold State.trimUnit
  extract_lets
  split
  · exact .squash hs
  · exact .squash hs
  · exact .setUnit (.dropHeld hs)
  · exact .setUnit hs
  · exact hs

theorem State.Inv.applyShape {l shape} (hs : s.Inv) : (s.applyShape l shape).Inv := by
  unfold State.applyShape
  split
  · exact hs
  · extract_lets _ _ s1 _ s2
    have h1 : s1.Inv := by
      unfold s1
      refine .foldl hs fun _ _ h2 => ?_
      split
      · exact .confirmUnit h2
      · exact .trimUnit h2
    have h3 : s2.Inv := .modLaunch h1
    exact .predUpdate h3

theorem State.Inv.archive {n} (hs : s.Inv) : (s.archive n).Inv := by
  unfold State.archive
  split <;> exact hs

theorem State.Inv.freshOrder (hs : s.Inv) : s.freshOrder.2.Inv := hs

theorem State.Inv.accept {d img k} (hs : s.Inv) : (s.accept d img k).1.Inv := by
  unfold State.accept
  extract_lets _ _ s1
  have h1 : s1.Inv := .archive hs
  split
  rename_i t1 _ h2
  have h3 : t1.Inv := by
    refine .of_fst h2 ?_
    split
    · exact .predict h1
    · exact h1
  extract_lets s2
  have h4 : s2.Inv := .modCtx h3
  split
  rename_i t2 h5
  have h6 : t2.Inv := .of_snd h5 (.freshOrder h4)
  extract_lets _ s3
  have h7 : s3.Inv := h6
  split
  · exact .modLaunch (.applyShape h7)
  · exact h7

theorem State.Inv.commitPhase {c} (hs : s.Inv) : (s.commitPhase c).Inv := .modCtx (.modPart (.releaseGate hs))

theorem State.Inv.boundary {c opening start} (hs : s.Inv) : (s.boundary c opening start).Inv := by
  unfold State.boundary
  extract_lets _ s1
  have h1 : s1.Inv := by
    unfold s1
    split
    · exact .modCtx (.commitPhase hs)
    · exact .modCtx hs
  exact .modCtx h1

theorem State.Inv.startJob {c image arg cls vf start} (hs : s.Inv) : (s.startJob c image arg cls vf start).Inv :=
  .boundary (.modCtx hs)

theorem State.Inv.startUnit {n i h prov raised} (hs : s.Inv) : (s.startUnit n i h prov raised).Inv := by
  unfold State.startUnit
  split
  · exact hs
  · exact .setUnit (.modCore (.foldl (.foldl hs fun _ _ h1 => .modCore (.clearBank (.spillBank h1))) fun _ _ h1 => .localStore h1))

theorem State.Inv.returnUnit {n i h raised} (hs : s.Inv) : (s.returnUnit n i h raised).Inv := by
  unfold State.returnUnit
  split
  · exact hs
  · exact .setUnit (.modCore (.foldl hs fun _ _ h1 => .reloadBank (.spillBank h1)))

theorem State.Inv.place {w h} (hs : s.Inv) : (s.place w h).Inv := by
  unfold State.place
  split
  · exact .returnUnit hs
  · exact .startUnit hs

theorem State.Inv.evict {h} (hs : s.Inv) : (s.evict h).Inv := by
  unfold State.evict
  extract_lets
  split
  · exact hs
  · exact .setUnit (.modPart (.setCore hs))

theorem State.Inv.addEnergy {n nj} (hs : s.Inv) : (s.addEnergy n nj).Inv := by
  unfold State.addEnergy
  split
  · exact hs
  · extract_lets s1 _ s2
    have h1 : s1.Inv := .modLaunch hs
    have h2 : s2.Inv := .modLaunch h1
    clear_value s1
    split
    · exact h2
    · exact h1

theorem State.Inv.placeOne {pool w} (hs : s.Inv) : (s.placeOne pool w).Inv := by
  unfold State.placeOne
  split
  · exact .place hs
  · split
    · exact .place (.evict hs)
    · exact hs

theorem State.Inv.placeAll {p} (hs : s.Inv) : (s.placeAll p).Inv := .foldl hs fun _ _ h1 => .placeOne h1

theorem State.Inv.cancelHere {h u} (hs : s.Inv) : (s.cancelHere h u).Inv := .setUnit (.clearUnit hs)

theorem State.Inv.cancelUnit {n i} (hs : s.Inv) : (s.cancelUnit n i).Inv := by
  unfold State.cancelUnit
  split
  · exact hs
  · extract_lets
    split
    · exact .setUnit (.modLaunch hs)
    · exact .setUnit (.dropHeld (.modLaunch hs))
    · split
      · exact .squash (.modLaunch hs)
      · exact .cancelHere (.modLaunch hs)
    · split
      · exact .squash (.modLaunch hs)
      · exact .modCoreOf (.modLaunch hs)
    · exact hs
    · split
      · exact .setUnit (.modLaunch hs)
      · exact hs

theorem State.Inv.cancelLaunch {n} (hs : s.Inv) : (s.cancelLaunch n).Inv := by
  unfold State.cancelLaunch
  split
  · exact hs
  · split
    · exact hs
    · extract_lets s1
      have h1 : s1.Inv := .modLaunch hs
      refine .foldl h1 fun _ _ h2 => ?_
      split
      · exact h2
      · exact .cancelUnit h2

theorem State.Inv.cancelGraph {c k} (hs : s.Inv) : (s.cancelGraph c k).Inv := by
  unfold State.cancelGraph
  split
  · exact hs
  · extract_lets s1
    have h1 : s1.Inv := by
      unfold s1
      refine .foldl hs fun _ _ h2 => ?_
      split
      · split
        · exact h2
        · exact .cancelLaunch h2
      · exact h2
    exact .modCtx h1

theorem State.Inv.cancelJob {c} (hs : s.Inv) : (s.cancelJob c).Inv := by
  unfold State.cancelJob
  extract_lets s1 s2
  have h1 : s1.Inv := by
    unfold s1
    refine .foldl hs fun _ _ h2 => ?_
    split
    · exact .cancelGraph h2
    · exact h2
  have h3 : s2.Inv := by
    unfold s2
    refine .foldl h1 fun _ _ h4 => ?_
    split
    · exact .cancelLaunch h4
    · exact h4
  exact .modCtx h3

/-! ## Records and replies (Machine/Mailbox) -/

theorem State.Inv.setLocal8 {h off v} (hs : s.Inv) : (s.setLocal8 h off v).Inv := .localStore hs

theorem State.Inv.fillRecord {h base n body} (hs : s.Inv) : (s.fillRecord h base n body).Inv :=
  .setLocal8 (.setLocal8 (.setLocal8 (.setLocal8 (.setLocal8 (.setLocal8 (.setLocal8 (.setLocal8 (.setLocal8 hs))))))))

theorem State.Inv.modUnitThread {h u tid f} (hs : s.Inv) : (s.modUnitThread h u tid f).Inv := hs

theorem State.Inv.applyReply {p code epc} (hs : s.Inv) : (s.applyReply p code epc).Inv := by
  unfold State.applyReply
  split
  · exact .answerTag hs
  · split
    · exact .modUnitThread hs
    · exact .cancelUnit hs
  · split
    · exact .modCoreOf hs
    · exact .cancelUnit hs
  · exact hs

theorem State.Inv.freeCopy {c} (hs : s.Inv) : (s.freeCopy c).Inv := .setLocal8 (.setLocal8 hs)

theorem State.Inv.freeCopies {p} (hs : s.Inv) : (s.freeCopies p).Inv := by
  unfold State.freeCopies
  split
  · exact .foldl hs fun _ _ h1 => .freeCopy h1
  · exact hs

theorem State.Inv.consumeRaw {p code epc} (hs : s.Inv) : (s.consumeRaw p code epc).Inv := by
  unfold State.consumeRaw
  extract_lets s1 s2
  have h1 : s1.Inv := .freeCopies hs
  have h2 : s2.Inv := h1
  exact .applyReply h2

theorem State.Inv.startInval {i} (hs : s.Inv) : (s.startInval i).Inv := by
  unfold State.startInval
  split
  · exact hs
  · exact .dropVa hs

theorem State.Inv.invalWrite {h base} (hs : s.Inv) : (s.invalWrite h base).Inv := by
  unfold State.invalWrite
  split
  · exact hs
  · extract_lets _ _ s1
    have h1 : s1.Inv := by
      unfold s1
      split
      · exact hs
      · exact .startInval hs
    split
    · exact hs
    · exact h1

theorem State.Inv.replyHook {h r} (hs : s.Inv) : (s.replyHook h r).Inv := by
  unfold State.replyHook
  extract_lets
  split
  · exact hs
  · split
    · exact .consumeRaw hs
    · exact .freeCopy hs

theorem State.Inv.hookRaw {h off n} (hs : s.Inv) : (s.hookRaw h off n).Inv := by
  unfold State.hookRaw
  split
  · exact hs
  · extract_lets _ s1
    have h1 : s1.Inv := by
      unfold s1
      refine .foldl hs fun _ _ h2 => ?_
      extract_lets
      split
      · exact .replyHook h2
      · exact h2
    clear_value s1
    split
    · exact .invalWrite h1
    · exact h1

theorem State.Inv.storeRaw {c l bs} (hs : s.Inv) : (s.storeRaw c l bs).Inv := by
  unfold State.storeRaw
  extract_lets s1
  have h1 : s1.Inv := .writeLoc hs
  split
  · clear_value s1
    split
    · exact .hookRaw h1
    · exact h1
  · exact h1

theorem State.Inv.writeVa8 {h tid c agent k va v} (hs : s.Inv) : (s.writeVa8 h tid c agent k va v).1.Inv := by
  unfold State.writeVa8
  split
  rename_i t1 _ h1
  have h2 : t1.Inv := .of_fst h1 (.engineTranslate hs)
  split
  · split
    · exact .storeRaw h2
    · exact h2
  · exact h2
  · exact h2

/-! ## What follows of itself (Machine/Settle) -/

theorem State.Inv.finalSlot {c l slot} (hs : s.Inv) : (s.finalSlot c l slot).Inv := by
  unfold State.finalSlot
  split
  · exact .modCtx hs
  · exact hs

theorem State.Inv.finishNode {c g status} (hs : s.Inv) : (s.finishNode c g status).Inv := by
  unfold State.finishNode
  split
  · exact .modCtx hs
  · exact hs

theorem State.Inv.dropArrivals {n c} (hs : s.Inv) : (s.dropArrivals n c).Inv := hs

theorem State.Inv.endLaunch {n l} (hs : s.Inv) : (s.endLaunch n l).Inv :=
  .finishNode (.finalSlot (.modLaunch (.modCtx (.dropArrivals hs))))

theorem State.Inv.completeLaunch {n l} (hs : s.Inv) : (s.completeLaunch n l).Inv := by
  unfold State.completeLaunch
  split
  · exact .endLaunch hs
  · extract_lets
    split
    rename_i t1 _ h1
    have h2 : t1.Inv := by
      refine .of_fst h1 ?_
      split
      · exact hs
      · exact .writeVa8 hs
    split
    · exact .endLaunch h2
    · exact .modLaunch h2
    · split
      rename_i t2 _ h3
      have h4 : t2.Inv := .of_fst h3 (.writeVa8 h2)
      split
      · exact .modLaunch h4
      · exact .endLaunch h4

theorem State.Inv.failRecord {c g d status} (hs : s.Inv) : (s.failRecord c g d status).Inv := by
  unfold State.failRecord
  split <;> exact hs

theorem State.Inv.writeRec {r} (hs : s.Inv) : (s.writeRec r).Inv := by
  unfold State.writeRec
  extract_lets _ s1
  have h1 : s1.Inv := hs
  clear_value s1
  split
  · exact h1
  · split
    rename_i t1 _ h2
    have h3 : t1.Inv := by
      refine .of_fst h2 ?_
      split
      · exact h1
      · exact .writeVa8 h1
    split
    · exact h3
    · exact h3
    · split
      rename_i t2 _ h4
      have h5 : t2.Inv := .of_fst h4 (.writeVa8 h3)
      split <;> exact h5

theorem State.Inv.modNode {c k n f} (hs : s.Inv) : (s.modNode c k n f).Inv := hs

theorem State.Inv.launchNode {c k n g y} (hs : s.Inv) : (s.launchNode c k n g y).Inv := by
  unfold State.launchNode
  extract_lets
  split
  · exact .finishNode (.failRecord hs)
  · split
    · exact .finishNode (.failRecord hs)
    · split
      · exact .finishNode (.failRecord hs)
      · split
        · exact .finishNode (.failRecord hs)
        · split
          rename_i t1 _ h1
          have h2 : t1.Inv := .of_fst h1 (.readImage hs)
          split
          · exact .modNode h2
          · exact .finishNode (.failRecord h2)
          · split
            rename_i t2 _ h3
            have h4 : t2.Inv := .of_fst h3 (.accept h2)
            exact .modNode h4

theorem State.Inv.dropColQueues {cs} (hs : s.Inv) : (s.dropColQueues cs).Inv := by
  unfold State.dropColQueues
  extract_lets s1
  have h1 : s1.Inv := .abortCollectives hs
  exact h1

theorem State.Inv.jobDone {c v res} (hs : s.Inv) : (s.jobDone c v res).Inv := by
  unfold State.jobDone
  extract_lets s1
  have h1 : s1.Inv := .modVf hs
  split
  · exact .releaseGate (.setJobInt h1)
  · exact .setInt h1

theorem State.Inv.completeJob {c} (hs : s.Inv) : (s.completeJob c).Inv := by
  unfold State.completeJob
  extract_lets _ s1 _ s2 s3
  have h1 : s1.Inv := by
    unfold s1
    split
    · exact .commitPhase hs
    · exact hs
  have h2 : s2.Inv := h1
  have h3 : s3.Inv := by
    unfold s3
    split
    · exact .jobDone h2
    · exact h2
  exact .dropColQueues (.modCtx h3)

theorem State.Inv.launchJob {c h tid image arg} (hs : s.Inv) : (s.launchJob c h tid image arg).1.Inv := by
  unfold State.launchJob
  split
  · exact hs
  · split
    rename_i t1 _ h1
    have h2 : t1.Inv := .of_fst h1 (.readImage hs)
    split
    · extract_lets
      split
      rename_i t2 _ h3
      have h4 : t2.Inv := .of_fst h3 (.accept h2)
      exact h4
    · exact h2

theorem State.Inv.relaunch {c a2} (hs : s.Inv) : (s.relaunch c a2).Inv := by
  unfold State.relaunch
  split
  · exact .modCtx hs
  · split
    rename_i t1 _ _ h1
    have h2 : t1.Inv := .of_fst h1 (.launchJob hs)
    split
    · exact .modCtx h2
    · exact .modCtx h2
    · exact .modCtx (.modLaunch h2)

theorem OptInv.settleStep (hs : s.Inv) : OptInv (State.settleStep s) := by
  unfold State.settleStep
  split
  · exact .some (.applyShape hs)
  · split
    · exact .some (.completeLaunch hs)
    · split
      · exact .some (.writeRec hs)
      · split
        · exact .some (.launchNode hs)
        · split
          · exact .some (.modCtx hs)
          · split
            · exact .some (.relaunch hs)
            · exact .map fun _ => .completeJob hs

theorem State.Inv.settleGo {n} (hs : s.Inv) : (State.settleGo n s).Inv := by
  induction n generalizing s with
  | zero => exact hs
  | succ n ih =>
    unfold State.settleGo
    split
    · next t h => exact ih (OptInv.settleStep hs t h)
    · exact hs

theorem State.Inv.settle (hs : s.Inv) : s.settle.Inv := .settleGo hs

theorem State.Inv.stopUnit {h} (hs : s.Inv) : (s.stopUnit h).Inv := by
  unfold State.stopUnit
  split
  · exact hs
  · exact .settle (.setUnit (.clearUnit hs))

theorem State.Inv.completeUnit {h} (hs : s.Inv) : (s.completeUnit h).Inv := by
  unfold State.completeUnit
  split
  · exact hs
  · exact .settle (.setUnit (.clearUnit hs))

theorem State.Inv.accessOver {u} (hs : s.Inv) : (s.accessOver u).Inv := by
  unfold State.accessOver
  split
  · exact .settle hs
  · exact hs

theorem State.Inv.settleFrom {t : State} (hs : s.Inv) : (s.settleFrom t).Inv := by
  unfold State.settleFrom
  split
  · exact hs
  · exact .settle hs

theorem State.Inv.storeLoc {c l bs} (hs : s.Inv) : (s.storeLoc c l bs).Inv := .settleFrom (.storeRaw hs)

theorem State.Inv.mailboxWrite {h off v} (hs : s.Inv) : (s.mailboxWrite h off v).Inv :=
  .settleFrom (.hookRaw (.setLocal8 hs))

theorem State.Inv.consume {p code epc} (hs : s.Inv) : (s.consume p code epc).Inv := .settle (.consumeRaw hs)

theorem State.Inv.postRecord {id} (hs : s.Inv) : (State.postRecord s id).Inv := by
  unfold State.postRecord
  split
  · exact hs
  · split
    · exact hs
    · split
      · exact .consume hs
      · extract_lets
        split
        · exact hs
        · extract_lets t
          have ht : t.Inv := .fillRecord hs
          clear_value t
          exact ht

theorem State.Inv.report {r tenant} (hs : s.Inv) : (s.report r tenant).Inv := by
  unfold State.report
  extract_lets _ s1
  have h1 : s1.Inv := hs
  clear_value s1
  split
  · exact .setInt h1
  · exact h1

theorem State.Inv.flushWrite {a} (hs : s.Inv) : (State.flushWrite s a).Inv := by
  unfold State.flushWrite
  split
  · exact hs
  · extract_lets
    split
    · exact .report hs
    · exact .getD (.map fun _ => .storeRaw hs) hs

theorem State.Inv.orphanPosts {c} (hs : s.Inv) : (s.orphanPosts c).Inv := hs

theorem State.Inv.stopJob {c} (hs : s.Inv) : (s.stopJob c).Inv := by
  unfold State.stopJob
  extract_lets s1 s2 _ s3 s4
  have h1 : s1.Inv := by
    unfold s1
    refine .foldl hs fun _ _ h2 => ?_
    split
    · exact .flushWrite h2
    · exact h2
  have h3 : s2.Inv := .orphanPosts (.abortCollectives h1)
  have h4 : s3.Inv := h3
  have h5 : s4.Inv := by
    unfold s4
    refine .foldl h4 fun _ _ h6 => ?_
    split
    · refine .foldl h6 fun _ _ h7 => ?_
      split
      · exact .clearUnit h7
      · exact .clearUnit h7
      · exact h7
    · exact h6
  exact h5

theorem memPage_wf {m : Memory} {page : Nat} {bs : Memory} (hm : Memory.wf m = true) : Memory.wf (memPage m page bs) = true :=
  memFoldl_wf (memFilter_wf _ hm) fun _ _ h => memSet_wf _ _ h

theorem State.Inv.rollback {c} (hs : s.Inv) : (State.rollback s c).Inv := by
  unfold State.rollback
  extract_lets p s1 pages s2 s3 s4
  have h1 : s2.Inv := .modPart (.stopJob hs)
  have h2 : s3.Inv := memFoldl_wf h1 fun _ _ hm => memPage_wf hm
  exact .settle (.modCtx h2)

theorem State.Inv.loseJob {c} (hs : s.Inv) : (s.loseJob c).Inv := .settle (.report (.cancelJob hs))

theorem State.Inv.charge {t} (hs : s.Inv) : (s.charge t).Inv := by
  unfold State.charge
  extract_lets s1
  have h1 : s1.Inv := .report hs
  refine .foldl h1 fun _ _ h2 => ?_
  split
  · exact .rollback h2
  · exact .loseJob h2

/-! ## Accesses (Machine/Perform) -/

theorem State.Inv.reportStore {a} (hs : s.Inv) : (s.reportStore a).Inv := hs

theorem State.Inv.carryOut {a} (hs : s.Inv) : (s.carryOut a).Inv := by
  unfold State.carryOut
  extract_lets s1
  have h1 : s1.Inv := hs
  split
  · split
    · exact .reportStore h1
    · exact .modUnitThread h1
  · split
    · exact .storeLoc h1
    · split
      · exact .charge (.modUnitThread h1)
      · exact .modUnitThread h1
    · split
      · exact .charge (.modUnitThread h1)
      · exact .modUnitThread (.storeLoc h1)

theorem State.Inv.performAccess {a} (hs : s.Inv) : (s.performAccess a).Inv := .accessOver (.carryOut hs)

theorem State.Inv.performGo {n} {id} (hs : s.Inv) : (State.performGo n s id).Inv := by
  induction n generalizing s id with
  | zero => exact hs
  | succ n ih =>
    unfold State.performGo
    split
    · exact hs
    · extract_lets before s1
      have h1 : s1.Inv := .foldl hs fun s e h => by
        split
        · exact ih h
        · exact h
      split
      · exact .performAccess h1
      · exact h1

theorem State.Inv.perform {id} (hs : s.Inv) : (s.perform id).Inv := .performGo hs

theorem State.Inv.drain {h tid p} (hs : s.Inv) : (s.drain h tid p).Inv := .foldl hs fun _ _ h1 => .perform h1

theorem State.Inv.drainPend {h tid} (hs : s.Inv) : (s.drainPend h tid).Inv := .drain hs

theorem OptInv.takeRefused {h tid} (hs : s.Inv) : OptInv (State.takeRefused s h tid) := by
  unfold State.takeRefused
  split
  · exact .none
  · exact .map fun _ => inv_takeTrap (.modThread (.drainPend hs))

theorem State.Inv.trapAt {code info epc} (hs : s.Inv) : (s.trapAt code info epc).Inv := by
  unfold State.trapAt
  extract_lets _ _ _ s1
  have h1 : s1.Inv := .drainPend hs
  split
  · rename_i t1 h2
    have h3 : t1.Inv := OptInv.takeRefused h1 _ h2
    exact h3
  · exact inv_takeTrap h1

theorem State.Inv.trap {code info} (hs : s.Inv) : (s.trap code info).Inv := .trapAt hs

theorem State.Inv.blockAt {w} (hs : s.Inv) : (s.blockAt w).Inv := by
  unfold State.blockAt
  extract_lets s1
  have h1 : s1.Inv := .drainPend hs
  split
  · rename_i t1 h2
    have h3 : t1.Inv := OptInv.takeRefused h1 _ h2
    exact h3
  · exact .block h1

theorem State.Inv.deferNext {dflt} (hs : s.Inv) : (s.deferNext dflt).2.Inv := by
  unfold State.deferNext
  split <;> exact hs

theorem State.Inv.storeRoom {h} (hs : s.Inv) : (s.storeRoom h).Inv := by
  unfold State.storeRoom
  split
  · exact hs
  · split
    · exact .perform hs
    · exact hs

theorem State.Inv.launchAccess {q spa} (hs : s.Inv) : (s.launchAccess q spa).Inv := by
  unfold State.launchAccess
  extract_lets _ _ s1
  have h1 : s1.Inv := .drain hs
  split
  split
  rename_i t1 h2
  have h3 : t1.Inv := .of_snd h2 (.fresh h1)
  extract_lets _ s2
  have h4 : s2.Inv := by
    unfold s2
    split
    · exact .modCur h3
    · exact h3
  split
  rename_i t2 h5
  have h6 : t2.Inv := by
    refine .of_snd h5 ?_
    split
    · exact .deferNext h4
    · exact h4
  extract_lets s3 s4 s5 s6
  have h7 : s3.Inv := by
    unfold s3
    split
    · exact .storeRoom h6
    · exact h6
  have h8 : s4.Inv := h7
  have h9 : s5.Inv := .retire h8
  have h10 : s6.Inv := .perform h8
  split
  · clear_value s5
    split
    · exact h9
    · exact .modCur h9
  · split
    · rename_i t3 h11
      have h12 : t3.Inv := OptInv.takeRefused h10 _ h11
      exact h12
    · exact .retire h10

theorem State.Inv.access {q} (hs : s.Inv) : (s.access q).Inv := by
  unfold State.access
  extract_lets
  split
  · exact .trap hs
  · split
    · split
      · exact .trap hs
      · split
        · exact .block hs
        · exact .launchAccess hs
    · split
      rename_i t1 _ h1
      have h2 : t1.Inv := .of_fst h1 (.translate hs)
      split
      · exact .trap h2
      · split
        rename_i t2 _ h3
        have h4 : t2.Inv := .of_fst h3 (.pageFault h2)
        exact .blockAt h4
      · split
        · exact .trap h2
        · split
          · exact .block h2
          · split
            · exact h2
            · exact .launchAccess h2

theorem State.Inv.deliverLate {h tid} (hs : s.Inv) : (s.deliverLate h tid).Inv := by
  unfold State.deliverLate
  extract_lets s1
  have h1 : s1.Inv := .drainPend hs
  split
  · rename_i t1 h2
    have h3 : t1.Inv := OptInv.takeRefused h1 _ h2
    exact h3
  · exact h1
  · exact inv_takeTrap (.modThread h1)

/-! ## Integer instructions (Machine/Alu) -/

theorem canon_result {d v} (hs : s.Inv) : Canon (s.result d v) := .next (.retire (.setG hs))

theorem canon_resultF {d v f} (hs : s.Inv) : Canon (s.resultF d v f) := .next (.retire (.raise (.setG hs)))

theorem canon_resultW {d v} (hs : s.Inv) : Canon (s.resultW d v) := canon_result hs

theorem canon_divide {d a b signed rem} (hs : s.Inv) : Canon (s.divide d a b signed rem) := canon_resultF hs

theorem canon_divideW {d a b signed rem} (hs : s.Inv) : Canon (s.divideW d a b signed rem) := canon_resultF hs

theorem canon_packedOp {d a b l f} (hs : s.Inv) : Canon (s.packedOp d a b l f) := canon_resultF hs

/-! ## Command slots of the management processor (Machine/Slots) -/

theorem State.Inv.respond {slot cmd st res} (hs : s.Inv) : (s.respond slot cmd st res).Inv := hs

theorem State.Inv.bumpGen (hs : s.Inv) : s.bumpGen.Inv := hs

theorem State.Inv.mpDone {st} (hs : s.Inv) : (s.mpDone st).Inv := by
  unfold State.mpDone
  split
  · extract_lets _ s1
    have h1 : s1.Inv := hs
    refine .respond ?_
    clear_value s1
    split
    · exact .bumpGen h1
    · exact h1
  · exact hs

theorem State.Inv.endPartition {p} (hs : s.Inv) : (s.endPartition p).Inv := hs

/-! ## Floating-point instructions (Machine/Fpu) -/

theorem canon_guardF {rs k} (hs : s.Inv) (h_k : ∀ t, t.Inv → Canon (k t)) : Canon (s.guardF rs k) := by
  unfold State.guardF
  split
  · exact .next (.trap hs)
  · exact h_k _ hs

theorem canon_resultFp {d code fl} (hs : s.Inv) : Canon (s.resultFp d code fl) := .next (.retire (.raise (.setF hs)))

theorem canon_roundOp {d p rnd a4} (hs : s.Inv) : Canon (s.roundOp d p rnd a4) := canon_resultFp hs

theorem canon_minmax {d a b p wantMax} (hs : s.Inv) : Canon (s.minmax d a b p wantMax) := canon_resultFp hs

theorem canon_signOp {d a b p f} (hs : s.Inv) : Canon (s.signOp d a b p f) := canon_resultFp hs

theorem canon_convert {d a src dst rnd} (hs : s.Inv) : Canon (s.convert d a src dst rnd) := canon_resultFp hs

theorem canon_compare {d a b p quiet f} (hs : s.Inv) : Canon (s.compare d a b p quiet f) := by
  unfold State.compare
  extract_lets
  split
  · exact canon_resultF hs
  · exact canon_result hs

/-! ## Dispatch to units (Machine/Unit) -/

theorem canon_waitDispatch {unit} (hs : s.Inv) : Canon (s.waitDispatch unit) := .next (.block hs)

theorem canon_dispatchTo {unit room act} (hs : s.Inv) (h_act : ∀ a t, t.Inv → (act a t).Inv) :
    Canon (s.dispatchTo unit room act) := by
  unfold State.dispatchTo
  extract_lets _ _ s1 _ s2 s3
  have h1 : s1.Inv := .drain hs
  have h2 : s2.Inv := .modCur h1
  have h3 : s3.Inv := .modCore h2
  split
  · exact canon_waitDispatch hs
  · split
    · rename_i t1 h4
      have h5 : t1.Inv := OptInv.takeRefused h1 _ h4
      exact .next h5
    · exact .next (h_act _ _ h3)

theorem canon_dispatch {unit room act} (hs : s.Inv) (h_act : ∀ a t, t.Inv → (act a t).Inv) :
    Canon (s.dispatch unit room act) :=
  canon_dispatchTo hs (fun _ _ h1 => .retire (h_act _ _ h1))

theorem State.Inv.lateOf {h tid ply addr unit code} (hs : s.Inv) : (s.lateOf h tid ply addr unit code).Inv := hs

theorem State.Inv.lateHere {ply unit code} (hs : s.Inv) : (s.lateHere ply unit code).Inv := hs

theorem canon_dispatchChecked {unit room check act} (hs : s.Inv) (h_act : ∀ a t, t.Inv → (act a t).Inv) :
    Canon (s.dispatchChecked unit room check act) := by
  unfold State.dispatchChecked
  refine canon_dispatch hs fun _ _ h1 => ?_
  split
  · exact .lateHere h1
  · exact h_act _ _ h1

theorem State.Inv.enqueue {unit ply op perform} (hs : s.Inv) (h_perform : ∀ a t, t.Inv → (perform a t).Inv) :
    (s.enqueue unit ply op perform).Inv := by
  unfold State.enqueue
  extract_lets
  split
  · exact hs
  · split
    · rename_i t1 h1
      have h2 : t1.Inv := CmdEnd.Inv.of_eq h1 (h_perform _ _ hs)
      exact h2
    · rename_i t2 _ h3
      have h4 : t2.Inv := CmdEnd.Inv.of_eq h3 (h_perform _ _ hs)
      exact h4

theorem canon_dispatchCmd {unit room op perform} (hs : s.Inv) (h_perform : ∀ a t, t.Inv → (perform a t).Inv) :
    Canon (s.dispatchCmd unit room op perform) :=
  canon_dispatch hs (fun _ _ h1 => .enqueue h1 (fun _ _ h2 => h_perform _ _ h2))

theorem canon_unitWait {unit mask done} (hs : s.Inv) : Canon (s.unitWait unit mask done) := by
  unfold State.unitWait
  split
  · exact canon_dispatch hs (fun _ _ h1 => h1)
  · exact .next (.block hs)

theorem State.Inv.mapUnitThreads {h u f} (hs : s.Inv) : (s.mapUnitThreads h u f).Inv := hs

theorem State.Inv.unitWrite {h u a bs} (hs : s.Inv) : (s.unitWrite h u a bs).Inv :=
  .foldl hs fun _ _ h1 => .writeLoc h1

theorem State.Inv.tileLatch {h u e} (hs : s.Inv) : (s.tileLatch h u e).Inv := hs

theorem State.Inv.modTile {h u e f} (hs : s.Inv) : (s.modTile h u e f).Inv := by
  unfold State.modTile
  extract_lets s1
  have h1 : s1.Inv := by
    unfold s1
    split
    · exact .modEvicted hs
    · exact .modCore hs
  exact .tileLatch h1

theorem OptInv.shadowWrite {h u e off bs} (hs : s.Inv) : OptInv (s.shadowWrite h u e off bs) := by
  unfold State.shadowWrite
  split
  · exact .none
  · split
    · exact .none
    · exact .some (.modTile (.unitWrite hs))

theorem State.Inv.words {f} (hs : s.Inv) : (s.words f).Inv := hs

theorem State.Inv.wordsOf {h u tid f} (hs : s.Inv) : (s.wordsOf h u tid f).Inv := hs

theorem State.Inv.flagsOf {h u tid f} (hs : s.Inv) : (s.flagsOf h u tid f).Inv := hs

theorem State.Inv.lateUnit {h u tid f} (hs : s.Inv) : (s.lateUnit h u tid f).Inv := hs

/-! ## Tiles (Machine/Tile) -/

theorem State.Inv.setTstatus {status t} (hs : s.Inv) : (s.setTstatus status t).Inv := hs

theorem State.Inv.swapTile {h u t} (hs : s.Inv) : (s.swapTile h u t).Inv := by
  unfold State.swapTile
  split
  · exact .unitWrite (.unitWrite hs)
  · exact .modCore hs

theorem State.Inv.endDrain {h u e t} (hs : s.Inv) : (s.endDrain h u e t).Inv := by
  unfold State.endDrain
  split
  · extract_lets s1
    have h1 : s1.Inv := by
      unfold s1
      split
      · exact .modEvicted hs
      · exact .modCore hs
    exact .tileLatch h1
  · exact .modTile (.swapTile hs)

theorem State.Inv.tryEndDrain {h u e} (hs : s.Inv) : (s.tryEndDrain h u e).Inv := by
  unfold State.tryEndDrain
  split
  · split
    · exact .endDrain hs
    · exact hs
  · exact hs

theorem canon_execTbdef {a b look entry} (hs : s.Inv) : Canon (execTbdef a b look entry s) := by
  unfold execTbdef
  extract_lets
  refine canon_dispatch hs fun _ _ h1 => ?_
  extract_lets _ _ _ _ _ _ _ s1
  have h2 : s1.Inv := .modCore h1
  split
  · exact .setTstatus h1
  · split
    · exact .setTstatus h1
    · split
      · exact .setTstatus h1
      · exact .setTstatus (.tileLatch h2)

theorem canon_execTbst {look entry} (hs : s.Inv) : Canon (execTbst look entry s) := by
  unfold execTbst
  extract_lets
  refine canon_dispatch hs fun _ _ h1 => ?_
  split <;> exact .setTstatus h1

theorem canon_execTbfree {look entry} (hs : s.Inv) : Canon (execTbfree look entry s) := by
  unfold execTbfree
  extract_lets
  refine canon_dispatch hs fun _ _ h1 => ?_
  extract_lets _ _ s1
  have h2 : s1.Inv := .modTile h1
  split
  · exact .setTstatus h1
  · split
    · exact .setTstatus h1
    · exact .setTstatus (.tryEndDrain h2)

theorem canon_execPubl {look entry} (hs : s.Inv) : Canon (execPubl look entry s) := by
  unfold execPubl
  extract_lets
  refine canon_dispatch hs fun _ _ h1 => ?_
  extract_lets _ s1 _ _ s2
  have h2 : s1.Inv := .drain h1
  have h3 : s2.Inv := .setTstatus h2
  split
  · exact .setTstatus h2
  · split
    · exact .setTstatus h2
    · split
      · exact .setTstatus h2
      · split
        · exact .tryEndDrain (.modTile h3)
        · exact .endDrain h3

theorem canon_execTbwait {look st entry} (hs : s.Inv) : Canon (execTbwait look st entry s) := by
  unfold execTbwait
  extract_lets
  refine canon_dispatchTo hs fun _ _ h1 => ?_
  extract_lets
  split
  · exact .retire (.setTstatus h1)
  · exact .blockAt h1

/-! ## Streams (Machine/Stream) -/

theorem State.Inv.streamStore {h off bs} (hs : s.Inv) : (s.streamStore h off bs).Inv :=
  .foldl hs fun _ _ h1 => .storeLoc h1

theorem State.Inv.streamWrite {h st o v} (hs : s.Inv) : (s.streamWrite h st o v).Inv := .streamStore hs

theorem State.Inv.advanceStream {h n k} (hs : s.Inv) : (s.advanceStream h n k).Inv := hs

/-! ## System registers (Machine/Sysreg) -/

theorem State.Inv.writeWdog {h v} (hs : s.Inv) : (s.writeWdog h v).Inv := hs

theorem State.Inv.writeWaymask {h v mp} (hs : s.Inv) : (s.writeWaymask h v mp).Inv := by
  unfold State.writeWaymask
  extract_lets
  split
  · exact .modCore hs
  · split
    · exact .modCore hs
    · split
      · exact .modPart hs
      · exact .modVf hs

theorem State.Inv.writeBfmt {h n v} (hs : s.Inv) : (s.writeBfmt h n v).Inv := hs

theorem State.Inv.coreSysWrite {h n v} (hs : s.Inv) : (s.coreSysWrite h n v).Inv := by
  unfold State.coreSysWrite
  split
  · exact .writeWdog hs
  · exact .modCtx hs
  · exact .modCore hs
  · exact .modCore hs
  · exact .writeWaymask hs
  · exact hs

theorem State.Inv.sysWrite {h tid n v} (hs : s.Inv) : (s.sysWrite h tid n v).Inv := by
  unfold State.sysWrite
  split
  · exact .writeBfmt hs
  · exact .coreSysWrite (.modThread hs)

/-! ## Vector commands (Machine/Vector) -/

theorem State.Inv.vecAccept {q ply} (hs : s.Inv) : (s.vecAccept q ply).Inv := by
  unfold State.vecAccept
  extract_lets _ _ s1
  have h1 : s1.Inv := .modCore hs
  split
  · exact .modCur h1
  · exact .modCur h1
  · exact h1

theorem canon_vecDispatch {q} (hs : s.Inv) : Canon (s.vecDispatch q) :=
  canon_dispatch hs (fun _ _ h1 => .vecAccept h1)

theorem canon_execVwait {look} (hs : s.Inv) : Canon (execVwait look s) := by
  unfold execVwait
  exact canon_unitWait hs

theorem State.Inv.advanceNamed {h q n} (hs : s.Inv) : (s.advanceNamed h q n).Inv :=
  .foldl hs fun _ _ h1 => .advanceStream h1

theorem State.Inv.vecMap {h q n} (hs : s.Inv) : (s.vecMap h q n).1.Inv := by
  unfold State.vecMap
  extract_lets
  split
  · exact .foldl hs fun _ _ h1 => .streamWrite h1
  · exact .foldl hs fun _ _ h2 => .streamWrite h2

theorem State.Inv.vecQuant {h q n} (hs : s.Inv) : (s.vecQuant h q n).1.Inv :=
  .foldl hs fun _ _ h1 => .streamStore h1

theorem State.Inv.modQ {h n f} (hs : s.Inv) : (s.modQ h n f).Inv := hs

theorem State.Inv.wordsAt {h tid f} (hs : s.Inv) : (s.wordsAt h tid f).Inv := hs

theorem State.Inv.vecRead {h q} (hs : s.Inv) : (s.vecRead h q).1.Inv := by
  unfold State.vecRead
  split <;> exact .wordsAt hs

theorem State.Inv.vecMaxr {h q n} (hs : s.Inv) : (s.vecMaxr h q n).1.Inv := hs

theorem State.Inv.vmaxEnd {h o status res} (hs : s.Inv) : (s.vmaxEnd h o status res).Inv := hs

theorem State.Inv.vmaxTry {h} (hs : s.Inv) : (s.vmaxTry h).Inv := by
  unfold State.vmaxTry
  refine .foldl hs fun _ _ h1 => ?_
  split
  · exact .vmaxEnd h1
  · exact h1

theorem State.Inv.vmaxDeliver {m} (hs : s.Inv) : (s.vmaxDeliver m).Inv := by
  unfold State.vmaxDeliver
  extract_lets
  split
  · exact .vmaxTry (.modCore hs)
  · split
    · exact .modEvicted hs
    · split
      · exact .modCore hs
      · exact hs

theorem State.Inv.vecMaxx {h q} (hs : s.Inv) : (s.vecMaxx h q).Inv := by
  unfold State.vecMaxx
  split
  extract_lets _ _ _ _ _ _ _ s1
  have h1 : s1.Inv := hs
  split
  · exact .wordsAt hs
  · exact .vmaxDeliver (.modCore h1)

theorem State.Inv.vecConfig {h q} (hs : s.Inv) : (s.vecConfig h q).1.Inv := by
  unfold State.vecConfig
  extract_lets _ _ p1
  split
  · split
    · exact hs
    · unfold p1
      split
      · exact .modCore hs
      · exact hs
  · split
    · exact hs
    · unfold p1
      split
      · exact .modCore hs
      · exact hs
  · split
    · exact hs
    · split
      · exact hs
      · split
        · exact hs
        · exact .modCore hs
  · split
    · exact hs
    · exact .modCore hs
  · split
    · exact hs
    · exact .wordsAt hs

theorem State.Inv.vecRun {h q} (hs : s.Inv) : (s.vecRun h q).1.Inv := by
  unfold State.vecRun
  extract_lets
  split
  · exact .advanceNamed (.modQ hs)
  · exact .advanceNamed (.modQ hs)
  · exact .vecRead hs
  · exact .modQ hs
  · exact .advanceNamed (.vecMaxr hs)
  · exact .vecMaxx hs
  · exact .advanceNamed (.vecQuant hs)
  · split
    rename_i t1 _ h1
    have h2 : t1.Inv := .of_fst h1 (.vecConfig hs)
    exact .wordsAt h2
  · split
    rename_i t2 _ h3
    have h4 : t2.Inv := .of_fst h3 (.vecConfig hs)
    exact .wordsAt h4
  · split
    rename_i t3 _ h5
    have h6 : t3.Inv := .of_fst h5 (.vecConfig hs)
    exact .wordsAt h6
  · split
    rename_i t4 _ h7
    have h8 : t4.Inv := .of_fst h7 (.vecConfig hs)
    exact .wordsAt h8
  · split
    rename_i t5 _ h9
    have h10 : t5.Inv := .of_fst h9 (.vecConfig hs)
    exact .wordsAt h10
  · exact .advanceNamed (.vecMap hs)

theorem canon_execVectorCommandPerform {h} (hs : s.Inv) : Canon (execVectorCommandPerform h s) := by
  unfold execVectorCommandPerform
  split
  · exact .next hs
  · split
    · exact .next hs
    · extract_lets
      split
      · exact .next (.lateOf (.modCore hs))
      · split
        rename_i t1 _ h1
        have h2 : t1.Inv := .of_fst h1 (.vecRun (.modCore hs))
        exact .next (.raiseAt h2)

theorem canon_execVmaxxContribution {n} (hs : s.Inv) : Canon (execVmaxxContribution n s) := by
  unfold execVmaxxContribution
  split
  · split
    · exact .next hs
    · exact .next (.vmaxDeliver hs)
  · exact .next hs

theorem canon_execVmaxxTimeout {h seq} (hs : s.Inv) : Canon (execVmaxxTimeout h seq s) := by
  unfold execVmaxxTimeout
  split
  · split
    · exact .next (.vmaxEnd hs)
    · exact .next hs
  · exact .next hs

/-! ## Matrix commands (Machine/Matrix) -/

theorem State.Inv.matAccept {q ply} (hs : s.Inv) : (s.matAccept q ply).Inv := hs

theorem canon_matDispatch {q} (hs : s.Inv) : Canon (s.matDispatch q) :=
  canon_dispatchChecked hs (fun _ _ h1 => .matAccept h1)

theorem canon_execMwait {look mask} (hs : s.Inv) : Canon (execMwait look mask s) := by
  unfold execMwait
  exact canon_unitWait hs

theorem canon_execMcfg {a look m} (hs : s.Inv) : Canon (execMcfg a look m s) := by
  unfold execMcfg
  extract_lets
  refine canon_dispatch hs fun _ _ h1 => ?_
  split
  · exact .words h1
  · exact .matAccept (.words h1)

theorem State.Inv.askLeave {h agent cmd cls} (hs : s.Inv) : (s.askLeave h agent cmd cls).Inv := hs

theorem State.Inv.engineAsks {h e} (hs : s.Inv) : (s.engineAsks h e).Inv := by
  unfold State.engineAsks
  split
  · exact hs
  · exact .modCore (.askLeave hs)

theorem State.Inv.mmaRun {h q} (hs : s.Inv) : (s.mmaRun h q).Inv := hs

theorem State.Inv.rowRun {h q} (hs : s.Inv) : (s.rowRun h q).Inv := by
  unfold State.rowRun
  extract_lets _ _ _ _ _ _ s1 _ _ _ s2
  have h1 : s1.Inv := by
    unfold s1
    split
    · exact .streamStore hs
    · exact hs
  have h2 : s2.Inv := by
    unfold s2
    split
    · split
      · exact .streamStore hs
      · exact hs
    · exact .modCore hs
  split
  · exact .modCore (.modCore hs)
  · exact .modCore (.modCore hs)
  · exact .modCore h1
  · split
    · exact .modCore hs
    · exact .modCore h2

theorem canon_execMatrixEngineStep {h ms} (hs : s.Inv) : Canon (execMatrixEngineStep h ms s) := by
  unfold execMatrixEngineStep
  split
  · exact .next hs
  · split
    · exact .next hs
    · split
      · extract_lets s1
        have h1 : s1.Inv := by
          unfold s1
          split
          · exact .mmaRun hs
          · exact .rowRun hs
        exact .next (.modCore h1)
      · exact .next (.engineAsks hs)

theorem OptInv.chunkIncrement {die ctx cid} (hs : s.Inv) : OptInv (s.chunkIncrement die ctx cid) := by
  unfold State.chunkIncrement
  extract_lets
  split
  · exact .some (.modDie hs)
  · exact .none

theorem canon_execMatrixCommandComplete {h ms} (hs : s.Inv) : Canon (execMatrixCommandComplete h ms s) := by
  unfold execMatrixCommandComplete
  split
  · exact .next hs
  · extract_lets s1
    have h1 : s1.Inv := .modCore hs
    split
    · exact .next (.modCore h1)
    · split
      · split
        · rename_i t1 h2
          have h3 : t1.Inv := OptInv.chunkIncrement h1 _ h2
          exact .next h3
        · exact .next (.lateOf h1)
      · exact .next h1
    · exact .next (.raiseAt h1)

/-! ## Counters and barriers (Machine/Sync) -/

theorem State.Inv.modSync {h u f} (hs : s.Inv) : (s.modSync h u f).Inv := by
  unfold State.modSync
  extract_lets s1
  have h1 : s1.Inv := by
    unfold s1
    split
    · exact .modEvicted hs
    · exact .modCore hs
  exact .mapUnitThreads h1

theorem State.Inv.addCounter {h u n v} (hs : s.Inv) : (s.addCounter h u n v).Inv := .modSync hs

theorem canon_execArmc {a look n} (hs : s.Inv) : Canon (execArmc a look n s) := by
  unfold execArmc
  extract_lets
  refine canon_dispatch hs fun _ _ h1 => ?_
  extract_lets
  split
  · exact .words h1
  · exact .words (.addCounter h1)

theorem canon_execWaitc {look n} (hs : s.Inv) : Canon (execWaitc look n s) := by
  unfold execWaitc
  extract_lets
  refine canon_dispatchTo hs fun _ _ h1 => ?_
  split
  · exact .retire h1
  · exact .blockAt h1

theorem State.Inv.send {ms} (hs : s.Inv) : (s.send ms).Inv := hs

theorem State.Inv.barTry {h u z b} (hs : s.Inv) : (s.barTry h u z b).Inv := by
  unfold State.barTry
  split
  extract_lets
  split
  · exact .send (.modSync hs)
  · split
    · exact .send (.modSync hs)
    · split
      · exact .send (.modSync hs)
      · split <;> exact .send (.modSync hs)

theorem State.Inv.barReceive {h u b m} (hs : s.Inv) : (s.barReceive h u b m).Inv := by
  unfold State.barReceive
  split
  split
  · exact .modSync hs
  · split
    · exact .send (.modSync hs)
    · exact .barTry hs

theorem State.Inv.barArrive {m} (hs : s.Inv) : (s.barArrive m).Inv := by
  unfold State.barArrive
  split
  · exact .barReceive hs
  · exact .modCore hs

theorem State.Inv.takeHeld {h u z} (hs : s.Inv) : (s.takeHeld h u z).Inv :=
  .foldl (.modCore hs) fun _ _ h1 => .barArrive h1

theorem canon_execBarcfg {a look n} (hs : s.Inv) : Canon (execBarcfg a look n s) := by
  unfold execBarcfg
  extract_lets
  refine canon_dispatch hs fun _ _ h1 => ?_
  extract_lets
  split
  · exact .words h1
  · split
    · exact .words h1
    · exact .words (.takeHeld (.modSync h1))

theorem canon_execBarwt {look n} (hs : s.Inv) : Canon (execBarwt look n s) := by
  unfold execBarwt
  extract_lets
  refine canon_dispatchTo hs fun _ _ h1 => ?_
  extract_lets
  split
  · exact .retire h1
  · exact .blockAt h1

theorem canon_execBarrierArrival {n} (hs : s.Inv) : Canon (execBarrierArrival n s) := by
  unfold execBarrierArrival
  split
  · split
    · exact .next hs
    · exact .next (.barArrive hs)
  · exact .next hs

theorem canon_execBarrierRelease {n} (hs : s.Inv) : Canon (execBarrierRelease n s) := by
  unfold execBarrierRelease
  split
  · split
    · exact .next hs
    · exact .next (.barArrive hs)
  · exact .next hs

/-! ## Copy commands (Machine/Copy) -/

theorem OptInv.sideWrite {h u w o bs} (hs : s.Inv) : OptInv (State.sideWrite s h u w o bs) := by
  unfold State.sideWrite
  split
  · exact .some (.storeLoc hs)
  · split
    · exact OptInv.shadowWrite hs
    · exact .map fun _ => .unitWrite hs

theorem canon_copyDispatch {q} (hs : s.Inv) : Canon (s.copyDispatch q) :=
  canon_dispatchChecked hs (fun _ _ h1 => .modCore h1)

theorem canon_execCshape {a b look} (hs : s.Inv) : Canon (execCshape a b look s) := by
  unfold execCshape
  extract_lets
  refine canon_dispatch hs fun _ _ h1 => ?_
  split <;> exact .words h1

theorem canon_execCidx {a b look} (hs : s.Inv) : Canon (execCidx a b look s) := by
  unfold execCidx
  extract_lets
  refine canon_dispatch hs fun _ _ h1 => ?_
  split <;> exact .words h1

theorem canon_execCwait {look} (hs : s.Inv) : Canon (execCwait look s) := by
  unfold execCwait
  exact canon_unitWait hs

theorem State.Inv.modCopy {h id f} (hs : s.Inv) : (s.modCopy h id f).Inv := hs

theorem canon_execCopyCommandStart {h n} (hs : s.Inv) : Canon (execCopyCommandStart h n s) := by
  unfold execCopyCommandStart
  split
  · exact .next hs
  · split
    · exact .next hs
    · extract_lets _ _ _ s1
      have h1 : s1.Inv := by
        unfold s1
        split
        · exact .modCore hs
        · split
          · exact .askLeave hs
          · exact hs
      exact .next (.modCopy h1)

theorem State.Inv.copyPlace {h q va k} (hs : s.Inv) : (s.copyPlace h q va k).1.Inv := by
  unfold State.copyPlace
  split
  rename_i t1 _ h1
  have h2 : t1.Inv := .of_fst h1 (.engineTranslate hs)
  split
  · exact h2
  · exact h2
  · split
    · exact h2
    · split <;> exact h2

theorem State.Inv.copyRead {h q va n} (hs : s.Inv) : (s.copyRead h q va n).1.Inv := by
  unfold State.copyRead
  refine .foldl_fst hs fun _ _ h1 => ?_
  split
  split
  split
  · split
    rename_i t1 _ h2
    have h3 : t1.Inv := .of_fst h2 (.copyPlace h1)
    split
    · split
      · exact .strike h3
      · exact h3
    · exact h3
    · exact h3
    · exact h3
  · exact h1

theorem State.Inv.healRow {l n len} (hs : s.Inv) : (s.healRow l n len).Inv := by
  unfold State.healRow
  split
  · split
    · exact .healed hs
    · exact hs
  · exact hs

theorem State.Inv.copyWrite {h q va bs before} (hs : s.Inv) : (s.copyWrite h q va bs before).1.Inv := by
  unfold State.copyWrite
  split
  rename_i t1 _ h1
  have h2 : t1.Inv := .of_fst h1 (.copyPlace hs)
  split
  · exact .healRow (.storeLoc h2)
  · exact h2
  · exact h2
  · exact h2

theorem State.Inv.countBytes {h u k n} (hs : s.Inv) : (s.countBytes h u k n).Inv := by
  unfold State.countBytes
  split
  · exact .addCounter hs
  · exact hs

theorem State.Inv.copyPast {h id n len f} (hs : s.Inv) : (s.copyPast h id n len f).Inv := hs

theorem State.Inv.copyEnd {α : Type} {r : MemEnd α} {h id n len} (hs : s.Inv) : (s.copyEnd h id n len r).Inv := by
  unfold State.copyEnd
  split
  · exact .copyPast hs
  · exact .copyPast hs
  · exact .copyPast hs
  · exact .modCopy hs

theorem State.Inv.rowWrite {h q} (hs : s.Inv) : (s.rowWrite h q).Inv := by
  unfold State.rowWrite
  extract_lets
  split
  · split
    rename_i t1 _ h1
    have h2 : t1.Inv := .of_fst h1 (.copyRead hs)
    split
    · split
      · rename_i t2 h3
        have h4 : t2.Inv := OptInv.sideWrite h2 _ h3
        exact .copyPast (.countBytes h4)
      · exact .copyPast h2
    · exact .copyEnd h2
  · split
    · exact .copyPast hs
    · split
      rename_i t3 _ h5
      have h6 : t3.Inv := .of_fst h5 (.copyWrite hs)
      extract_lets s1
      have h7 : s1.Inv := by
        unfold s1
        split
        · exact .countBytes h6
        · exact h6
      exact .copyEnd h7
  · split
    split
    · rename_i t4 h8
      have h9 : t4.Inv := OptInv.sideWrite hs _ h8
      exact .copyPast (.countBytes h9)
    · exact .copyPast hs

theorem State.Inv.mcastWrite {h q} (hs : s.Inv) : (s.mcastWrite h q).Inv := by
  unfold State.mcastWrite
  extract_lets
  split
  · exact .copyPast hs
  · split
    extract_lets
    split
    · exact .copyPast hs
    · split
      · exact .copyPast hs
      · split
        split
        · rename_i t1 h1
          have h2 : t1.Inv := OptInv.sideWrite hs _ h1
          exact .copyPast (.countBytes h2)
        · exact .copyPast hs

theorem State.Inv.elemMove {h q i} (hs : s.Inv) : (s.elemMove h q i).1.Inv := by
  unfold State.elemMove
  extract_lets
  split
  · split
    rename_i t1 _ h1
    have h2 : t1.Inv := .of_fst h1 (.copyRead hs)
    split
    · split
      · rename_i t2 h3
        have h4 : t2.Inv := OptInv.sideWrite h2 _ h3
        exact .countBytes h4
      · exact h2
    · exact h2
    · exact h2
    · exact h2
  · split
    · exact hs
    · split
      rename_i t3 _ h5
      have h6 : t3.Inv := .of_fst h5 (.copyWrite hs)
      split
      · exact .countBytes h6
      · exact h6
      · exact h6
      · exact h6

theorem State.Inv.elemStep {h q} (hs : s.Inv) : (s.elemStep h q).Inv := by
  unfold State.elemStep
  split
  · exact hs
  · split
    rename_i t1 _ h1
    have h2 : t1.Inv := .of_fst h1 (.elemMove hs)
    split <;> exact .modCopy h2

theorem State.Inv.copyStep {h id} (hs : s.Inv) : (s.copyStep h id).Inv := by
  unfold State.copyStep
  split
  · exact hs
  · split
    · exact hs
    · split
      · exact .mcastWrite hs
      · exact .elemStep hs
      · exact .elemStep hs
      · exact .rowWrite hs

theorem canon_execCopyCommandComplete {h n} (hs : s.Inv) : Canon (execCopyCommandComplete h n s) := by
  unfold execCopyCommandComplete
  split
  · exact .next hs
  · split
    · exact .next hs
    · extract_lets s1 s2 s3 s4 s5
      have h1 : s1.Inv := .modCore hs
      have h2 : s2.Inv := by
        unfold s2
        clear_value s1
        split
        · exact .modDie h1
        · exact h1
      have h3 : s3.Inv := .flagsOf h2
      have h4 : s4.Inv := by
        unfold s4
        clear_value s3
        split
        · exact .wordsOf h3
        · exact h3
      have h5 : s5.Inv := .accessOver h4
      split
      · exact .next (.lateUnit h5)
      · split
        · exact .next (.lateUnit h5)
        · split
          · exact .next (.lateUnit h5)
          · exact .next h5

/-! ## Threads (Machine/Threads) -/

theorem canon_after {p k} (hs : s.Inv) (h_k : ∀ t, t.Inv → (k t).Inv) : Canon (s.after p k) := by
  unfold State.after
  extract_lets s1
  have h1 : s1.Inv := .drain hs
  split
  · rename_i t1 h2
    have h3 : t1.Inv := OptInv.takeRefused h1 _ h2
    exact .next h3
  · exact .next (h_k _ h1)

theorem canon_execHstart {d a b} (hs : s.Inv) : Canon (execHstart d a b s) := by
  unfold execHstart
  extract_lets
  split
  · exact .next (.trap hs)
  · split
    · exact .next (.retire (.setG hs))
    · exact canon_after hs (fun _ h1 => .retire (.setG (.modCore h1)))

theorem State.Inv.exitNow {h tid v} (hs : s.Inv) : (s.exitNow h tid v).Inv := by
  unfold State.exitNow
  split
  · extract_lets s1
    have h1 : s1.Inv := .modCore hs
    split
    · exact .modCore h1
    · exact .modThread h1
  · exact .modCore hs

theorem canon_execHexit {a} (hs : s.Inv) : Canon (execHexit a s) := by
  unfold execHexit
  extract_lets _ _ _ s1
  have h1 : s1.Inv := .drainPend hs
  split
  · exact .next (.blockAt hs)
  · split
    · rename_i t1 h2
      have h3 : t1.Inv := OptInv.takeRefused h1 _ h2
      exact .next h3
    · exact .next (.exitNow h1)

theorem State.Inv.joinNow {h tid d ids since} (hs : s.Inv) : (s.joinNow h tid d ids since).Inv :=
  .modThread (.modCore (.foldl hs fun _ _ h1 => .drain h1))

theorem canon_execHjoin {d a} (hs : s.Inv) : Canon (execHjoin d a s) := by
  unfold execHjoin
  extract_lets _ _ _ s1
  have h1 : s1.Inv := .drainPend hs
  split
  · split
    · rename_i t1 h2
      have h3 : t1.Inv := OptInv.takeRefused h1 _ h2
      exact .next h3
    · exact .next (.joinNow h1)
  · exact .next (.blockAt hs)

theorem canon_execWaitm {d a b} (hs : s.Inv) : Canon (execWaitm d a b s) := by
  unfold execWaitm
  extract_lets
  split
  · exact .next (.trap hs)
  · split
    · exact .next (.trap hs)
    · refine canon_after hs fun _ h1 => ?_
      extract_lets
      split
      · exact .block h1
      · exact .retire (.setG h1)

/-! ## Stage-2 tables (Machine/Tables) -/

theorem State.Inv.setEntry {t i v} (hs : s.Inv) : (s.setEntry t i v).Inv := memWrite_wf _ _ _ hs

theorem State.Inv.zeroPage {a} (hs : s.Inv) : (s.zeroPage a).Inv := memFilter_wf _ hs

/-- The new table is cleared. -/
theorem State.allocTable_inv {p : Nat} (hs : s.Inv) : OptAll (fun x => x.2.Inv) (s.allocTable p) :=
  .map (p := fun _ => True) (fun _ _ => trivial) fun _ _ => .zeroPage (.modPart hs)

theorem State.Inv.freeTables {p gone} (hs : s.Inv) : (s.freeTables p gone).Inv := hs

theorem State.childTable_inv {p t i : Nat} (hs : s.Inv) : OptAll (fun x => x.2.Inv) (s.childTable p t i) := by
  unfold State.childTable
  extract_lets e
  split
  · exact .some hs
  · refine .map (State.allocTable_inv hs) fun x hx => State.Inv.setEntry ?_
    split
    · exact .foldl hx fun _ _ h => .setEntry h
    · exact hx

theorem OptInv.clearBlock {c lo hi} (hs : s.Inv) : OptInv (State.clearBlock s c lo hi) := by
  unfold State.clearBlock
  extract_lets
  split
  · exact .some hs
  · split
    · exact .some hs
    · split
      · exact .some (.setEntry hs)
      · exact OptAll.map (State.childTable_inv hs) fun _ hx => .foldl hx fun _ _ h => .setEntry h

theorem Comp.block_inv {k : Comp} {issuer c : Nat} {x : Extent} {perm lo hi : Nat} (hk : k.s.Inv) :
    OptAll (fun j => j.s.Inv) (k.block issuer c x perm lo hi) := by
  unfold Comp.block
  extract_lets _ _ _ _ _ whole
  clear_value whole
  split
  · exact OptAll.map (State.childTable_inv hk) fun _ h => State.Inv.setEntry h
  · split
    · exact OptAll.map (OptInv.clearBlock hk) fun _ h => h
    · exact OptAll.bind (State.childTable_inv hk) fun _ h =>
        OptAll.map (State.childTable_inv h) fun _ h' => State.Inv.foldl h' fun _ _ h'' => .setEntry h''

theorem State.compose_inv {issuer c : Nat} {x : Extent} {perm lo hi : Nat} (hs : s.Inv) :
    OptAll (fun y => y.1.Inv) (s.compose issuer c x perm lo hi) := by
  unfold State.compose
  exact .map (OptAll.foldl (p := fun k : Comp => k.s.Inv) (.some hs) fun _ _ ho => .bind ho fun _ hk => Comp.block_inv hk)
    fun _ hk => .freeTables hk

theorem State.Inv.pruneAt {p t i} (hs : s.Inv) : (s.pruneAt p t i).Inv := by
  unfold State.pruneAt
  extract_lets
  split
  · exact .freeTables (.setEntry hs)
  · exact hs

theorem State.Inv.pruneBlock {c lo} (hs : s.Inv) : (s.pruneBlock c lo).Inv := by
  unfold State.pruneBlock
  extract_lets _ _ _ s1
  have h1 : s1.Inv := by
    unfold s1
    split
    · exact .pruneAt hs
    · exact hs
  exact .pruneAt h1

theorem OptInv.withdraw {c lo hi} (hs : s.Inv) : OptInv (State.withdraw s c lo hi) := by
  unfold State.withdraw
  refine OptAll.map (p := State.Inv) (OptAll.foldl (.some hs) fun _ _ ho => .foldl ho fun _ _ ho' =>
    .bind ho' fun _ h => OptInv.clearBlock h) fun t ht => ?_
  exact .foldl (.foldl ht fun _ _ h => .foldl h fun _ _ h' => .pruneBlock h') fun _ _ h => .dropGpa h

theorem State.Inv.clearTables {c} (hs : s.Inv) : (s.clearTables c).Inv := .dropCtx (.zeroPage (.freeTables hs))

/-! ## The virtualisation unit (Machine/Vir) -/

theorem inv_virChecked {checks k} (h_k : k.Inv) : (virChecked checks k).Inv := by
  unfold virChecked
  split
  · exact trivial
  · exact h_k

theorem State.Inv.virReport {a} (hs : s.Inv) (h_a : a.Inv) : (s.virReport a).Inv := by
  unfold State.virReport
  split
  · exact .words hs
  · exact .words h_a

theorem canon_vir {f} (hs : s.Inv) (h_f : ∀ t, t.Inv → (f t).Inv) : Canon (s.vir f) :=
  canon_dispatch hs (fun _ _ h1 => .virReport h1 (h_f _ h1))

theorem State.Inv.addDrain {kind covers} (hs : s.Inv) : (s.addDrain kind covers).Inv := hs

theorem VirEnd.Inv.ctxnew {a b} (hs : s.Inv) : (State.ctxnew s a b).Inv := by
  unfold State.ctxnew
  extract_lets self x c t
  have ht : OptAll (fun y => y.2.Inv) t := State.allocTable_inv hs
  clear_value c t
  refine inv_virChecked ?_
  split
  · exact ht _ rfl
  · trivial

theorem State.Inv.remapOut {c} (hs : s.Inv) : (s.remapOut c).Inv := hs

theorem VirEnd.Inv.grantCores {a b} (hs : s.Inv) : (s.grantCores a b).Inv :=
  inv_virChecked (.addDrain (.remapOut (.remapOut (.modCtx hs))))

theorem VirEnd.Inv.grantMem {a b} (hs : s.Inv) : (State.grantMem s a b).Inv := by
  unfold State.grantMem
  extract_lets self c x nomap s' made
  have hs' : s'.Inv := .modCtx hs
  have hm : OptAll (fun y => y.1.Inv) made := by
    unfold made
    split
    · exact .some hs'
    · exact State.compose_inv hs'
  clear_value made
  refine inv_virChecked ?_
  split
  · exact hm _ rfl
  · trivial

theorem VirEnd.Inv.grantPages {a b} (hs : s.Inv) : (State.grantPages s a b).Inv := by
  unfold State.grantPages
  extract_lets self c q n x made
  have hm : OptAll (fun y => y.1.Inv) made :=
    OptAll.bind (p := fun _ => True) (fun _ _ => trivial) fun _ _ => State.compose_inv hs
  clear_value made
  refine inv_virChecked ?_
  split
  · exact hm _ rfl
  · trivial

theorem VirEnd.Inv.grantQueues {a b} (hs : s.Inv) : (s.grantQueues a b).Inv := inv_virChecked (.modCtx (.modCtx hs))

theorem VirEnd.Inv.grantCells {a b} (hs : s.Inv) : (s.grantCells a b).Inv := inv_virChecked (.modCtx (.modCtx hs))

theorem VirEnd.Inv.grantVf {a b} (hs : s.Inv) : (s.grantVf a b).Inv := inv_virChecked (.modCtx (.modVf hs))

theorem State.Inv.stopOn {cs base n} (hs : s.Inv) : (s.stopOn cs base n).Inv := by
  unfold State.stopOn
  refine .settle ?_
  refine .foldl hs fun _ _ h1 => ?_
  split
  · refine .foldl h1 fun _ _ h2 => ?_
    split
    · split
      · exact .cancelUnit h2
      · exact h2
    · exact h2
  · exact h1

theorem State.Inv.dropGrants {cs} (hs : s.Inv) : (s.dropGrants cs).Inv := hs

theorem VirEnd.Inv.revokeCores {a b} (hs : s.Inv) : (s.revokeCores a b).Inv :=
  inv_virChecked (.addDrain (.stopOn (.foldl (.dropGrants hs) fun _ _ h1 => .modCtx h1)))

theorem OptInv.revokeRange {c q n} (hs : s.Inv) : OptInv (State.revokeRange s c q n) := by
  unfold State.revokeRange
  exact OptAll.map (OptInv.withdraw hs) fun _ h => .addDrain h

theorem VirEnd.Inv.revokeMem {a b} (hs : s.Inv) : (s.revokeMem a b).Inv := by
  unfold State.revokeMem
  extract_lets _ _ _ _ _ p1
  have h1 : OptInv p1 := OptInv.revokeRange hs
  refine inv_virChecked ?_
  clear_value p1
  split
  · exact .modCtx (h1 _ rfl)
  · exact trivial

theorem VirEnd.Inv.revokePages {a b} (hs : s.Inv) : (s.revokePages a b).Inv := by
  unfold State.revokePages
  extract_lets _ _ _ _ p1
  have h1 : OptInv p1 := OptInv.revokeRange hs
  refine inv_virChecked ?_
  clear_value p1
  split
  · exact h1 _ rfl
  · exact trivial

theorem VirEnd.Inv.revokeQueues {a b} (hs : s.Inv) : (s.revokeQueues a b).Inv :=
  inv_virChecked (.addDrain (.modCtx hs))

theorem VirEnd.Inv.revokeCells {a b} (hs : s.Inv) : (s.revokeCells a b).Inv := inv_virChecked (.addDrain (.modCtx hs))

theorem State.Inv.unbindVf {c} (hs : s.Inv) : (s.unbindVf c).Inv := by
  unfold State.unbindVf
  split
  · exact .modCtx (.modVf hs)
  · exact hs

theorem VirEnd.Inv.revokeVf {a b} (hs : s.Inv) : (s.revokeVf a b).Inv := inv_virChecked (.unbindVf hs)

theorem State.Inv.denyPosts {cs} (hs : s.Inv) : (s.denyPosts cs).Inv :=
  .foldl (.foldl hs fun _ _ h1 => .consume h1) fun _ _ h1 => .settle (.applyReply h1)

theorem State.Inv.drainCtx {c} (hs : s.Inv) : (s.drainCtx c).Inv := by
  unfold State.drainCtx
  extract_lets s1 s2
  have h1 : s1.Inv := .clearTables (.unbindVf hs)
  have h2 : s2.Inv := h1
  exact .cancelJob (.modCtx h2)

theorem State.Inv.deleteCtx {c} (hs : s.Inv) : (s.deleteCtx c).Inv :=
  .settle (.denyPosts (.dropColQueues (.foldl (.dropGrants hs) fun _ _ h1 => .drainCtx h1)))

theorem VirEnd.Inv.ctxdel {a} (hs : s.Inv) : (s.ctxdel a).Inv := inv_virChecked (.addDrain (.deleteCtx hs))

theorem VirEnd.Inv.ctxbud {a b} (hs : s.Inv) : (s.ctxbud a b).Inv := inv_virChecked (.modCtx (.modCtx hs))

theorem VirEnd.Inv.ctxstat {a} (hs : s.Inv) : (s.ctxstat a).Inv := inv_virChecked hs

theorem State.Inv.enterCtx {c} (hs : s.Inv) : (s.enterCtx c).Inv := .modCtx (memFilter_wf _ hs)

theorem State.Inv.beginJob {c h tid image arg vf} (hs : s.Inv) : (s.beginJob c h tid image arg vf).1.Inv := by
  unfold State.beginJob
  split
  · exact hs
  · split
    rename_i t1 _ _ h1
    have h2 : t1.Inv := .of_fst h1 (.launchJob hs)
    split
    · exact .settle (.startJob h2)
    · exact h2

theorem State.Inv.enterReport {k st} (hs : s.Inv) : (s.enterReport k st).Inv := hs

theorem CmdEnd.Inv.enterJob {k} (hs : s.Inv) : (State.enterJob k s).Inv := by
  unfold State.enterJob
  split
  · extract_lets
    split
    · exact .enterReport hs
    · split
      rename_i t1 _ h1
      have h2 : t1.Inv := .of_fst h1 (.beginJob hs)
      split
      · exact .enterReport h2
      · exact .enterReport h2
      · exact h2
  · exact hs

theorem State.Inv.ctxenter {ply a image} (hs : s.Inv) : (s.ctxenter ply a image).Inv := by
  unfold State.ctxenter
  extract_lets
  split
  · exact .virReport hs trivial
  · exact .enqueue (.enterCtx hs) (fun _ _ h1 => CmdEnd.Inv.enterJob h1)

theorem State.Inv.reflect {r page} (hs : s.Inv) : (State.reflect s r page).Inv := by
  unfold State.reflect
  extract_lets h x body up t here
  have ht : t.Inv := .setLocal8 hs
  clear_value t
  split
  · exact ht
  · split
    next id u h' =>
    have hu : u.Inv := .of_snd h' (.addPost ht)
    exact hu

theorem canon_execReflect {a look} (hs : s.Inv) : Canon (execReflect a look s) := by
  unfold execReflect
  refine canon_vir hs fun t ht => ?_
  dsimp only
  generalize t.local8 t.curCore ((t.g a).toNat + 0x20) % 2 ^ 63 = v
  split
  · trivial
  · split
    · trivial
    · exact VirEnd.Inv.ok (.reflect ht)

theorem canon_execVirwait {look} (hs : s.Inv) : Canon (execVirwait look s) := by
  unfold execVirwait
  extract_lets
  split
  · exact canon_waitDispatch hs
  · exact canon_unitWait hs

theorem State.Inv.dropDrain {id} (hs : s.Inv) : (s.dropDrain id).Inv := hs

theorem canon_execCoreGrantComplete {ctx} (hs : s.Inv) : Canon (execCoreGrantComplete ctx s) := by
  unfold execCoreGrantComplete
  split
  · exact .next (.dropDrain hs)
  · exact .next hs

theorem canon_execRevocationComplete {n} (hs : s.Inv) : Canon (execRevocationComplete n s) := by
  unfold execRevocationComplete
  split
  · exact .next hs
  · split
    · exact .next hs
    · split
      · exact .next (.modCtx (.dropDrain hs))
      · exact .next (.dropDrain hs)
      · exact .next (.dropDrain hs)
      · exact .next hs

theorem State.Inv.forgetCtxs {cs} (hs : s.Inv) : (s.forgetCtxs cs).Inv := by
  unfold State.forgetCtxs
  extract_lets s1
  have h1 : s1.Inv := .foldl hs fun _ _ h2 => .freeTables h2
  exact h1

theorem canon_execContextDeleteComplete {ctx} (hs : s.Inv) : Canon (execContextDeleteComplete ctx s) := by
  unfold execContextDeleteComplete
  split
  · split
    · exact .next hs
    · split
      · extract_lets _ _ _ s1 s2
        have h1 : s1.Inv := .modCtx hs
        have h2 : s2.Inv := .forgetCtxs h1
        refine .next ?_
        clear_value s2
        split
        · exact .mpDone (.endPartition h2)
        · exact h2
      · exact .next hs
  · exact .next hs

/-! ## The graph engine (Machine/Graph) -/

theorem inv_grfChecked {checks k} (h_k : k.Inv) : (grfChecked checks k).Inv := by
  unfold grfChecked
  split
  · exact trivial
  · exact h_k

theorem CmdEnd.Inv.grfReport {k a} (hs : s.Inv) (h_a : a.Inv) : (s.grfReport k a).Inv := by
  unfold State.grfReport
  split
  · exact .wordsOf hs
  · exact .wordsOf h_a
  · exact h_a

theorem State.Inv.setGraph {c k g} (hs : s.Inv) : (s.setGraph c k g).Inv := hs

theorem State.Inv.readDesc {k va} (hs : s.Inv) : (s.readDesc k va).1.Inv := by
  unfold State.readDesc
  split
  · exact hs
  · split
    rename_i t1 _ h1
    have h2 : t1.Inv := .of_fst h1 (.readVa hs)
    split <;> exact h2

theorem GrfEnd.Inv.gnode {q a b} (hs : s.Inv) : (s.gnode q a b).Inv := by
  unfold State.gnode
  extract_lets
  split
  · exact trivial
  · split
    · exact inv_grfChecked (.setGraph hs)
    · split
      rename_i t1 _ h1
      have h2 : t1.Inv := .of_fst h1 (.readDesc hs)
      split
      · exact h2
      · exact trivial
      · exact inv_grfChecked (.setGraph h2)

theorem GrfEnd.Inv.gedge {q a b gmb} (hs : s.Inv) : (s.gedge q a b gmb).Inv := inv_grfChecked (.setGraph hs)

theorem GrfEnd.Inv.grun {q a arg phase} (hs : s.Inv) : (s.grun q a arg phase).Inv :=
  inv_grfChecked (.settle (.setGraph hs))

theorem GrfEnd.Inv.launchCmd {q a} (hs : s.Inv) : (s.launchCmd q a).Inv := by
  unfold State.launchCmd
  extract_lets
  split
  rename_i t1 _ h1
  have h2 : t1.Inv := .of_fst h1 (.readDesc hs)
  split
  · exact h2
  · exact trivial
  · split
    · exact trivial
    · split
      rename_i t2 _ h3
      have h4 : t2.Inv := .of_fst h3 (.readImage h2)
      split
      · exact h4
      · exact trivial
      · extract_lets
        split
        rename_i t3 _ h5
        have h6 : t3.Inv := .of_fst h5 (.accept h4)
        exact .settle h6

theorem GrfEnd.Inv.shape {c a fin f} (hs : s.Inv) : (s.shape c a fin f).Inv := inv_grfChecked (.settle (.modCtx hs))

theorem GrfEnd.Inv.shapeValue {c a} (hs : s.Inv) : (s.shapeValue c a).Inv := inv_grfChecked hs

theorem GrfEnd.Inv.confirmCmd {c a v} (hs : s.Inv) : (s.confirmCmd c a v).Inv := by
  unfold State.confirmCmd
  extract_lets
  refine inv_grfChecked ?_
  show State.Inv _
  split
  · exact hs
  · exact .settle (.applyShape hs)

theorem State.Inv.cancelTarget {c a} (hs : s.Inv) : (s.cancelTarget c a).Inv := by
  unfold State.cancelTarget
  split
  · exact .cancelUnit hs
  · exact .cancelLaunch hs
  · split
    · exact .cancelGraph hs
    · exact hs
  · extract_lets s1
    have h1 : s1.Inv := by
      unfold s1
      refine .foldl hs fun _ _ h2 => ?_
      split
      · exact .cancelGraph h2
      · exact h2
    exact .foldl h1 fun _ _ h3 => .cancelLaunch h3
  · exact .cancelJob hs

theorem GrfEnd.Inv.cancelCmd {c level a} (hs : s.Inv) : (s.cancelCmd c level a).Inv := by
  unfold State.cancelCmd
  split
  · exact trivial
  · exact .settle (.cancelTarget hs)

theorem GrfEnd.Inv.complCmd {c level res a} (hs : s.Inv) : (s.complCmd c level res a).Inv := by
  unfold State.complCmd
  split
  · exact trivial
  · exact hs

theorem CmdEnd.Inv.grfPerform {k} (hs : s.Inv) : (State.grfPerform k s).Inv := by
  unfold State.grfPerform
  extract_lets
  refine CmdEnd.Inv.grfReport hs ?_
  split
  · exact trivial
  · split
    · exact GrfEnd.Inv.gnode hs
    · exact GrfEnd.Inv.gedge hs
    · exact GrfEnd.Inv.grun hs
    · exact GrfEnd.Inv.launchCmd hs
    · exact GrfEnd.Inv.shape hs
    · exact GrfEnd.Inv.shape hs
    · exact GrfEnd.Inv.shapeValue hs
    · exact GrfEnd.Inv.confirmCmd hs
    · exact GrfEnd.Inv.cancelCmd hs
    · exact GrfEnd.Inv.complCmd hs
    · exact hs

theorem canon_grf {room op} (hs : s.Inv) : Canon (s.grf room op) :=
  canon_dispatchCmd hs (fun _ _ h1 => CmdEnd.Inv.grfPerform h1)

theorem canon_execGrfwait {look} (hs : s.Inv) : Canon (execGrfwait look s) := by
  unfold execGrfwait
  exact canon_unitWait hs

theorem State.Inv.placeAsks {h i} (hs : s.Inv) : (s.placeAsks h i).Inv := by
  unfold State.placeAsks
  split
  · exact hs
  · exact .modCore (.askLeave hs)

theorem State.Inv.eleave {a} (hs : s.Inv) : (s.eleave a).Inv := by
  unfold State.eleave
  extract_lets _ _ s1
  have h1 : s1.Inv := .foldl hs fun _ _ h2 => .placeAsks h2
  split
  · exact .words hs
  · exact .words h1

theorem State.Inv.ebud {a b} (hs : s.Inv) : (s.ebud a b).Inv := by
  unfold State.ebud
  extract_lets _ _ _ p1 s1 s2
  have h1 : s1.Inv := .modCtx hs
  have h2 : s2.Inv := .addEnergy h1
  clear_value p1
  split
  · exact .words hs
  · split
    · exact .words hs
    · split
      · exact .words hs
      · exact .words h2

theorem State.Inv.eread {a} (hs : s.Inv) : (s.eread a).Inv := by
  unfold State.eread
  split <;> exact .words hs

theorem canon_execPwait {look} (hs : s.Inv) : Canon (execPwait look s) := by
  unfold execPwait
  exact canon_unitWait hs

/-! ## Wake conditions, placement and power (Machine/Wake) -/

theorem State.Inv.wakeDone {h tid} (hs : s.Inv) : (s.wakeDone h tid).Inv := hs

theorem State.Inv.wakePage {h tid p va kind} (hs : s.Inv) : (s.wakePage h tid p va kind).Inv := by
  unfold State.wakePage
  split
  · exact hs
  · split
    · exact inv_takeTrap (.modThread hs)
    · exact .modThread hs

theorem State.Inv.wake {h tid} (hs : s.Inv) : (State.wake s h tid).Inv := by
  unfold State.wake
  extract_lets t c
  cases t.wait with
  | woken | yieldu => exact .wakeDone hs
  | page => exact .wakePage hs
  | hjoin =>
    dsimp only
    split
    · exact .joinNow hs
    · exact hs
  | hexit =>
    dsimp only
    split
    · exact hs
    · exact .exitNow hs
  | waitm | confirm =>
    dsimp only
    split
    · exact hs
    · exact .modThread hs
  | waitc | barwt =>
    dsimp only
    split
    · exact .wakeDone hs
    · exact hs
  | tbwait =>
    dsimp only
    split
    · exact .wakeDone (.modThread hs)
    · exact hs
  | colwt =>
    dsimp only
    split
    · exact hs
    · exact .wakeDone (.modThread hs)
  | none | trapReply | wdtStop | dispatch | unitDone | bfmt => exact hs

theorem canon_execThreadWake {h tid} (hs : s.Inv) : Canon (execThreadWake h tid s) := by
  unfold execThreadWake
  split
  · exact .next (.wake hs)
  · exact .next hs

theorem State.Inv.refreshEvicted (hs : s.Inv) : s.refreshEvicted.Inv := by
  unfold State.refreshEvicted
  refine .foldl hs fun _ _ h1 => ?_
  refine .foldl h1 fun _ _ h2 => ?_
  split
  · split
    · exact .setUnit h2
    · exact h2
  · exact h2

theorem canon_execUnitPlacement {part} (hs : s.Inv) : Canon (execUnitPlacement part s) := by
  unfold execUnitPlacement
  split
  · exact .next hs
  · exact .next (.settle (.placeAll (.refreshEvicted hs)))

theorem canon_execUnitEvict {h} (hs : s.Inv) : Canon (execUnitEvict h s) := by
  unfold execUnitEvict
  extract_lets s1
  have h1 : s1.Inv := .refreshEvicted hs
  split
  · exact .next (.evict h1)
  · exact .next h1

theorem canon_execUnitAging {lnum index} (hs : s.Inv) : Canon (execUnitAging lnum index s) := by
  unfold execUnitAging
  split
  · exact .next hs
  · extract_lets
    split
    · refine .next ?_
      split
      · exact .setUnit hs
      · exact hs
    · refine .next ?_
      split
      · exact .setUnit hs
      · exact hs
    · exact .next hs

theorem State.Inv.drainUnit {h} (hs : s.Inv) : (s.drainUnit h).Inv := .foldl hs fun _ _ h1 => .perform h1

theorem canon_execUnitComplete {h} (hs : s.Inv) : Canon (execUnitComplete h s) := by
  unfold execUnitComplete
  split
  · exact .next (.completeUnit (.drainUnit hs))
  · exact .next hs

theorem canon_execForcedUnitStop {h} (hs : s.Inv) : Canon (execForcedUnitStop h s) := by
  unfold execForcedUnitStop
  split
  · exact .next hs
  · exact .next (.stopUnit (.drainUnit hs))

theorem canon_execPhaseCommit {ctx graph} (hs : s.Inv) : Canon (execPhaseCommit ctx graph s) := by
  unfold execPhaseCommit
  extract_lets
  split
  · exact .next hs
  · exact .next (.settle (.setGraph (.boundary hs)))

theorem canon_execEnergyMeter {lnum nj} (hs : s.Inv) : Canon (execEnergyMeter lnum nj s) := by
  unfold execEnergyMeter
  split
  · split
    · exact .next hs
    · exact .next (.modLaunch (.addEnergy hs))
  · exact .next hs

theorem State.Inv.everyCore {h f} (hs : s.Inv) : (s.everyCore h f).Inv := hs

theorem State.Inv.giveLeave {w} (hs : s.Inv) : (s.giveLeave w).Inv := by
  unfold State.giveLeave
  extract_lets
  split
  · exact .everyCore hs
  · exact .everyCore hs
  · exact .everyCore hs
  · exact .everyCore hs
  · exact .everyCore hs
  · exact .modDie hs

theorem canon_execLeaveGrant {die} (hs : s.Inv) : Canon (execLeaveGrant die s) := by
  unfold execLeaveGrant
  extract_lets
  split
  · exact .next hs
  · split
    · exact .next hs
    · exact .next (.giveLeave (.modDie hs))

theorem canon_execLeaveRelease {h engine} (hs : s.Inv) : Canon (execLeaveRelease h engine s) := by
  unfold execLeaveRelease
  extract_lets
  split
  · split
    · exact .next (.modDie (.modCore hs))
    · exact .next hs
  · split
    · exact .next (.modDie (.modDie hs))
    · exact .next hs

/-! ## The counting bus (Machine/Bus) -/

theorem State.Inv.modHandle {i f} (hs : s.Inv) : (s.modHandle i f).Inv := hs

theorem State.Inv.dropHandle {i} (hs : s.Inv) : (s.dropHandle i).Inv := hs

theorem State.Inv.busReport {i tid st} (hs : s.Inv) : (s.busReport i tid st).Inv := hs

theorem State.Inv.settleJoins (hs : s.Inv) : s.settleJoins.Inv := by
  unfold State.settleJoins
  refine .foldl hs fun _ _ h1 => ?_
  split
  split
  · exact .modHandle h1
  · exact h1

theorem State.Inv.leaveNow {i} (hs : s.Inv) : (s.leaveNow i).Inv := by
  unfold State.leaveNow
  split
  · split
    · exact .busReport (.dropHandle (.leaveGroups hs))
    · exact hs
  · exact hs

theorem canon_busCmd1 {f} (hs : s.Inv) (h_f : ∀ a t, t.Inv → (f a t).Inv) : Canon (s.busCmd1 f) :=
  canon_dispatch hs (fun _ _ h1 => h_f _ _ h1)

theorem State.Inv.setBstat {st} (hs : s.Inv) : (s.setBstat st).Inv := hs

theorem canon_execObjoin {a look h} (hs : s.Inv) : Canon (execObjoin a look h s) := by
  unfold execObjoin
  extract_lets
  refine canon_busCmd1 hs fun _ _ h1 => ?_
  extract_lets
  split
  · exact .setBstat h1
  · split
    · exact .setBstat h1
    · exact .modCore h1

theorem canon_busOp {max a b n rnd} (hs : s.Inv) : Canon (s.busOp max a b n rnd) := by
  unfold State.busOp
  extract_lets
  split
  · exact canon_busCmd1 hs (fun _ _ h1 => .setBstat h1)
  · exact canon_dispatchChecked hs (fun _ _ h1 => .modCore h1)

theorem canon_execObleave {look h} (hs : s.Inv) : Canon (execObleave look h s) := by
  unfold execObleave
  extract_lets
  refine canon_busCmd1 hs fun _ _ h1 => ?_
  extract_lets
  split
  · split
    · exact .setBstat h1
    · exact .leaveNow (.modHandle h1)
  · exact .setBstat h1

theorem canon_execObstat {a look h} (hs : s.Inv) : Canon (execObstat a look h s) := by
  unfold execObstat
  extract_lets
  refine canon_dispatch hs fun _ _ h1 => ?_
  extract_lets
  split
  · exact .setBstat h1
  · extract_lets _ _ _ s1
    have h2 : s1.Inv := by
      unfold s1
      split
      · exact .modCtx h1
      · exact h1
    split
    · exact .setBstat h1
    · exact .words h2

theorem canon_execObcal {a look} (hs : s.Inv) : Canon (execObcal a look s) := by
  unfold execObcal
  extract_lets
  refine canon_busCmd1 hs fun _ _ h1 => ?_
  extract_lets _ _ _ s1 s2
  have h2 : s1.Inv := by
    unfold s1
    split
    · exact .modPart h1
    · exact h1
  have h3 : s2.Inv := by
    unfold s2
    clear_value s1
    split
    · exact .modSeg h2
    · exact h2
  split
  · exact .setBstat h1
  · split
    · exact .setBstat (.modCore h1)
    · split
      · exact .setBstat h1
      · exact .setBstat h3

theorem canon_execObwait {look} (hs : s.Inv) : Canon (execObwait look s) := by
  unfold execObwait
  exact canon_unitWait hs

theorem State.Inv.joinRefused {i b st told} (hs : s.Inv) : (s.joinRefused i b st told).Inv := by
  unfold State.joinRefused
  extract_lets s1 s2
  have h1 : s1.Inv := .foldl hs fun _ _ h2 => .netSend h2
  have h3 : s2.Inv := .busReport (.dropHandle h1)
  clear_value s2
  split
  · exact .busReport h3
  · exact h3

theorem State.Inv.joinDone {i b} (hs : s.Inv) : (s.joinDone i b).Inv := by
  unfold State.joinDone
  exact .leaveNow (.settleJoins (.busReport (.modHandle (.foldl hs fun _ _ h1 => .netSend (.modSeg h1)))))

theorem State.Inv.joinDecided {i b far} (hs : s.Inv) : (s.joinDecided i b far).Inv := by
  unfold State.joinDecided
  extract_lets
  split
  · exact .joinDone hs
  · exact .joinRefused hs

theorem canon_execGroupJoinCheck {h handle} (hs : s.Inv) : Canon (execGroupJoinCheck h handle s) := by
  unfold execGroupJoinCheck
  split
  · split
    · extract_lets _ _ s1
      have h1 : s1.Inv := .modHandle hs
      split
      · exact .next (.joinRefused hs)
      · split
        · exact .next (.joinDone hs)
        · exact .next (.foldl h1 fun _ _ h2 => .netSend h2)
    · exact .next hs
  · exact .next hs

theorem State.Inv.joinAnswer {seg gid rank st} (hs : s.Inv) : (s.joinAnswer seg gid rank st).Inv := by
  unfold State.joinAnswer
  split
  · extract_lets
    split
    · exact .joinRefused hs
    · split
      · exact .joinDecided hs
      · exact .modHandle hs
  · split
    · exact .netSend hs
    · exact hs

theorem State.Inv.endBus {i k st} (hs : s.Inv) : (s.endBus i k st).Inv := by
  unfold State.endBus
  split
  · exact hs
  · extract_lets s1 s2 s3
    have h1 : s1.Inv := .modDie hs
    have h2 : s2.Inv := by
      unfold s2
      split
      · clear_value s1
        split
        · exact .endFarLease h1
        · exact h1
      · exact h1
    have h3 : s3.Inv := .flagsOf (.modHandle h2)
    exact .leaveNow (.wordsOf h3)

theorem State.Inv.endGroup {seg gid st p} (hs : s.Inv) : (s.endGroup seg gid st p).Inv := by
  unfold State.endGroup
  refine .foldl hs fun _ _ h1 => ?_
  split
  split
  · exact .endBus h1
  · exact h1

theorem State.Inv.modHead {i f} (hs : s.Inv) : (s.modHead i f).Inv := hs

theorem State.Inv.takeLease {i b o n l} (hs : s.Inv) : (s.takeLease i b o n l).Inv := by
  unfold State.takeLease
  extract_lets _ s1
  have h1 : s1.Inv := by
    unfold s1
    split
    · exact hs
    · exact .wordsOf hs
  exact .modHead h1

theorem State.Inv.tellLease {n gid l} (hs : s.Inv) : (s.tellLease n gid l).Inv := by
  unfold State.tellLease
  extract_lets s1
  have h1 : s1.Inv := .netSend hs
  refine .foldl h1 fun _ _ h2 => ?_
  split
  split
  · split
    · exact h2
    · exact .takeLease h2
  · exact h2

theorem State.Inv.cutLeases {n k sel f} (hs : s.Inv) : (s.cutLeases n k sel f).Inv := by
  unfold State.cutLeases
  split
  · exact hs
  · split
    rename_i t1 _ h1
    have h2 : t1.Inv := by
      refine .of_fst h1 ?_
      refine .foldl_fst hs fun _ _ h3 => ?_
      split
      split
      split
      · split
        split
        · exact h3
        · exact .tellLease (.modHead h3)
      · exact h3
    refine .foldl_fst h2 fun _ _ h4 => ?_
    split
    split
    split
    · exact h4
    · exact .tellLease (.modSeg h4)

theorem State.Inv.cutOwn {n p} (hs : s.Inv) : (s.cutOwn n p).Inv := .cutLeases hs

theorem State.Inv.cutLent {n q room} (hs : s.Inv) : (s.cutLent n q room).Inv := .cutLeases hs

theorem State.Inv.settleCells {n} (hs : s.Inv) : (s.settleCells n).Inv := by
  unfold State.settleCells
  exact .cutLeases (.cutLent (.foldl hs fun _ _ h1 => .cutLent h1))

theorem OptInv.leaseSeg {i b o a4 lent pool} (hs : s.Inv) : OptInv (s.leaseSeg i b o a4 lent pool) := by
  unfold State.leaseSeg
  split
  · extract_lets
    split
    · exact .none
    · exact .some (.settleCells (.tellLease (.takeLease hs)))
  · split
    · exact .some hs
    · exact .some (.netSend (.modHead hs))

theorem State.Inv.leaseFar {n gid part weight asks} (hs : s.Inv) : (s.leaseFar n gid part weight asks).Inv := by
  unfold State.leaseFar
  extract_lets s1
  have h1 : s1.Inv := .modSeg hs
  split
  · exact .endGroup (.netSend h1)
  · exact .settleCells (.tellLease (.modSeg h1))

theorem canon_execLeaseRequest {h handle lent pool} (hs : s.Inv) : Canon (execLeaseRequest h handle lent pool s) := by
  unfold execLeaseRequest
  split
  · exact .next hs
  · split
    · exact .next hs
    · extract_lets seek
      have hseek : OptInv (seek s) :=
        OptAll.foldl (.some hs) fun _ _ ho => .bind ho fun _ ht => OptInv.leaseSeg ht
      split
      · exact .next (.endBus hs)
      · split
        · exact .next hs
        · split
          · exact .next (.getD hseek hs)
          · split
            · exact .next (.endBus hs)
            · split
              · exact .next (.modHead (.askLeave hs))
              · split
                · exact .next hs
                · split
                  · next t ht => exact .next (hseek t ht)
                  · exact .next (.foldl (.endBus hs) fun _ _ h => .netSend h)

theorem State.Inv.busWrite {i o off bs fl} (hs : s.Inv) : (s.busWrite i o off bs fl).Inv := by
  unfold State.busWrite
  extract_lets s1
  have h1 : s1.Inv := .modHead hs
  split
  · rename_i t1 h2
    have h3 : t1.Inv := OptInv.shadowWrite h1 _ h2
    exact .countBytes h3
  · exact .modHead h1

theorem State.Inv.busRecord {i o r} (hs : s.Inv) : (s.busRecord i o r).Inv := by
  unfold State.busRecord
  split
  · exact hs
  · extract_lets _ _ _ s1
    have h1 : s1.Inv := .modHead hs
    split
    · exact hs
    · exact .busWrite h1

theorem State.Inv.busElem {i o rs k v} (hs : s.Inv) : (s.busElem i o rs k v).Inv := by
  unfold State.busElem
  split
  split
  · exact .busRecord (.modHead hs)
  · exact .busWrite hs

theorem State.Inv.busResults {i o c v} (hs : s.Inv) : (s.busResults i o c v).Inv := by
  unfold State.busResults
  extract_lets
  split
  · exact .foldl hs fun _ _ h1 => .busWrite h1
  · exact .foldl hs fun _ _ h1 => .busElem h1

theorem State.Inv.sendChunk {i b o next c rx} (hs : s.Inv) : (s.sendChunk i b o next c rx).1.Inv := by
  unfold State.sendChunk
  split
  split
  rename_i t1 _ _ h1
  have h2 : t1.Inv := by
    refine .of_fst h1 ?_
    refine .foldl_fst hs fun _ _ h3 => ?_
    exact .modPort h3
  exact .modHead h2

theorem State.Inv.replyChunk {i b o k reply} (hs : s.Inv) : (s.replyChunk i b o k reply).1.Inv := by
  unfold State.replyChunk
  extract_lets s1 _ s2 _ s3
  have h1 : s1.Inv := .foldl hs fun _ _ h2 => .modPort h2
  have h3 : s2.Inv := .modHead h1
  have h4 : s3.Inv := .modHead h1
  split
  · exact h1
  · split
    · exact .busResults h3
    · show State.Inv _
      clear_value s3
      split
      · exact .foldl h4 fun _ _ h5 => .modSeg h5
      · exact h4

theorem State.Inv.replyChunks {i b o l} (hs : s.Inv) : (State.replyChunks s i b o l).1.Inv := by
  induction l generalizing s with
  | nil => exact hs
  | cons x l ih =>
    have hx : (s.replyChunk i b o x.1 x.2).1.Inv := .replyChunk hs
    unfold State.replyChunks
    split
    · next t h => exact ih (.of_fst h hx)
    · exact hx

theorem State.Inv.newFrame {b} (hs : s.Inv) : (s.newFrame b).Inv := .foldl hs fun _ _ h1 => .modPort h1

theorem State.Inv.busError {i b} (hs : s.Inv) : (s.busError i b).Inv :=
  .foldl (.endBus hs) fun _ _ h1 => .netSend h1

theorem canon_execBusFrame {h handle rx} (hs : s.Inv) : Canon (execBusFrame h handle rx s) := by
  unfold execBusFrame
  split
  · exact .next hs
  · split
    · exact .next hs
    · split
      · exact .next (.endBus hs)
      · split
        · exact .next hs
        · split
          · exact .next (.busError hs)
          · extract_lets _ s1
            have h1 : s1.Inv := .modHead (.newFrame hs)
            split
            rename_i t1 _ h2
            have h3 : t1.Inv := by
              refine .of_fst h2 ?_
              refine .foldl_fst h1 fun _ _ h4 => ?_
              exact .sendChunk h4
            split
            · rename_i t2 _ h5
              have h6 : t2.Inv := .of_fst h5 (.replyChunks h3)
              exact .next (.busError h6)
            · rename_i t3 h7
              have h8 : t3.Inv := .of_fst h7 (.replyChunks h3)
              extract_lets
              refine .next ?_
              split
              · exact .endBus h8
              · exact h8

theorem canon_execBusOpTimeout {h handle} (hs : s.Inv) : Canon (execBusOpTimeout h handle s) := by
  unfold execBusOpTimeout
  split
  · exact .next hs
  · split
    · exact .next (.endBus hs)
    · exact .next hs

theorem canon_execCalibration {seg wlim excluded} (hs : s.Inv) : Canon (execCalibration seg wlim excluded s) := by
  unfold execCalibration
  split
  · exact .next hs
  · extract_lets _ _ s1
    have h1 : s1.Inv := .modSeg hs
    refine .next ?_
    refine .foldl h1 fun _ _ h2 => ?_
    split
    split
    · extract_lets _ s2
      have h3 : s2.Inv := .modPort h2
      clear_value s2
      split
      · exact .report h3
      · exact h3
    · exact h2

theorem State.Inv.shortGuarantee {seg p} (hs : s.Inv) : (s.shortGuarantee seg p).Inv := hs

theorem State.Inv.setRate {seg r} (hs : s.Inv) : (s.setRate seg r).Inv := by
  unfold State.setRate
  exact .settleCells (.foldl (.modSeg hs) fun _ _ h1 => .shortGuarantee (.cutOwn h1))

theorem canon_execPortTrainingDone {port rate ok} (hs : s.Inv) : Canon (execPortTrainingDone port rate ok s) := by
  unfold execPortTrainingDone
  split
  · exact .next hs
  · split
    · exact .next hs
    · extract_lets s1 _ _ s2 _ s3
      have h1 : s1.Inv := .modPort hs
      have h2 : s2.Inv := .modPort h1
      have h3 : s3.Inv := h2
      split
      · exact .next h1
      · split
        · exact .next (.report (.modPort h1))
        · exact .next (.setRate h3)

theorem State.Inv.netGrant {seg gid own lent pool} (hs : s.Inv) : (s.netGrant seg gid own lent pool).Inv := by
  unfold State.netGrant
  extract_lets
  refine .foldl hs fun _ _ h1 => ?_
  split
  split
  · split
    · split
      · exact .takeLease h1
      · exact h1
    · exact .takeLease h1
  · exact h1

theorem State.Inv.recordJoin {seg gid rank part n} (hs : s.Inv) : (s.recordJoin seg gid rank part n).Inv := by
  unfold State.recordJoin
  refine .settleJoins ?_
  refine .foldl hs fun _ _ h1 => ?_
  split
  · exact .modSeg h1
  · exact h1

theorem canon_execManagementNetworkMessage {m} (hs : s.Inv) : Canon (execManagementNetworkMessage m s) := by
  unfold execManagementNetworkMessage
  split
  · split
    · extract_lets
      refine .next ?_
      refine .netSend ?_
      split
      · exact .recordJoin hs
      · exact hs
    · exact .next hs
  · exact .next (.joinAnswer hs)
  · exact .next (.recordJoin hs)
  · split
    · exact .next (.leaseFar hs)
    · exact .next hs
  · exact .next (.modSeg hs)
  · refine .next ?_
    split
    · exact hs
    · exact .netGrant hs
  · exact .next (.endGroup hs)
  · exact .next (.endGroup hs)
  · exact .next (.endGroup hs)
  · split
    · exact .next (.setRate (.modSeg hs))
    · exact .next (.modSeg hs)
  · exact .next (.foldl hs fun _ _ h1 => .modSeg h1)

/-! ## The collective engine (Machine/Collective) -/

theorem State.Inv.modCol {die f} (hs : s.Inv) : (s.modCol die f).Inv := hs

theorem State.Inv.modColQ {die q f} (hs : s.Inv) : (s.modColQ die q f).Inv := hs

theorem State.Inv.modColOp {die q seq f} (hs : s.Inv) : (s.modColOp die q seq f).Inv := hs

theorem State.Inv.colVaRead {o va n} (hs : s.Inv) : (s.colVaRead o va n).1.Inv := by
  unfold State.colVaRead
  refine .foldl_fst hs fun _ _ h1 => ?_
  split
  split
  split
  · split
    rename_i t1 _ h2
    have h3 : t1.Inv := .of_fst h2 (.engineTranslate h1)
    split
    · split
      · split
        · exact .strike h3
        · exact h3
      · exact h3
    · exact h3
    · exact h3
  · exact h1

theorem State.Inv.colRead {k o c} (hs : s.Inv) : (s.colRead k o c).1.Inv := by
  unfold State.colRead
  split
  extract_lets
  split
  · exact hs
  · split
    · exact hs
    · exact .colVaRead hs

theorem State.Inv.colVaWrite {o va bs} (hs : s.Inv) : (s.colVaWrite o va bs).1.Inv := by
  unfold State.colVaWrite
  extract_lets
  split
  rename_i t1 _ h1
  have h2 : t1.Inv := by
    refine .of_fst h1 ?_
    refine .foldl_fst hs fun _ _ h3 => ?_
    split
    split
    split
    · split
      rename_i t2 _ h4
      have h5 : t2.Inv := .of_fst h4 (.engineTranslate h3)
      split
      · split <;> exact h5
      · exact h5
      · exact h5
    · exact h3
  split
  · exact .foldl h2 fun _ _ h6 => .storeLoc h6
  · exact h2
  · exact h2
  · exact h2

theorem State.Inv.colCount {o fuel a n} (hs : s.Inv) : (State.colCount s o fuel a n).Inv := by
  induction fuel generalizing s a n with
  | zero => exact hs
  | succ fuel ih =>
    unfold State.colCount
    split
    · exact hs
    · exact ih (.countBytes hs)

theorem State.Inv.colTileWrite {k o p} (hs : s.Inv) : (s.colTileWrite k o p).1.Inv := by
  unfold State.colTileWrite
  split
  extract_lets
  split
  · exact hs
  · split
    · exact hs
    · split
      · exact hs
      · split
        rename_i t1 _ h1
        have h2 : t1.Inv := by
          refine .of_fst h1 ?_
          refine .foldl_fst hs fun _ _ h3 => ?_
          split
          split
          · rename_i t2 h4
            have h5 : t2.Inv := OptInv.shadowWrite h3 _ h4
            exact .colCount h5
          · exact h3
        exact h2

theorem State.Inv.colWrite {k o p} (hs : s.Inv) : (s.colWrite k o p).1.Inv := by
  unfold State.colWrite
  split
  split
  · exact hs
  · split
    · exact .colTileWrite hs
    · extract_lets
      split
      · exact hs
      · extract_lets
        split
        rename_i t1 _ h1
        have h2 : t1.Inv := .of_fst h1 (.colVaWrite hs)
        split
        · exact .colCount h2
        · exact h2
        · exact h2
        · exact h2

theorem State.Inv.colDown {die k o p} (hs : s.Inv) : (s.colDown die k o p).Inv :=
  .foldl hs fun _ _ h1 => .colSend h1

theorem State.Inv.colEnd {die q seq st} (hs : s.Inv) : (s.colEnd die q seq st).Inv := by
  unfold State.colEnd
  split <;> exact hs

theorem State.Inv.colFail {die q seq st} (hs : s.Inv) : (s.colFail die q seq st).Inv := by
  unfold State.colFail
  split
  · exact .colEnd (.colAbort hs)
  · exact hs

theorem State.Inv.colFinish {die q seq c} (hs : s.Inv) : (s.colFinish die q seq c).Inv := by
  unfold State.colFinish
  split
  · extract_lets
    split
    · exact .colFail hs
    · split
      · exact hs
      · split
        rename_i t1 _ h1
        have h2 : t1.Inv := .of_fst h1 (.colWrite hs)
        split
        · extract_lets s1
          have h3 : s1.Inv := .modColOp h2
          clear_value s1
          split
          · exact .colEnd h3
          · exact h3
        · exact .modColOp h2
        · exact h2
        · exact .colFail h2
  · exact hs

theorem State.Inv.colResult {die q seq p} (hs : s.Inv) : (s.colResult die q seq p).Inv := by
  unfold State.colResult
  split
  · exact .colFinish (.modColOp (.colDown hs))
  · exact hs

theorem State.Inv.colJoin {die q seq c} (hs : s.Inv) : (s.colJoin die q seq c).Inv := by
  unfold State.colJoin
  split
  · extract_lets
    split
    · exact hs
    · split
      · exact .colResult hs
      · exact .modColOp (.colSend hs)
  · exact hs

theorem State.Inv.colStep {die q k o c} (hs : s.Inv) : (s.colStep die q k o c).Inv := by
  unfold State.colStep
  split
  · exact .colFail hs
  · split
    rename_i t1 _ h1
    have h2 : t1.Inv := .of_fst h1 (.colRead hs)
    split
    · exact .colJoin (.modColOp h2)
    · exact .modColOp h2
    · exact h2
    · exact .colFail h2

theorem canon_execCollectiveChunkStep {die} (hs : s.Inv) : Canon (execCollectiveChunkStep die s) := by
  unfold execCollectiveChunkStep
  extract_lets
  split
  split
  · exact .next (.modCol hs)
  · split
    · split
      · exact .next hs
      · exact .next (.modCol (.askLeave hs))
    · exact .next (.colStep (.modCol hs))

theorem State.Inv.colAct {die q o p} (hs : s.Inv) : (s.colAct die q o p).Inv := by
  unfold State.colAct
  extract_lets s1
  have h1 : s1.Inv := .modColOp hs
  split
  · exact .colJoin (.modColOp h1)
  · split
    · exact .colResult h1
    · split <;> exact .colFail h1

theorem canon_execCollectivePacketReceive {die p} (hs : s.Inv) : Canon (execCollectivePacketReceive die p s) := by
  unfold execCollectivePacketReceive
  extract_lets s1
  have h1 : s1.Inv := hs
  split
  · exact .next h1
  · split
    · refine .next ?_
      clear_value s1
      split
      · exact h1
      · exact hs
    · split
      · exact .next hs
      · split
        · exact .next (.colAct h1)
        · exact .next hs
        · exact .next (.colFail h1)
        · exact .next h1

theorem canon_execCollectiveTimeout {die queue seq} (hs : s.Inv) : Canon (execCollectiveTimeout die queue seq s) := by
  unfold execCollectiveTimeout
  split
  · split
    · exact .next (.colFail hs)
    · exact .next hs
  · exact .next hs

theorem State.Inv.clReport {j st res} (hs : s.Inv) : (s.clReport j st res).Inv := hs

theorem CmdEnd.Inv.colDesc {j va f} (hs : s.Inv) (h_f : ∀ a t, t.Inv → (f a t).Inv) : (s.colDesc j va f).Inv := by
  unfold State.colDesc
  split
  · exact .clReport hs
  · split
    rename_i t1 _ h1
    have h2 : t1.Inv := .of_fst h1 (.readVa hs)
    split
    · exact h_f _ _ h2
    · exact .clReport h2
    · exact h2

theorem State.Inv.colq {j d} (hs : s.Inv) : (s.colq j d).Inv := by
  unfold State.colq
  extract_lets _ _ _ _ _ _ _ _ _ _ _ s1
  have h1 : s1.Inv := .modCol hs
  split
  · exact .clReport hs
  · exact .clReport h1

theorem State.Inv.colput {j a d} (hs : s.Inv) : (s.colput j a d).Inv := by
  unfold State.colput
  extract_lets _ _ _ s1
  have h1 : s1.Inv := by
    unfold s1
    split
    · exact .drain hs
    · exact hs
  split
  · exact .clReport hs
  · split
    · exact .clReport hs
    · split
      · exact .clReport hs
      · exact .clReport (.modColQ h1)

theorem State.Inv.colgo {j a} (hs : s.Inv) : (s.colgo j a).Inv := by
  unfold State.colgo
  extract_lets _ _ s1
  have h1 : s1.Inv := .modColQ hs
  split
  · exact .clReport h1
  · exact .clReport hs

theorem State.Inv.colwtOver {j st disc} (hs : s.Inv) : (s.colwtOver j st disc).Inv := hs

theorem State.Inv.colwt {j a b} (hs : s.Inv) : (s.colwt j a b).Inv := by
  unfold State.colwt
  extract_lets
  split
  · split
    · exact hs
    · exact .colwtOver hs
  · exact .colwtOver hs

theorem State.Inv.colcan {j a b} (hs : s.Inv) : (s.colcan j a b).Inv := by
  unfold State.colcan
  extract_lets _ _ _ s1 s2
  have h1 : s1.Inv := .foldl hs fun _ _ h2 => .colFail h2
  have h3 : s2.Inv := by
    unfold s2
    clear_value s1
    split
    · exact .modCol h1
    · exact h1
  split
  · exact .clReport hs
  · split
    · exact .clReport h3
    · exact .clReport hs

theorem CmdEnd.Inv.colPerform {j} (hs : s.Inv) : (State.colPerform j s).Inv := by
  unfold State.colPerform
  split
  · exact CmdEnd.Inv.colDesc hs (fun _ _ h1 => .colq h1)
  · exact CmdEnd.Inv.colDesc hs (fun _ _ h2 => .colput h2)
  · exact .colgo hs
  · exact .colwt hs
  · exact .colcan hs
  · exact hs

theorem canon_colCmd {op} (hs : s.Inv) : Canon (s.colCmd op) :=
  canon_dispatchCmd hs (fun _ _ h1 => CmdEnd.Inv.colPerform h1)

theorem canon_execColwt {a b look} (hs : s.Inv) : Canon (execColwt a b look s) := by
  unfold execColwt
  extract_lets
  refine canon_dispatchTo hs fun _ _ h1 => ?_
  extract_lets _ _ s1 s2
  have h2 : s1.Inv := .blockAt h1
  have h3 : s2.Inv := .enqueue h2 (fun _ _ h4 => CmdEnd.Inv.colPerform h4)
  clear_value s1
  split
  · clear_value s2
    split
    · exact .wakeDone h3
    · exact h3
  · exact h2

theorem canon_execColsync {look} (hs : s.Inv) : Canon (execColsync look s) := by
  unfold execColsync
  exact canon_unitWait hs

/-! ## System instructions (Machine/Sys) -/

theorem canon_illegal (hs : s.Inv) : Canon s.illegal := .next (.trap hs)

theorem canon_execSrr {d num} (hs : s.Inv) : Canon (execSrr d num s) := by
  unfold execSrr
  extract_lets
  split
  · exact canon_illegal hs
  · split
    · split
      · exact canon_result hs
      · exact .next (.trap hs)
    · exact canon_result hs

theorem canon_execSrw {a num} (hs : s.Inv) : Canon (execSrw a num s) := by
  unfold execSrw
  extract_lets
  split
  · exact canon_illegal hs
  · split
    · split
      · exact .next (.trap hs)
      · split
        · exact .next (.block hs)
        · exact .next (.retire (.writeBfmt hs))
    · exact .next (.retire (.sysWrite hs))

theorem canon_execTrap {code} (hs : s.Inv) : Canon (execTrap code s) := by
  unfold execTrap
  extract_lets _ _ s1
  have h1 : s1.Inv := .drainPend hs
  split
  · rename_i t1 h2
    have h3 : t1.Inv := OptInv.takeRefused h1 _ h2
    exact .next h3
  · exact .next (.trapAt (.modCur h1))

theorem canon_execBrk {code} (hs : s.Inv) : Canon (execBrk code s) := by
  unfold execBrk
  split
  · extract_lets s1
    have h1 : s1.Inv := .drainPend hs
    split
    · rename_i t1 h2
      have h3 : t1.Inv := OptInv.takeRefused h1 _ h2
      exact .next h3
    · exact .next (.modCur h1)
  · exact .next (.trap hs)

theorem canon_execRte (hs : s.Inv) : Canon (execRte s) := by
  unfold execRte
  split
  · exact .next (.modCur hs)
  · exact .next (.trap hs)

theorem canon_execBfmtWrite {h tid} (hs : s.Inv) : Canon (execBfmtWrite h tid s) := by
  unfold execBfmtWrite
  split
  · split
    · exact .next hs
    · exact .next (.modThread (.writeBfmt hs))
  · exact .next hs

theorem canon_onUnit {h f} (hs : s.Inv) (h_f : ∀ t, t.Inv → (f t).Inv) : Canon (s.onUnit h f) := by
  unfold State.onUnit
  split
  · exact .next hs
  · exact .next (h_f _ hs)

theorem canon_execLcntWrite {h tid level v} (hs : s.Inv) : Canon (execLcntWrite h tid level v s) := by
  unfold execLcntWrite
  split
  · exact .next hs
  · exact .next (.modThread hs)

/-! ## Reads of unit words (Machine/Mfc) -/

theorem canon_execMfc {d unit word} (hs : s.Inv) : Canon (execMfc d unit word s) := by
  unfold execMfc
  split
  · exact .next (.retire (.setG hs))
  · exact canon_illegal hs

/-! ## Quasi-random commands (Machine/Qrn) -/

theorem canon_qrnDispatch {q} (hs : s.Inv) : Canon (s.qrnDispatch q) :=
  canon_dispatch hs (fun _ _ h1 => .modCore h1)

theorem canon_execQwait {look} (hs : s.Inv) : Canon (execQwait look s) := by
  unfold execQwait
  exact canon_unitWait hs

theorem State.Inv.modTab {h f} (hs : s.Inv) : (s.modTab h f).Inv := hs

theorem State.Inv.qrnLoad {h q} (hs : s.Inv) : (s.qrnLoad h q).Inv := .foldl hs fun _ _ h1 => .modTab h1

theorem State.Inv.qrnShift {h q} (hs : s.Inv) : (s.qrnShift h q).Inv := .foldl hs fun _ _ h1 => .modTab h1

theorem State.Inv.qrnPoint {h q} (hs : s.Inv) : (s.qrnPoint h q).1.Inv := hs

theorem State.Inv.qrnSeq {h q} (hs : s.Inv) : (s.qrnSeq h q).1.Inv :=
  .wordsAt (.advanceStream (.foldl hs fun _ _ h1 => .streamWrite h1))

theorem State.Inv.qrnRun {h q} (hs : s.Inv) : (s.qrnRun h q).1.Inv := by
  unfold State.qrnRun
  split
  · exact .qrnLoad hs
  · exact .qrnShift hs
  · exact .qrnPoint hs
  · exact .qrnSeq hs
  · exact .wordsAt hs

theorem canon_execQrnCommandPerform {h} (hs : s.Inv) : Canon (execQrnCommandPerform h s) := by
  unfold execQrnCommandPerform
  split
  · exact .next hs
  · split
    · exact .next hs
    · extract_lets
      split
      · exact .next (.lateOf (.modCore hs))
      · split
        rename_i t1 _ h1
        have h2 : t1.Inv := .of_fst h1 (.qrnRun (.modCore hs))
        exact .next (.raiseAt h2)

/-! ## Acceptance of commands (Machine/Command) -/

theorem canon_command {i} (hs : s.Inv) : Canon (command i s) := by
  cases i with
  | barcfg => unfold command; exact canon_execBarcfg hs
  | bararv => unfold command; exact canon_dispatch hs fun _ _ h => .barTry (.drain h)
  | barwt => unfold command; exact canon_execBarwt hs
  | armc => unfold command; exact canon_execArmc hs
  | waitc => unfold command; exact canon_execWaitc hs
  | tbdef => unfold command; exact canon_execTbdef hs
  | tbst => unfold command; exact canon_execTbst hs
  | tbfree => unfold command; exact canon_execTbfree hs
  | tbwait => unfold command; exact canon_execTbwait hs
  | publ => unfold command; exact canon_execPubl hs
  | vcvt | vadd | vsub | vmul | vfma | vmax | vmin | vceq | vclt | vcle | vsel | vscale | vsbase | vsdim | vson
    | vsoff | vsetvl | vexp2 | vlog2 | vrcp | vrsq | vsumx | vdotx | vrdq | vclrq | vmaxr | vmaxx | vqnt =>
    unfold command; exact canon_vecDispatch hs
  | vwait => unfold command; exact canon_execVwait hs
  | mclr | mmaw | mmah | mmae | mmai | mmas | mmaq | mrd | mld | mst => unfold command; exact canon_matDispatch hs
  | mwait => unfold command; exact canon_execMwait hs
  | mcfg => unfold command; exact canon_execMcfg hs
  | cshape => unfold command; exact canon_execCshape hs
  | chl | clh | cbb | cmc | cgath | cscat => unfold command; exact canon_copyDispatch hs
  | cidx => unfold command; exact canon_execCidx hs
  | cwait => unfold command; exact canon_execCwait hs
  | qld | qscr | qpt | qseq | qskip => unfold command; exact canon_qrnDispatch hs
  | qwait => unfold command; exact canon_execQwait hs
  | objoin => unfold command; exact canon_execObjoin hs
  | obmax | obred => unfold command; exact canon_busOp hs
  | obstat => unfold command; exact canon_execObstat hs
  | obleave => unfold command; exact canon_execObleave hs
  | obcal => unfold command; exact canon_execObcal hs
  | obwait => unfold command; exact canon_execObwait hs
  | colq | colput | colgo | colcan => unfold command; exact canon_colCmd hs
  | colwt => unfold command; exact canon_execColwt hs
  | colsync => unfold command; exact canon_execColsync hs
  | gnode | gedge | grun | launch | shapeAdd | shapeSet | shapeRead | confirm | cancel | compl =>
    unfold command; exact canon_grf hs
  | grfwait => unfold command; exact canon_execGrfwait hs
  | ctxnew => unfold command; exact canon_vir hs fun _ h => VirEnd.Inv.ctxnew h
  | grantCores => unfold command; exact canon_vir hs fun _ h => VirEnd.Inv.grantCores h
  | grantMem => unfold command; exact canon_vir hs fun _ h => VirEnd.Inv.grantMem h
  | grantPages => unfold command; exact canon_vir hs fun _ h => VirEnd.Inv.grantPages h
  | grantQueues => unfold command; exact canon_vir hs fun _ h => VirEnd.Inv.grantQueues h
  | grantCells => unfold command; exact canon_vir hs fun _ h => VirEnd.Inv.grantCells h
  | grantVf => unfold command; exact canon_vir hs fun _ h => VirEnd.Inv.grantVf h
  | revokeCores => unfold command; exact canon_vir hs fun _ h => VirEnd.Inv.revokeCores h
  | revokeMem => unfold command; exact canon_vir hs fun _ h => VirEnd.Inv.revokeMem h
  | revokePages => unfold command; exact canon_vir hs fun _ h => VirEnd.Inv.revokePages h
  | revokeQueues => unfold command; exact canon_vir hs fun _ h => VirEnd.Inv.revokeQueues h
  | revokeCells => unfold command; exact canon_vir hs fun _ h => VirEnd.Inv.revokeCells h
  | revokeVf => unfold command; exact canon_vir hs fun _ h => VirEnd.Inv.revokeVf h
  | ctxdel => unfold command; exact canon_vir hs fun _ h => VirEnd.Inv.ctxdel h
  | ctxbud => unfold command; exact canon_vir hs fun _ h => VirEnd.Inv.ctxbud h
  | ctxstat => unfold command; exact canon_vir hs fun _ h => VirEnd.Inv.ctxstat h
  | ctxenter => unfold command; exact canon_dispatch hs fun _ _ h => .ctxenter h
  | reflect => unfold command; exact canon_execReflect hs
  | virwait => unfold command; exact canon_execVirwait hs
  | eleave => unfold command; exact canon_dispatch hs fun _ _ h => .eleave h
  | ebud => unfold command; exact canon_dispatch hs fun _ _ h => .ebud h
  | eread => unfold command; exact canon_dispatch hs fun _ _ h => .eread h
  | pwait => unfold command; exact canon_execPwait hs
  | _ => exact .next hs

/-! ## Traps, castling and the trip (Machine/Traps) -/

theorem canon_execTrapMessagePost {n} (hs : s.Inv) : Canon (execTrapMessagePost n s) := by
  unfold execTrapMessagePost
  refine .next ?_
  split
  · exact .postRecord hs
  · exact hs

theorem canon_execPageRequestPost {n} (hs : s.Inv) : Canon (execPageRequestPost n s) := by
  unfold execPageRequestPost
  refine .next ?_
  split
  · exact .postRecord hs
  · exact hs

theorem canon_execTrapReplyConsume {h off v} (hs : s.Inv) : Canon (execTrapReplyConsume h off v s) := by
  unfold execTrapReplyConsume
  refine .next ?_
  split
  · exact .mailboxWrite hs
  · exact hs

theorem canon_execPageReplyConsume {h off v} (hs : s.Inv) : Canon (execPageReplyConsume h off v s) := by
  unfold execPageReplyConsume
  refine .next ?_
  split
  · exact .mailboxWrite hs
  · exact hs

theorem canon_execLateFaultArrival {h tid code ply addr unit} (hs : s.Inv) :
    Canon (execLateFaultArrival h tid code ply addr unit s) := by
  unfold execLateFaultArrival
  split
  · exact .next (inv_lateFault hs)
  · exact .next hs

theorem canon_execLateFaultDelivery {h tid} (hs : s.Inv) : Canon (execLateFaultDelivery h tid s) := by
  unfold execLateFaultDelivery
  split
  · exact .next (.deliverLate hs)
  · exact .next hs

theorem canon_again {h tid word} (hs : s.Inv) : Canon (s.again h tid word) := by
  unfold State.again
  split
  · exact canon_command hs
  · exact .next hs

theorem canon_execUnitAcceptCommand {h tid} (hs : s.Inv) : Canon (execUnitAcceptCommand h tid s) := by
  unfold execUnitAcceptCommand
  split
  · split
    · exact canon_again hs
    · exact .next hs
  · exact .next hs

theorem canon_restartThread {h tid} (hs : s.Inv) : Canon (s.restartThread h tid) := by
  unfold State.restartThread
  split
  · exact .next hs
  · split
    · exact .next (.wakePage hs)
    · exact .next hs

theorem inv_perform {k} (hs : s.Inv) : (PendCmd.perform k s).Inv := by
  unfold PendCmd.perform
  split
  · exact CmdEnd.Inv.colPerform hs
  · split
    · exact CmdEnd.Inv.enterJob hs
    · exact CmdEnd.Inv.grfPerform hs

theorem State.Inv.restartCmd {id} (hs : s.Inv) : (s.restartCmd id).Inv := by
  unfold State.restartCmd
  split
  · exact hs
  · split
    · exact hs
    · split
      · rename_i t1 h1
        have h2 : t1.Inv := CmdEnd.Inv.of_eq h1 (inv_perform hs)
        exact .settle h2
      · rename_i t2 _ h3
        have h4 : t2.Inv := CmdEnd.Inv.of_eq h3 (inv_perform hs)
        exact h4

theorem State.Inv.restartCollective {die q} (hs : s.Inv) : (s.restartCollective die q).Inv := by
  unfold State.restartCollective
  extract_lets
  split
  · exact .foldl hs fun _ _ h1 => .colFinish h1
  · exact hs

theorem canon_execHomePerformAccess {sel} (hs : s.Inv) : Canon (execHomePerformAccess sel s) := by
  unfold execHomePerformAccess
  split
  · exact .next (.perform hs)
  · exact .next (.copyStep hs)
  · split
    · exact .next hs
    · split
      · exact .next (.storeLoc hs)
      · exact .next hs

theorem canon_execInvalidationRequest {h off v} (hs : s.Inv) : Canon (execInvalidationRequest h off v s) := by
  unfold execInvalidationRequest
  split
  · exact .next (.mailboxWrite hs)
  · exact .next hs

theorem canon_execInvalidationDone {n} (hs : s.Inv) : Canon (execInvalidationDone n s) := by
  unfold execInvalidationDone
  split
  · exact .next hs
  · extract_lets _ s1 s2
    have h1 : s1.Inv := hs
    have h2 : s2.Inv := .mailboxWrite h1
    split
    · exact .next hs
    · split
      · exact .next (.startInval h2)
      · exact .next h2

theorem canon_execWatchdogExpire {h} (hs : s.Inv) : Canon (execWatchdogExpire h s) := by
  unfold execWatchdogExpire
  split
  · exact .next hs
  · split
    · exact .next hs
    · extract_lets _ s1
      have h1 : s1.Inv := .foldl hs fun _ _ h2 => .modThread (.drainPend h2)
      exact .next (.modCore h1)

theorem State.Inv.finishVector {h n} (hs : s.Inv) : (State.finishVector s h n).Inv := by
  induction n generalizing s with
  | zero => exact hs
  | succ n ih =>
    unfold State.finishVector
    split
    · exact hs
    · split
      · next t ht => exact ih (canon_execVectorCommandPerform hs t ht)
      · exact hs

theorem State.Inv.flushCore {h} (hs : s.Inv) : (s.flushCore h).Inv := .foldl hs fun _ _ h1 => .perform h1

theorem canon_execCastleStop {part} (hs : s.Inv) : Canon (execCastleStop part s) := by
  unfold execCastleStop
  extract_lets _ _ s1 _ s2
  have h1 : s1.Inv := .foldl hs fun _ _ h2 => .flushCore (.finishVector h2)
  have h3 : s2.Inv := memFilter_wf _ h1
  split
  · exact .next hs
  · exact .next (.modPart h3)

theorem State.Inv.dropShared {p} (hs : s.Inv) : (s.dropShared p).Inv := hs

theorem canon_execCastleResume {part} (hs : s.Inv) : Canon (execCastleResume part s) := by
  unfold execCastleResume
  extract_lets p held
  split
  · exact .next hs
  · split
    · exact .next (.dropShared (.modPart hs))
    · extract_lets cores mem s1 s2
      have h1 : s1.Inv := memFoldl_wf hs fun _ _ hm => memSet_wf _ _ hm
      exact .next (.foldl (.dropShared (.modPart h1)) fun _ _ h => .settleCells h)

theorem canon_execThermalTrip {die} (hs : s.Inv) : Canon (execThermalTrip die s) := by
  unfold execThermalTrip
  extract_lets _ s1
  have h1 : s1.Inv := .foldl hs fun _ _ h2 => .flushCore (.finishVector h2)
  exact .next h1

/-! ## Errors (Machine/Errors) -/

theorem State.Inv.dropEntry {h place} (hs : s.Inv) : (s.dropEntry h place).Inv := by
  unfold State.dropEntry
  split
  · exact hs
  · exact .modCore hs
  · exact .modCore hs
  · exact hs
  · exact hs
  · exact .modCore hs
  · exact hs

theorem State.Inv.chargeAll {ts} (hs : s.Inv) : (s.chargeAll ts).Inv := .foldl hs fun _ _ h1 => .charge h1

theorem State.Inv.addPoison {spa} (hs : s.Inv) : (s.addPoison spa).Inv := hs

theorem State.Inv.chargeUnit {u} (hs : s.Inv) : (s.chargeUnit u).Inv := by
  unfold State.chargeUnit
  split
  · exact .charge hs
  · exact hs

theorem State.Inv.loseJobs {t} (hs : s.Inv) : (s.loseJobs t).Inv := .foldl hs fun _ _ h1 => .loseJob h1

theorem canon_execUncorrectableError {place} (hs : s.Inv) : Canon (execUncorrectableError place s) := by
  unfold execUncorrectableError
  refine .next ?_
  split
  · exact .chargeUnit hs
  · exact .chargeUnit hs
  · exact .chargeUnit hs
  · exact .chargeUnit hs
  · exact .addPoison hs
  · exact .addPoison hs
  · split
    · exact .loseJobs hs
    · exact hs
  · exact .chargeUnit hs
  · exact .chargeAll hs

theorem State.Inv.loseLine {spa} (hs : s.Inv) : (State.loseLine s spa).Inv := by
  dsimp only [State.loseLine, State.Inv]
  exact memStore_wf _ _ hs

theorem canon_execL2TagParityError {die way spa} (hs : s.Inv) : Canon (execL2TagParityError die way spa s) := by
  unfold execL2TagParityError
  extract_lets s1 s2
  have h1 : s1.Inv := by
    unfold s1
    split
    · exact .loseLine hs
    · exact hs
  have h2 : s2.Inv := .modDie h1
  exact .next (.chargeAll h2)

/-! ## Control flow (Machine/Flow) -/

theorem canon_branch {off taken} (hs : s.Inv) : Canon (s.branch off taken) := by
  unfold State.branch
  split
  · exact .next (.jumpTo hs)
  · exact .next (.retire hs)

theorem canon_jumpReg {target k cancels} (hs : s.Inv) (h_k : ∀ t, t.Inv → (k t).Inv) :
    Canon (s.jumpReg target k cancels) := by
  unfold State.jumpReg
  split
  · exact .next (.trap hs)
  · exact .next (.jumpTo (h_k _ hs))

theorem canon_startLoop {one a n} (hs : s.Inv) : Canon (s.startLoop one a n) := by
  unfold State.startLoop
  extract_lets
  split
  · exact .next (.trap hs)
  · split
    · exact .next (.jumpTo hs)
    · exact .next (.jumpTo (.modCur hs))

/-! ## The host's functions (Machine/Host) -/

theorem State.Inv.later {e} (hs : s.Inv) : (s.later e).Inv := hs

theorem State.Inv.guest {c g n k} (hs : s.Inv) : (s.guest c g n k).1.Inv := by
  unfold State.guest
  refine .foldl_fst hs fun _ _ h1 => ?_
  split
  split
  split
  · split
    rename_i t1 _ h2
    have h3 : t1.Inv := .of_fst h2 (.s2Walk h1)
    split
    · split <;> exact h3
    · exact h3
    · exact h3
    · exact h3
  · exact h1

theorem State.Inv.guestStore {ls bs} (hs : s.Inv) : (s.guestStore ls bs).Inv := .foldl hs fun _ _ h1 => .storeLoc h1

theorem State.Inv.hostRead {r} (hs : s.Inv) : (s.hostRead r).Inv := hs

theorem State.Inv.bar2Fails {v isRead} (hs : s.Inv) : (s.bar2Fails v isRead).Inv := by
  unfold State.bar2Fails
  extract_lets s1
  have h1 : s1.Inv := .setInt hs
  clear_value s1
  split
  · exact .hostRead h1
  · exact h1

theorem canon_execHostBar2Access {vf off size store} (hs : s.Inv) :
    Canon (execHostBar2Access vf off size store s) := by
  unfold execHostBar2Access
  extract_lets
  split
  · exact .next hs
  · split
    · exact .next (.bar2Fails hs)
    · split
      · exact .next (.bar2Fails hs)
      · split
        rename_i t1 _ h1
        have h2 : t1.Inv := .of_fst h1 (.guest hs)
        split
        · exact .next (.guestStore h2)
        · split <;> exact .next (.hostRead h2)
        · exact .next (.bar2Fails h2)

theorem State.Inv.goDecided {v st} (hs : s.Inv) : (s.goDecided v st).Inv := hs

theorem State.Inv.goServe {v} (hs : s.Inv) : (s.goServe v).Inv := by
  unfold State.goServe
  extract_lets
  split
  · exact hs
  · exact .goDecided hs
  · split
    · exact .goDecided hs
    · split
      · exact .goDecided hs
      · split
        · exact hs
        · split
          rename_i t1 _ h1
          have h2 : t1.Inv := .of_fst h1 (.beginJob hs)
          split
          · exact .goDecided h2
          · exact .goDecided h2
          · exact .modVf h2

theorem State.Inv.goServeAll {v n} (hs : s.Inv) : (State.goServeAll s v n).Inv := by
  induction n generalizing s with
  | zero => exact hs
  | succ n ih =>
    unfold State.goServeAll
    extract_lets t
    have ht : t.Inv := .goServe hs
    split
    · exact ih ht
    · exact ht

theorem State.Inv.goes {v} (hs : s.Inv) : (s.goes v).Inv := .goServeAll hs

theorem canon_execJobgoWrite {vf} (hs : s.Inv) : Canon (execJobgoWrite vf s) := by
  unfold execJobgoWrite
  split
  · exact .next hs
  · exact .next (.goes (.modVf hs))

theorem State.Inv.hmsgFails {v} (hs : s.Inv) : (s.hmsgFails v).Inv := .setInt (.modVf hs)

theorem State.Inv.msgMisses {v c g} (hs : s.Inv) : (s.msgMisses v c g).Inv := by
  unfold State.msgMisses
  split
  · split
    rename_i t1 _ h1
    have h2 : t1.Inv := .of_fst h1 (.pageFault hs)
    exact .modVf h2
  · exact .hmsgFails hs

theorem State.Inv.countMsg {v c g} (hs : s.Inv) : (s.countMsg v c g).Inv := by
  unfold State.countMsg
  split
  rename_i t1 _ h1
  have h2 : t1.Inv := .of_fst h1 (.guest hs)
  split
  · split
    · exact .hmsgFails (.strike h2)
    · exact .setInt (.modVf (.guestStore h2))
  · exact .msgMisses h2

theorem State.Inv.deliverMsg {v c msg} (hs : s.Inv) : (s.deliverMsg v c msg).Inv := by
  unfold State.deliverMsg
  extract_lets
  split
  · exact .countMsg hs
  · split
    rename_i t1 _ h1
    have h2 : t1.Inv := .of_fst h1 (.guest hs)
    split
    · exact .countMsg (.modVf (.guestStore h2))
    · exact .msgMisses h2

theorem State.Inv.msgServe {v} (hs : s.Inv) : (s.msgServe v).Inv := by
  unfold State.msgServe
  extract_lets
  split
  · exact hs
  · exact .hmsgFails hs
  · split
    · exact .hmsgFails hs
    · split
      · exact hs
      · exact .deliverMsg hs

theorem State.Inv.msgServeAll {v n} (hs : s.Inv) : (State.msgServeAll s v n).Inv := by
  induction n generalizing s with
  | zero => exact hs
  | succ n ih =>
    unfold State.msgServeAll
    extract_lets t
    have ht : t.Inv := .msgServe hs
    split
    · exact ih ht
    · exact ht

theorem State.Inv.messages {v} (hs : s.Inv) : (s.messages v).Inv := .msgServeAll hs

theorem canon_execHmsgWrite {vf v} (hs : s.Inv) : Canon (execHmsgWrite vf v s) := by
  unfold execHmsgWrite
  split
  · exact .next hs
  · exact .next (.messages (.modVf hs))

theorem canon_execWalkRestart {agent} (hs : s.Inv) : Canon (execWalkRestart agent s) := by
  unfold execWalkRestart
  split
  · exact canon_restartThread hs
  · exact .next (.copyStep hs)
  · exact .next (.restartCollective hs)
  · exact .next (.restartCmd hs)
  · exact .next (.goes hs)
  · exact .next (.messages hs)

theorem canon_execBar0RegisterWrite {vf off v} (hs : s.Inv) : Canon (execBar0RegisterWrite vf off v s) := by
  unfold execBar0RegisterWrite
  split
  · exact .next hs
  · split
    · split
      · exact canon_execJobgoWrite hs
      · exact .next hs
    · split
      · exact canon_execHmsgWrite hs
      · exact .next (.modVf hs)

theorem State.Inv.quarantine {i b} (hs : s.Inv) : (s.quarantine i b).Inv := .foldl hs fun _ _ h1 => .modSeg h1

theorem State.Inv.abortHandle {i n} (hs : s.Inv) : (s.abortHandle i n).Inv := .foldl hs fun _ _ h1 => .endBus h1

theorem State.Inv.abortBus {cs} (hs : s.Inv) : (s.abortBus cs).Inv := by
  unfold State.abortBus
  refine .foldl hs fun _ _ h1 => ?_
  split
  split
  · extract_lets s1
    have h2 : s1.Inv := .abortHandle (.quarantine h1)
    clear_value s1
    split
    · exact h2
    · exact .foldl h2 fun _ _ h3 => .netSend h3
  · exact h1

theorem State.Inv.closeVfQueues {v} (hs : s.Inv) : (s.closeVfQueues v).Inv := by
  unfold State.closeVfQueues
  refine .foldl hs fun _ _ h1 => ?_
  split
  refine .foldl h1 fun _ _ h2 => ?_
  split
  split
  · exact .modCol (.foldl h2 fun _ _ h3 => .colFail h3)
  · exact h2

theorem State.Inv.resetVf {v} (hs : s.Inv) : (s.resetVf v).Inv := by
  unfold State.resetVf
  split
  · exact hs
  · extract_lets _ s1 s2 s3 s4 s5 s6
    have h1 : s1.Inv := .modVf hs
    have h2 : s2.Inv := .abortBus h1
    have h3 : s3.Inv := .foldl h2 fun _ _ h4 => .cancelJob (.modCtx h4)
    have h5 : s4.Inv := h3
    have h6 : s5.Inv := .closeVfQueues h5
    have h7 : s6.Inv := by
      unfold s6
      split
      · exact .unbindVf h6
      · exact h6
    exact .settle (.modVf h7)

theorem canon_execFunctionLevelReset {vf} (hs : s.Inv) : Canon (execFunctionLevelReset vf s) := by
  unfold execFunctionLevelReset
  refine .next ?_
  split
  · exact .resetVf hs
  · exact hs

theorem canon_execVfEnableClear (hs : s.Inv) : Canon (execVfEnableClear s) :=
  .next (.foldl hs fun _ _ h1 => .resetVf h1)

theorem canon_execVfResetEnd {vf} (hs : s.Inv) : Canon (execVfResetEnd vf s) := by
  unfold execVfResetEnd
  split
  · split
    · extract_lets s1
      have h1 : s1.Inv := .report (.modVf hs)
      refine .next ?_
      clear_value s1
      split
      · exact .mpDone h1
      · exact h1
    · exact .next hs
  · exact .next hs

theorem canon_execMpServeRootRequest {n} (hs : s.Inv) : Canon (execMpServeRootRequest n s) := by
  unfold execMpServeRootRequest
  split
  · split
    · exact .next (.consume hs)
    · exact .next hs
  · exact .next hs

/-! ## Loads, stores and atomics (Machine/LoadStore) -/

theorem canon_plainLoad {d base imm size signed look} (hs : s.Inv) :
    Canon (s.plainLoad d base imm size signed look) :=
  .next (.access hs)

theorem canon_plainStore {d base imm size look} (hs : s.Inv) : Canon (s.plainStore d base imm size look) :=
  .next (.access hs)

theorem canon_floatLoad {d base imm size look} (hs : s.Inv) : Canon (s.floatLoad d base imm size look) :=
  canon_guardF hs (fun _ h1 => .next (.access h1))

theorem canon_floatStore {d base imm size look} (hs : s.Inv) : Canon (s.floatStore d base imm size look) :=
  canon_guardF hs (fun _ h1 => .next (.access h1))

theorem canon_atomic {op size d a b n order scope look} (hs : s.Inv) :
    Canon (s.atomic op size d a b n order scope look) :=
  .next (.access hs)

theorem canon_fenced {p k} (hs : s.Inv) (h_k : ∀ t, t.Inv → (k t).Inv) : Canon (s.fenced p k) := by
  unfold State.fenced
  extract_lets s1
  have h1 : s1.Inv := .drain hs
  split
  · rename_i t1 h2
    have h3 : t1.Inv := OptInv.takeRefused h1 _ h2
    exact .next h3
  · exact .next (.retire (h_k _ h1))

/-! ## The management processor (Machine/Mgmt) -/

theorem State.Inv.submitted {slot cmd} (hs : s.Inv) : (s.submitted slot cmd).Inv := hs

theorem canon_mcmd {slot cmd e anyGen used f} (hs : s.Inv) (h_f : ∀ t, t.Inv → (f t).Inv) :
    Canon (s.mcmd slot cmd e anyGen used f) := by
  unfold State.mcmd
  extract_lets _ _ s1
  have h1 : s1.Inv := hs
  split
  · exact .next hs
  · split
    · exact .next (.submitted (.later hs))
    · split
      · exact .next (.respond h1)
      · split
        · exact .next (.respond h1)
        · split
          · exact .next (.respond h1)
          · rename_i t1 _ h2
            have h3 : t1.Inv := McEnd.Inv.of_eq h2 (h_f _ h1)
            exact .next (.respond (.bumpGen h3))
          · rename_i t2 _ h4
            have h5 : t2.Inv := McEnd.Inv.of_eq h4 (h_f _ h1)
            exact .next (.respond h5)
          · rename_i t3 h6
            have h7 : t3.Inv := McEnd.Inv.of_eq h6 (h_f _ h1)
            exact .next h7

theorem inv_mcChecked {checks k} (h_k : k.Inv) : (mcChecked checks k).Inv := by
  unfold mcChecked
  split
  · exact trivial
  · exact h_k

theorem State.Inv.hostStore {a bs} (hs : s.Inv) : (s.hostStore a bs).Inv := .hostPut hs

theorem OptInv.mapRoot {p ttb x lo hi} (hs : s.Inv) : OptInv (State.mapRoot s p ttb x lo hi) := by
  unfold State.mapRoot
  refine OptAll.bind (State.childTable_inv hs) fun y (hy : y.2.Inv) => ?_
  dsimp only
  split
  · exact OptInv.some (.setEntry hy)
  · exact OptAll.map (State.childTable_inv hy) fun _ h => State.Inv.foldl h fun _ _ h' => .setEntry h'

theorem OptInv.mapRoots {p ttb xs} (hs : s.Inv) : OptInv (State.mapRoots s p ttb xs) := by
  unfold State.mapRoots
  exact OptAll.foldl (.some hs) fun _ _ ho => .foldl ho fun _ _ ho' => .bind ho' fun _ h => OptInv.mapRoot h

theorem State.Inv.zeroAreas {h} (hs : s.Inv) : (s.zeroAreas h).Inv := memFilter_wf _ hs

theorem OptInv.makePart {p c base n pdet b} (hs : s.Inv) : OptInv (State.makePart s p c base n pdet b) := by
  unfold State.makePart
  exact OptAll.bind (State.allocTable_inv hs) fun x hx => OptInv.mapRoots (.zeroAreas hx)

theorem canon_execPcreate {slot cmd} (hs : s.Inv) : Canon (execPcreate slot cmd s) := by
  unfold execPcreate
  refine canon_mcmd hs fun t ht => ?_
  extract_lets p base n pdet a b c made
  have hm : OptInv made := OptAll.bind (p := fun _ => True) (fun _ _ => trivial) fun _ _ => OptInv.makePart ht
  clear_value made
  refine inv_mcChecked ?_
  split
  · exact hm _ rfl
  · trivial

theorem canon_execPdestroy {slot cmd} (hs : s.Inv) : Canon (execPdestroy slot cmd s) := by
  unfold execPdestroy
  refine canon_mcmd hs fun _ h1 => ?_
  split
  · exact trivial
  · extract_lets
    split
    rename_i t1 h2
    have h3 : t1.Inv := .of_snd h2 (.fresh (.deleteCtx h1))
    exact h3

theorem State.Inv.startPrepare {ls} (hs : s.Inv) : (s.startPrepare ls).Inv := by
  unfold State.startPrepare
  extract_lets s1 s2
  have h1 : s1.Inv := .foldl hs fun _ _ h2 => .modPart h2
  have h3 : s2.Inv := .foldl h1 fun _ _ h4 => .foldl h4 fun _ _ h5 => .stopOn h5
  exact h3

theorem canon_execPrepareDrainDone (hs : s.Inv) : Canon (execPrepareDrainDone s) := by
  unfold execPrepareDrainDone
  refine .next ?_
  split <;> exact hs

theorem State.Inv.commitPart {q base n} (hs : s.Inv) : (s.commitPart q base n).Inv := hs

theorem canon_execCommit {slot cmd} (hs : s.Inv) : Canon (execCommit slot cmd s) := by
  unfold execCommit
  refine canon_mcmd hs fun _ h1 => ?_
  extract_lets _ s1
  have h2 : s1.Inv := by
    unfold s1
    refine .foldl h1 fun _ _ h3 => ?_
    split
    split
    · exact .commitPart h3
    · exact h3
  split
  · exact trivial
  · exact h2

theorem canon_execAbort {slot cmd} (hs : s.Inv) : Canon (execAbort slot cmd s) := by
  unfold execAbort
  refine canon_mcmd hs fun _ h1 => ?_
  split
  · exact trivial
  · exact h1

theorem canon_execVfassign {slot cmd} (hs : s.Inv) : Canon (execVfassign slot cmd s) := by
  unfold execVfassign
  refine canon_mcmd hs fun _ h1 => ?_
  extract_lets
  split <;> exact inv_mcChecked (.foldl h1 fun _ _ h2 => .modVf h2)

theorem canon_execVfreset {slot cmd} (hs : s.Inv) : Canon (execVfreset slot cmd s) := by
  unfold execVfreset
  exact canon_mcmd hs (fun _ h1 => inv_mcChecked (.resetVf h1))

theorem State.Inv.setSlice {a1} (hs : s.Inv) : (s.setSlice a1).Inv := hs

theorem canon_debug {slot cmd e gone f} (hs : s.Inv) (h_f : ∀ t a b, t.Inv → (f t a b).Inv) :
    Canon (s.debug slot cmd e gone f) :=
  canon_mcmd hs (fun _ h1 => inv_mcChecked (h_f _ _ _ h1))

theorem State.Inv.haltThread {h tid} (hs : s.Inv) : (s.haltThread h tid).Inv :=
  .modThread (.getD (OptInv.takeRefused (.drainPend hs)) (.drainPend hs))

theorem canon_execDebugStep {slot cmd} (hs : s.Inv) : Canon (execDebugStep slot cmd s) := by
  unfold execDebugStep
  refine canon_debug hs fun _ _ _ h1 => ?_
  split
  · exact trivial
  · exact .modThread h1

theorem State.Inv.dbgWrite {h tid sel v} (hs : s.Inv) : (s.dbgWrite h tid sel v).Inv := by
  unfold State.dbgWrite
  split
  · exact .modThread hs
  · split
    · exact .modThread hs
    · split
      · exact .writeWaymask hs
      · exact .sysWrite hs

theorem canon_execDebugRead {slot cmd} (hs : s.Inv) : Canon (execDebugRead slot cmd s) := by
  unfold execDebugRead
  refine canon_debug hs fun _ _ _ h1 => ?_
  split
  · exact trivial
  · split
    · exact trivial
    · exact h1

theorem canon_execDebugWrite {slot cmd} (hs : s.Inv) : Canon (execDebugWrite slot cmd s) := by
  unfold execDebugWrite
  refine canon_debug hs fun _ _ _ h1 => ?_
  extract_lets
  split
  · exact trivial
  · split
    · exact trivial
    · exact .dbgWrite h1

theorem McEnd.Inv.writeReport {a room bs clear} (hs : s.Inv) (h_clear : ∀ t, t.Inv → (clear t).Inv) :
    (s.writeReport a room bs clear).Inv :=
  inv_mcChecked (h_clear _ (.hostStore hs))

theorem canon_execSummary {slot cmd} (hs : s.Inv) : Canon (execSummary slot cmd s) := by
  unfold execSummary
  extract_lets
  split
  · exact .next (.respond hs)
  · exact canon_mcmd hs (fun _ h1 => McEnd.Inv.writeReport h1 (fun _ h2 => h2))

theorem State.Inv.setPorts {vs} (hs : s.Inv) : (s.setPorts vs).Inv := hs

theorem canon_execDomain {slot cmd} (hs : s.Inv) : Canon (execDomain slot cmd s) := by
  unfold execDomain
  refine canon_mcmd hs fun _ h1 => ?_
  extract_lets _ _ _ _ _ _ s1
  have h2 : s1.Inv := by
    unfold s1
    split <;> exact h1
  refine inv_mcChecked ?_
  show State.Inv _
  clear_value s1
  split
  · exact .setPorts h2
  · exact h2

theorem State.Inv.setGroup {e} (hs : s.Inv) : (s.setGroup e).Inv := hs

/-! ## The tag table (Machine/Tag) -/

theorem canon_execTglk {d a sz} (hs : s.Inv) : Canon (execTglk d a sz s) := by
  unfold execTglk
  extract_lets
  split <;> exact canon_result hs

theorem canon_execTgset {a b sz way} (hs : s.Inv) : Canon (execTgset a b sz way s) := by
  unfold execTgset
  extract_lets
  split
  · exact .next (.trap hs)
  · exact .next (.retire (.modCore hs))

theorem canon_execTgrd {d a slotPart} (hs : s.Inv) : Canon (execTgrd d a slotPart s) := by
  unfold execTgrd
  extract_lets
  split <;> exact canon_result hs

/-! ## Every instruction (Machine/Dispatch) -/

theorem canon_exec {i} (hs : s.Inv) : Canon (exec i s) := by
  cases i with
  | add | sub | mul | mulh | mulhz | and | or | xor | andn | sll | srl | sra | rol | ror | slt | sltz | min
    | max | minz | maxz | sel | clz | ctz | ffs | popc | brev | bswap | addi | andi | ori | xori | slti | sltzi
    | slli | srli | srai | rori | li | lsi | bextz | bexti | bdep => unfold exec; exact canon_result hs
  | div | divz | rem | remz => unfold exec; exact canon_divide hs
  | addw | subw | mulw | sllw | srlw | sraw | slliw | srliw | sraiw | roriw =>
    unfold exec; exact canon_resultW hs
  | divw | divwz | remw | remwz => unfold exec; exact canon_divideW hs
  | padd | psub | padds | psubs | pmul | pmulh | pdiv | prem | pmin | pmax | pceq | pclt | psll | psrl | psra
    | pclz | pctz | pffs | ppopc => unfold exec; exact canon_packedOp hs
  | lb | lbz | lh | lhz | lw | lwz | ld => unfold exec; exact canon_plainLoad hs
  | sb | sh | sw | sd => unfold exec; exact canon_plainStore hs
  | flw | fld => unfold exec; exact canon_floatLoad hs
  | fsw | fsd => unfold exec; exact canon_floatStore hs
  | ldo | sto => unfold exec; exact .next (.access hs)
  | atwadd | atwand | atwor | atwxor | atwmax | atwmin | atwmaxz | atwminz | atdadd | atdand | atdor | atdxor
    | atdmax | atdmin | atdmaxz | atdminz | swpw | swpd | casw | casd => unfold exec; exact canon_atomic hs
  | barcfg => unfold exec; exact canon_execBarcfg hs
  | bararv => unfold exec; exact canon_dispatch hs fun _ _ h => .barTry (.drain h)
  | barwt => unfold exec; exact canon_execBarwt hs
  | armc => unfold exec; exact canon_execArmc hs
  | waitc => unfold exec; exact canon_execWaitc hs
  | tglk => unfold exec; exact canon_execTglk hs
  | tgset => unfold exec; exact canon_execTgset hs
  | tginv => unfold exec; exact canon_result (.modCore hs)
  | tgrd => unfold exec; exact canon_execTgrd hs
  | tgclr => unfold exec; exact .next (.retire (.modCore hs))
  | tbdef => unfold exec; exact canon_execTbdef hs
  | tbst => unfold exec; exact canon_execTbst hs
  | tbfree => unfold exec; exact canon_execTbfree hs
  | tbwait => unfold exec; exact canon_execTbwait hs
  | publ => unfold exec; exact canon_execPubl hs
  | vcvt | vadd | vsub | vmul | vfma | vmax | vmin | vceq | vclt | vcle | vsel | vscale | vsbase | vsdim | vson
    | vsoff | vsetvl | vexp2 | vlog2 | vrcp | vrsq | vsumx | vdotx | vrdq | vclrq | vmaxr | vmaxx | vqnt =>
    unfold exec; exact canon_vecDispatch hs
  | vwait => unfold exec; exact canon_execVwait hs
  | mclr | mmaw | mmah | mmae | mmai | mmas | mmaq | mrd | mld | mst => unfold exec; exact canon_matDispatch hs
  | mwait => unfold exec; exact canon_execMwait hs
  | mcfg => unfold exec; exact canon_execMcfg hs
  | cshape => unfold exec; exact canon_execCshape hs
  | chl | clh | cbb | cmc | cgath | cscat => unfold exec; exact canon_copyDispatch hs
  | cidx => unfold exec; exact canon_execCidx hs
  | cwait => unfold exec; exact canon_execCwait hs
  | qld | qscr | qpt | qseq | qskip => unfold exec; exact canon_qrnDispatch hs
  | qwait => unfold exec; exact canon_execQwait hs
  | objoin => unfold exec; exact canon_execObjoin hs
  | obmax | obred => unfold exec; exact canon_busOp hs
  | obstat => unfold exec; exact canon_execObstat hs
  | obleave => unfold exec; exact canon_execObleave hs
  | obcal => unfold exec; exact canon_execObcal hs
  | obwait => unfold exec; exact canon_execObwait hs
  | colq | colput | colgo | colcan => unfold exec; exact canon_colCmd hs
  | colwt => unfold exec; exact canon_execColwt hs
  | colsync => unfold exec; exact canon_execColsync hs
  | gnode | gedge | grun | launch | shapeAdd | shapeSet | shapeRead | confirm | cancel | compl =>
    unfold exec; exact canon_grf hs
  | grfwait => unfold exec; exact canon_execGrfwait hs
  | ctxnew => unfold exec; exact canon_vir hs fun _ h => VirEnd.Inv.ctxnew h
  | grantCores => unfold exec; exact canon_vir hs fun _ h => VirEnd.Inv.grantCores h
  | grantMem => unfold exec; exact canon_vir hs fun _ h => VirEnd.Inv.grantMem h
  | grantPages => unfold exec; exact canon_vir hs fun _ h => VirEnd.Inv.grantPages h
  | grantQueues => unfold exec; exact canon_vir hs fun _ h => VirEnd.Inv.grantQueues h
  | grantCells => unfold exec; exact canon_vir hs fun _ h => VirEnd.Inv.grantCells h
  | grantVf => unfold exec; exact canon_vir hs fun _ h => VirEnd.Inv.grantVf h
  | revokeCores => unfold exec; exact canon_vir hs fun _ h => VirEnd.Inv.revokeCores h
  | revokeMem => unfold exec; exact canon_vir hs fun _ h => VirEnd.Inv.revokeMem h
  | revokePages => unfold exec; exact canon_vir hs fun _ h => VirEnd.Inv.revokePages h
  | revokeQueues => unfold exec; exact canon_vir hs fun _ h => VirEnd.Inv.revokeQueues h
  | revokeCells => unfold exec; exact canon_vir hs fun _ h => VirEnd.Inv.revokeCells h
  | revokeVf => unfold exec; exact canon_vir hs fun _ h => VirEnd.Inv.revokeVf h
  | ctxdel => unfold exec; exact canon_vir hs fun _ h => VirEnd.Inv.ctxdel h
  | ctxbud => unfold exec; exact canon_vir hs fun _ h => VirEnd.Inv.ctxbud h
  | ctxstat => unfold exec; exact canon_vir hs fun _ h => VirEnd.Inv.ctxstat h
  | ctxenter => unfold exec; exact canon_dispatch hs fun _ _ h => .ctxenter h
  | reflect => unfold exec; exact canon_execReflect hs
  | virwait => unfold exec; exact canon_execVirwait hs
  | eleave => unfold exec; exact canon_dispatch hs fun _ _ h => .eleave h
  | ebud => unfold exec; exact canon_dispatch hs fun _ _ h => .ebud h
  | eread => unfold exec; exact canon_dispatch hs fun _ _ h => .eread h
  | pwait => unfold exec; exact canon_execPwait hs
  | mfc => unfold exec; exact canon_execMfc hs
  | fence | fencea => unfold exec; exact canon_fenced hs fun _ h => h
  | fencer => unfold exec; exact .next (.retire (.modCur hs))
  | beq | bne | blt | bge | bltz | bgez => unfold exec; exact canon_branch hs
  | j => unfold exec; exact .next (.jumpTo hs)
  | jal => unfold exec; exact .next (.jumpTo (.setG hs))
  | jr => unfold exec; exact canon_jumpReg hs fun _ h => h
  | jalr => unfold exec; exact canon_jumpReg hs fun _ h => .setG h
  | loop0 | loop1 => unfold exec; exact canon_startLoop hs
  | fadd | fsub | fmul | fdiv | fsqrt | fma | fms | fnms =>
    unfold exec; exact canon_guardF hs fun _ h => canon_roundOp h
  | fmin | fmax => unfold exec; exact canon_guardF hs fun _ h => canon_minmax h
  | fsgn | fsgnn | fsgnx => unfold exec; exact canon_guardF hs fun _ h => canon_signOp h
  | fdtos | fstod | fstoh | fhtos | fstob | fbtos =>
    unfold exec; exact canon_guardF hs fun _ h => canon_convert h
  | ftoi => unfold exec; exact canon_guardF hs fun _ h => canon_resultF h
  | itof => unfold exec; exact canon_guardF hs fun _ h => canon_resultFp h
  | fmvgf | fclass => unfold exec; exact canon_guardF hs fun _ h => canon_result h
  | fmvfg => unfold exec; exact canon_guardF hs fun _ h => .next (.retire (.setF h))
  | feq | flt | fle => unfold exec; exact canon_guardF hs fun _ h => canon_compare h
  | nop | yield => unfold exec; exact .next (.retire hs)
  | srr => unfold exec; exact canon_execSrr hs
  | srw => unfold exec; exact canon_execSrw hs
  | trap => unfold exec; exact canon_execTrap hs
  | brk => unfold exec; exact canon_execBrk hs
  | rte => unfold exec; exact canon_execRte hs
  | hstart => unfold exec; exact canon_execHstart hs
  | hexit => unfold exec; exact canon_execHexit hs
  | hjoin => unfold exec; exact canon_execHjoin hs
  | waitm => unfold exec; exact canon_execWaitm hs
  | yieldu => unfold exec; exact .next (.blockAt hs)
  | bfmtWrite => unfold exec; exact canon_execBfmtWrite hs
  | waymaskWrite => unfold exec; exact canon_onUnit hs fun _ h => .writeWaymask h
  | wdogWrite => unfold exec; exact canon_onUnit hs fun _ h => .writeWdog h
  | lcntWrite => unfold exec; exact canon_execLcntWrite hs
  | trapMessagePost => unfold exec; exact canon_execTrapMessagePost hs
  | trapReplyConsume => unfold exec; exact canon_execTrapReplyConsume hs
  | lateFaultArrival => unfold exec; exact canon_execLateFaultArrival hs
  | lateFaultDelivery => unfold exec; exact canon_execLateFaultDelivery hs
  | threadWake => unfold exec; exact canon_execThreadWake hs
  | unitAcceptCommand => unfold exec; exact canon_execUnitAcceptCommand hs
  | homePerformAccess => unfold exec; exact canon_execHomePerformAccess hs
  | tileDrainEnd => unfold exec; exact .next (.foldl (.tryEndDrain hs) fun _ _ h => .tryEndDrain h)
  | pageRequestPost => unfold exec; exact canon_execPageRequestPost hs
  | pageReplyConsume => unfold exec; exact canon_execPageReplyConsume hs
  | walkRestart => unfold exec; exact canon_execWalkRestart hs
  | invalidationRequest => unfold exec; exact canon_execInvalidationRequest hs
  | invalidationDone => unfold exec; exact canon_execInvalidationDone hs
  | unitPlacement => unfold exec; exact canon_execUnitPlacement hs
  | unitEvict => unfold exec; exact canon_execUnitEvict hs
  | unitAging => unfold exec; exact canon_execUnitAging hs
  | unitComplete => unfold exec; exact canon_execUnitComplete hs
  | phaseCommit => unfold exec; exact canon_execPhaseCommit hs
  | energyMeter => unfold exec; exact canon_execEnergyMeter hs
  | leaveGrant => unfold exec; exact canon_execLeaveGrant hs
  | leaveRelease => unfold exec; exact canon_execLeaveRelease hs
  | thermalThrottle | dieClockGating => unfold exec; exact .next (.modDie hs)
  | thermalTrip => unfold exec; exact canon_execThermalTrip hs
  | watchdogExpire => unfold exec; exact canon_execWatchdogExpire hs
  | forcedUnitStop => unfold exec; exact canon_execForcedUnitStop hs
  | vmaxxContribution => unfold exec; exact canon_execVmaxxContribution hs
  | vmaxxTimeout => unfold exec; exact canon_execVmaxxTimeout hs
  | barrierArrival => unfold exec; exact canon_execBarrierArrival hs
  | barrierRelease => unfold exec; exact canon_execBarrierRelease hs
  | vectorCommandPerform => unfold exec; exact canon_execVectorCommandPerform hs
  | matrixEngineStep => unfold exec; exact canon_execMatrixEngineStep hs
  | matrixCommandComplete => unfold exec; exact canon_execMatrixCommandComplete hs
  | copyCommandStart => unfold exec; exact canon_execCopyCommandStart hs
  | copyCommandComplete => unfold exec; exact canon_execCopyCommandComplete hs
  | qrnCommandPerform => unfold exec; exact canon_execQrnCommandPerform hs
  | collectiveChunkStep => unfold exec; exact canon_execCollectiveChunkStep hs
  | collectivePacketReceive => unfold exec; exact canon_execCollectivePacketReceive hs
  | collectiveTimeout => unfold exec; exact canon_execCollectiveTimeout hs
  | busFrame => unfold exec; exact canon_execBusFrame hs
  | calibration => unfold exec; exact canon_execCalibration hs
  | portTrainingDone => unfold exec; exact canon_execPortTrainingDone hs
  | leaseRequest => unfold exec; exact canon_execLeaseRequest hs
  | groupJoinCheck => unfold exec; exact canon_execGroupJoinCheck hs
  | busOpTimeout => unfold exec; exact canon_execBusOpTimeout hs
  | castleStop => unfold exec; exact canon_execCastleStop hs
  | castleResume => unfold exec; exact canon_execCastleResume hs
  | flushTokenReturn => unfold exec; exact .next (.flushCore hs)
  | correctableError => unfold exec; exact .next (.modCore (.dropEntry hs))
  | linkCrcError => unfold exec; exact .next hs
  | uncorrectableError => unfold exec; exact canon_execUncorrectableError hs
  | l2TagParityError => unfold exec; exact canon_execL2TagParityError hs
  | coreGrantComplete => unfold exec; exact canon_execCoreGrantComplete hs
  | revocationComplete => unfold exec; exact canon_execRevocationComplete hs
  | contextDeleteComplete => unfold exec; exact canon_execContextDeleteComplete hs
  | prepareDrainDone => unfold exec; exact canon_execPrepareDrainDone hs
  | hostBar2Access => unfold exec; exact canon_execHostBar2Access hs
  | jobgoWrite => unfold exec; exact canon_execJobgoWrite hs
  | hmsgWrite => unfold exec; exact canon_execHmsgWrite hs
  | bar0RegisterWrite => unfold exec; exact canon_execBar0RegisterWrite hs
  | functionLevelReset => unfold exec; exact canon_execFunctionLevelReset hs
  | vfEnableClear => unfold exec; exact canon_execVfEnableClear hs
  | vfResetEnd => unfold exec; exact canon_execVfResetEnd hs
  | mpServeRootRequest => unfold exec; exact canon_execMpServeRootRequest hs
  | boot => unfold exec; exact .next (memFilter_wf _ hs)
  | modnum => unfold exec; exact canon_mcmd hs fun _ h => inv_mcChecked h
  | pcreate => unfold exec; exact canon_execPcreate hs
  | pdestroy => unfold exec; exact canon_execPdestroy hs
  | prepare => unfold exec; exact canon_mcmd hs fun _ h => inv_mcChecked (.startPrepare h)
  | commit => unfold exec; exact canon_execCommit hs
  | abort => unfold exec; exact canon_execAbort hs
  | vfassign => unfold exec; exact canon_execVfassign hs
  | slice => unfold exec; exact canon_mcmd hs fun _ h => inv_mcChecked (.setSlice h)
  | leavecap | unfence => unfold exec; exact canon_mcmd hs fun _ h => inv_mcChecked (.modDie h)
  | debugHalt => unfold exec; exact canon_debug hs fun _ _ _ h => .foldl h fun _ _ h => .haltThread h
  | debugStep => unfold exec; exact canon_execDebugStep hs
  | debugResume => unfold exec; exact canon_debug hs fun _ _ _ h => .foldl h fun _ _ h => .modThread h
  | debugHalten => unfold exec; exact canon_debug hs fun _ _ _ h => .modThread h
  | debugRead => unfold exec; exact canon_execDebugRead hs
  | debugWrite => unfold exec; exact canon_execDebugWrite hs
  | debugRing => unfold exec; exact canon_debug hs fun _ _ _ h => inv_mcChecked (.hostStore h)
  | attest => unfold exec; exact canon_mcmd hs fun _ h => McEnd.Inv.writeReport h (fun _ h => h)
  | summary => unfold exec; exact canon_execSummary hs
  | domain => unfold exec; exact canon_execDomain hs
  | grouptab => unfold exec; exact canon_mcmd hs fun _ h => inv_mcChecked (.foldl h fun _ _ h => .setGroup h)
  | vfreset => unfold exec; exact canon_execVfreset hs
  | mcmdReservedOp => unfold exec; exact canon_mcmd hs fun _ h => trivial
  | managementNetworkMessage => unfold exec; exact canon_execManagementNetworkMessage hs

/-! ## Issue (Machine/Issue) -/

theorem Issue.Inv.fetchAt {h pc spa} (hs : s.Inv) : (s.fetchAt h pc spa).Inv := by
  unfold State.fetchAt
  split
  · exact hs
  · split
    · exact hs
    · split
      · exact .trap hs
      · split
        · exact .charge hs
        · exact .modCore hs

theorem Issue.Inv.fetch (hs : s.Inv) : s.fetch.Inv := by
  unfold State.fetch
  extract_lets
  split
  rename_i t1 _ h1
  have h2 : t1.Inv := .of_fst h1 (.translate hs)
  split
  · exact .trap h2
  · split
    rename_i t2 _ h3
    have h4 : t2.Inv := .of_fst h3 (.pageFault h2)
    exact .blockAt h4
  · exact Issue.Inv.fetchAt h2

theorem State.Inv.take {h tid} (hs : s.Inv) : (s.take h tid).Inv := hs

theorem State.Inv.closeWindows (hs : s.Inv) : s.closeWindows.Inv := .foldl hs fun _ _ h1 => .perform h1

theorem Issue.Inv.issue {h tid} (hs : s.Inv) : (s.issue h tid).Inv := by
  unfold State.issue
  extract_lets s1 s2
  have h1 : s1.Inv := .take hs
  have h2 : s2.Inv := .closeWindows h1
  split
  · exact .deliverLate h1
  · split
    · rename_i t1 h3
      have h4 : t1.Inv := OptInv.takeRefused h2 _ h3
      exact h4
    · exact Issue.Inv.fetch h2

theorem OptInv.checkWord {w legal} (hs : s.Inv) : OptInv (State.checkWord s w legal) := by
  unfold State.checkWord
  extract_lets
  split
  · exact .some (.trap hs)
  · exact .map fun _ => .trap hs

theorem canon_afterStep {stepping h tid o} (h_o : Canon o) : Canon (State.afterStep stepping h tid o) := by
  unfold State.afterStep
  split
  · split
    · exact .next (.haltThread (h_o _ rfl))
    · exact .next (h_o _ rfl)
  · exact h_o

theorem State.Inv.chargeStruck (hs : s.Inv) : s.chargeStruck.Inv := .foldl hs fun _ _ h1 => .charge h1

theorem State.Inv.tick (hs : s.Inv) : s.tick.Inv := by
  unfold State.tick
  extract_lets s1
  have h1 : s1.Inv := .chargeStruck hs
  exact h1

theorem State.Inv.advance (hs : s.Inv) : s.advance.Inv := hs

theorem State.Inv.nextAction (hs : s.Inv) : s.nextAction.2.Inv := by
  unfold State.nextAction
  split
  · exact hs
  · split <;> exact hs
  · exact hs

theorem State.Inv.pass {a} (hs : s.Inv) : (s.pass a).Inv := by
  unfold State.pass
  split
  · split
    · exact hs
    · exact .advance hs
  · exact .advance hs

theorem State.Inv.turnOf (hs : s.Inv) : s.turnOf.2.Inv := by
  unfold State.turnOf
  split
  rename_i t1 h1
  have h2 : t1.Inv := .of_snd h1 (.nextAction (.tick hs))
  exact .pass h2

/-! ## Steps (Machine/Run) -/

theorem canon_runWord {h tid w} (hs : s.Inv) : Canon (s.runWord h tid w) := by
  unfold State.runWord
  extract_lets
  split
  · exact canon_afterStep (.next (.getD (OptInv.checkWord hs) hs))
  · refine canon_afterStep ?_
    split
    · rename_i t1 h1
      have h2 : t1.Inv := OptInv.checkWord hs _ h1
      exact .next h2
    · exact canon_exec hs

theorem canon_runIssue {h tid} (hs : s.Inv) : Canon (s.runIssue h tid) := by
  unfold State.runIssue
  split
  · rename_i t1 h1
    have h2 : t1.Inv := Issue.Inv.of_eq h1 (Issue.Inv.issue hs)
    exact .next h2
  · rename_i t2 h3
    have h4 : t2.Inv := Issue.Inv.of_eq h3 (Issue.Inv.issue hs)
    exact canon_runWord h4

theorem canon_oneStep (hs : s.Inv) : Canon s.oneStep := by
  unfold State.oneStep
  split
  · exact .fault _
  · split
    · rename_i t1 h1
      have h2 : t1.Inv := .of_snd h1 (.turnOf hs)
      exact canon_exec h2
    · rename_i t2 h3
      have h4 : t2.Inv := .of_snd h3 (.turnOf hs)
      exact canon_runIssue h4
    · rename_i t3 h5
      have h6 : t3.Inv := .of_snd h5 (.turnOf hs)
      exact .next h6

/-! ## Every step keeps memory canonical (Machine/Step) -/

theorem canon_step (hs : s.Inv) : Canon (step s) := canon_oneStep hs

end

/-- Settles O59: a step answers what an event or an instruction answers, and each of them, from the writes of memory up,
keeps memory canonical (`canon_step`). -/
theorem everyStepKeepsMemoryCanonical : Obligations.EveryStepKeepsMemoryCanonical :=
  fun _ t hs h => canon_step hs t h

end Sys2Proof.Machine
end

section
/-! PROOFS. What reset leaves: every table is empty, so that each look-up answers the value for what is not there. -/

namespace Sys2Proof.Machine

/-- Settles O58: no byte is listed. -/
theorem memoryIsCanonicalAfterReset : Obligations.MemoryIsCanonicalAfterReset := rfl

theorem bounded_reset : State.reset.Bounded :=
  ⟨by simp [State.reset], by simp [State.reset]⟩

/-- Settles O57: each table of the state after reset is empty, and a look-up in it answers the reset value. -/
theorem resetLeavesTheModuleCleared : Obligations.ResetLeavesTheModuleCleared := by
  refine ⟨_, rfl, ?units, rfl, rfl, ?vfs, ?dies, rfl, rfl, rfl, rfl, rfl, rfl, ?memory, bounded_reset⟩
  case units => exact fun _ _ => ⟨rfl, rfl⟩
  case vfs => exact fun _ => ⟨rfl, rfl, rfl, rfl, rfl, rfl⟩
  case dies => exact fun _ => ⟨rfl, rfl⟩
  case memory => exact fun _ => rfl

end Sys2Proof.Machine
end

section
/-! PROOFS. Errors of the module's storage, and its power (R17, R230, R332, R334, R335, R426–R428, R434, R435, R454). -/

namespace Sys2Proof.Machine

/-! ## Corrected errors (R426, R434) -/

theorem exec_correctableError (e : SoftError) (s : State) :
    exec (.correctableError e) s = .next ((s.dropEntry e.h e.place).modCore e.h Core.countError) := rfl

theorem dropEntry_mem (s : State) (h : Nat) (place : SoftPlace) : (s.dropEntry h place).mem = s.mem := by
  cases place <;> rfl

theorem dropEntry_errcnt (s : State) (h : Nat) (place : SoftPlace) :
    ((s.dropEntry h place).core h).errcnt = (s.core h).errcnt := by
  cases place <;> simp [State.dropEntry] <;> rfl

theorem dropEntry_itlb (s : State) (h n : Nat) :
    ((s.dropEntry h (.itlb n)).core h).itlb = (s.core h).itlb.eraseIdx n := by simp [State.dropEntry]

theorem dropEntry_dtlb (s : State) (h n : Nat) :
    ((s.dropEntry h (.dtlb n)).core h).dtlb = (s.core h).dtlb.eraseIdx n := by simp [State.dropEntry]

theorem dropEntry_icache (s : State) (h : Nat) (pc : Nat) :
    tget ((s.dropEntry h (.icache pc)).core h).icache pc = none := by simp [State.dropEntry, tget_tdel]

theorem dropEntry_predictor (s : State) (h n : Nat) : tget (s.dropEntry h (.predictor n)).preds n = none := by
  simp [State.dropEntry, tget_tdel]

theorem dropEntry_clusterTlb (s : State) (h n : Nat) :
    tget (s.dropEntry h (.clusterTlb n)).clusterTlb (clusterOf h) =
      (tget s.clusterTlb (clusterOf h)).map (·.eraseIdx n) := by
  simp [State.dropEntry, tget_tmod]

theorem dropEntry_nestedTlb (s : State) (h n : Nat) :
    tget (s.dropEntry h (.nestedTlb n)).nestedTlb (clusterOf h) =
      (tget s.nestedTlb (clusterOf h)).map (·.eraseIdx n) := by
  simp [State.dropEntry, tget_tmod]

/-! ## Uncorrectable errors (R427, R428) -/

theorem mem_addPoison (s : State) (spa g : Nat) :
    g ∈ (s.addPoison spa).poison ↔ g ∈ s.poison ∨ g = spa / 32 := by
  unfold State.addPoison
  by_cases hp : spa / 32 ∈ s.poison
  · simp only [List.contains_iff_mem.mpr hp, if_true, iff_self_or]
    rintro rfl; exact hp
  · simp [hp]

/-- The tenant of a context is read from the table of contexts alone. -/
theorem tenantOf_congr {s t : State} (h : t.ctxs = s.ctxs) (c : Nat) : t.tenantOf c = s.tenantOf c := by
  have go (n : Nat) : ∀ c, t.tenantGo n c = s.tenantGo n c := by
    induction n with
    | zero => intro c; simp only [State.tenantGo, State.ctx, h]
    | succ n ih => intro c; simp only [State.tenantGo, State.ctx, h, ih]; rfl
  exact go 8 c

theorem jobsOf_congr {s t : State} (h : t.ctxs = s.ctxs) (n : Nat) : t.jobsOf n = s.jobsOf n := by
  simp only [State.jobsOf, h, tenantOf_congr h]

theorem protectedJob_congr {s t : State} (hc : t.ctxs = s.ctxs) (hp : t.parts = s.parts) (c : Nat) :
    t.protectedJob c = s.protectedJob c := by
  simp only [State.protectedJob, State.ctx, State.part, hc, hp]

/-- The report list with a charge more. -/
def State.listCharge (s : State) (n : Nat) : State :=
  { s with mp := { s.mp with reports := s.mp.reports ++ [.charge n] } }

/-- A charge to a default tenant enters the report list, and each of the tenant's jobs is rolled back or lost (R428). -/
theorem charge_default (s : State) (n : Nat) (hn : 512 ≤ n) :
    s.charge n = (s.jobsOf n).foldl (fun s c => if s.protectedJob c then s.rollback c else s.loseJob c)
      (s.listCharge n) := by
  have hr : s.report (.charge n) n = s.listCharge n := if_neg (Nat.not_lt.mpr hn)
  have hj : (s.listCharge n).jobsOf n = s.jobsOf n := jobsOf_congr rfl n
  rw [State.charge, hr, hj]

theorem exec_unitState (s : State) (h : Nat) (r : Resident) (hr : (s.core h).unit = some r) :
    exec (.uncorrectableError (.unitState h)) s = .next (s.charge (s.tenantOf r.id.ctx)) := by
  change Host.Outcome.next (s.chargeUnit ((s.core h).unit.map (·.id))) = _
  rw [hr]; rfl

/-! ## Parity errors of L2 tags (R435) -/

@[simp] theorem die_modDie_same (s : State) (d : Nat) (f : Die → Die) : (s.modDie d f).die d = f (s.die d) := by
  simp [State.die, State.modDie, tget_tput_same]

/-- What an L2 tag's parity error leaves but for the charges: the way is fenced, and `m` is memory. -/
def State.fenceWay (s : State) (die way : Nat) (m : Memory) : State :=
  State.modDie { s with mem := m } die fun d => { d with fenced := d.fenced ||| BitVec.ofNat 16 (2 ^ way) }

theorem fenceWay_fenced (s : State) (die way : Nat) (m : Memory) :
    ((s.fenceWay die way m).die die).fenced = (s.die die).fenced ||| BitVec.ofNat 16 (2 ^ way) := by
  rw [State.fenceWay, die_modDie_same]; rfl

/-- The loss of a line changes only the 32 bytes of the line. -/
theorem loseLine_eq (s : State) (spa : Nat) : ∃ m : Memory,
    s.loseLine spa = { s with mem := m } ∧ ∀ a, a / 32 ≠ spa / 32 → memGet m a = memGet s.mem a := by
  simp only [State.loseLine]
  refine ⟨_, rfl, fun a ha => memGet_memStore_ne _ _ _ _ ?_⟩
  rw [List.length_map, List.length_range]
  omega

/-- The way is fenced and its tenants are charged; a line is lost only where one of them has written its page. -/
theorem exec_l2TagParityError (s : State) (die way spa : Nat) : ∃ m : Memory,
    exec (.l2TagParityError die way spa) s = .next ((s.fenceWay die way m).chargeAll (s.tenantsOfWay die way)) ∧
    (∀ a, a / 32 ≠ spa / 32 → memGet m a = memGet s.mem a) ∧
    (s.writtenBy (s.tenantsOfWay die way) spa = false → m = s.mem) := by
  change ∃ m : Memory, execL2TagParityError die way spa s = _ ∧ _
  unfold execL2TagParityError
  by_cases hl : (cachedBy die spa && s.writtenBy (s.tenantsOfWay die way) spa) = true
  · have hw : s.writtenBy (s.tenantsOfWay die way) spa = true := (Bool.and_eq_true_iff.mp hl).2
    obtain ⟨m, hm, hout⟩ := loseLine_eq s spa
    rw [if_pos hl, hm]
    exact ⟨m, rfl, hout, fun h => absurd h (by simp [hw])⟩
  · rw [if_neg hl]
    exact ⟨s.mem, rfl, fun _ _ => rfl, fun _ => rfl⟩

/-! ## Power leave (R17, R230, R335) -/

theorem core_modDie (s : State) (d h : Nat) (f : Die → Die) : (s.modDie d f).core h = s.core h := rfl

theorem die_everyCore (s : State) (d h : Nat) (f : Core → Core) : (s.everyCore h f).die d = s.die d := rfl

theorem core_everyCore_same (s : State) (h : Nat) (f : Core → Core) : (s.everyCore h f).core h = f (s.core h) :=
  State.core_modCore_same s h f

theorem die_modCore (s : State) (d h : Nat) (f : Core → Core) : (s.modCore h f).die d = s.die d := rfl

theorem engineLeave_modLeave (c : Core) (e : Nat) (f : Leave → Leave) :
    (c.modLeave e f).engineLeave e = f (c.engineLeave e) := by
  simp [Core.modLeave, Core.engineLeave, tget_tput_same]

theorem engineLeave_grantPlace (c : Core) (e now : Nat) :
    (c.grantPlace e now).engineLeave e = { held := true, wanted := false, idle := now } :=
  engineLeave_modLeave c e fun _ => { held := true, wanted := false, idle := now }

/-- A die whose grants are all taken grants nothing. -/
theorem exec_leaveGrant_full (s : State) (die : Nat) (h : (s.die die).cap ≤ (s.die die).held) :
    exec (.leaveGrant die) s = .next s := by
  change execLeaveGrant die s = _
  simp [execLeaveGrant, h]

/-- Leave for a matrix engine goes to its core, in place and in the castle stores. -/
theorem giveLeave_engine (s : State) {w : LeaveReq} (h : w.agent < 2) :
    s.giveLeave w = s.everyCore w.h (·.grantPlace w.agent s.now) := by
  obtain h0 | h1 : w.agent = 0 ∨ w.agent = 1 := by omega
  · simp only [State.giveLeave, h0]
  · simp only [State.giveLeave, h1]

theorem exec_leaveGrant_one (s : State) (die : Nat) {w : LeaveReq} (hw : (s.die die).waiting = [w]) (he : w.agent < 2)
    (hfree : (s.die die).held < (s.die die).cap) (hthr : (s.die die).thr < 2) :
    exec (.leaveGrant die) s =
      .next ((s.modDie die fun d => { d with held := d.held + 1, waiting := d.waiting.filter (fun x => x != w) }).everyCore
        w.h (·.grantPlace w.agent s.now)) := by
  have hnext : (s.die die).nextLeave = some w := by simp [Die.nextLeave, hw]
  have hgo : ((s.die die).cap ≤ (s.die die).held || decide (2 ≤ (s.die die).thr)) = false := by simp; omega
  change execLeaveGrant die s = _
  simp only [execLeaveGrant, hgo, hnext, Bool.false_eq_true, if_false, giveLeave_engine _ he]
  rfl

theorem exec_leaveRelease_idle (s : State) {h e : Nat} (he : e < 2) (hheld : ((s.core h).engineLeave e).held = true)
    (hbusy : (s.core h).engineBusy e = false) :
    exec (.leaveRelease h e) s =
      if ((s.core h).engineLeave e).idle + idleCycles ≤ s.now then
        .next ((s.modCore h (·.modLeave e fun _ => Leave.reset)).modDie (dieOf h) fun d => { d with held := d.held - 1 })
      else .next s := by
  change execLeaveRelease h e s = _
  simp only [execLeaveRelease, he, hheld, hbusy, if_true, Bool.not_false, Bool.true_and, decide_eq_true_eq]

/-! ## Energy and aging (R332, R334) -/

/-- What LEBAL of a launch falls by lapses the raises of its units where it falls to 0 or below (log 27). -/
theorem addEnergy_launches (s : State) {n : Nat} {l : Launch} (hl : tget s.launches n = some l) (nj : Int) :
    (s.addEnergy n nj).launches = tmod s.launches n fun x =>
      if 0 < l.lebal ∧ l.lebal + nj ≤ 0 then Launch.lapse { x with lebal := x.lebal + nj }
      else { x with lebal := x.lebal + nj } := by
  simp only [State.addEnergy, State.launch?, hl]
  split
  · simp only [State.modLaunch, tmod, List.map_map]
    refine List.map_congr_left fun e _ => ?_
    by_cases he : e.1 = n <;> simp [he]
  · rfl

theorem addEnergy_mem (s : State) (n : Nat) (nj : Int) : (s.addEnergy n nj).mem = s.mem := by
  unfold State.addEnergy
  split
  · rfl
  · dsimp only
    split <;> rfl

theorem exec_energyMeter (s : State) {lnum : Nat} {l : Launch} (nj : Nat) (hl : tget s.launches lnum = some l)
    (hd : l.done = none) :
    exec (.energyMeter lnum nj) s =
      .next ((s.addEnergy lnum (-(nj : Int))).modLaunch lnum fun x => { x with charged := x.charged + nj }) := by
  change execEnergyMeter lnum nj s = _
  simp [execEnergyMeter, State.launch?, hl, Launch.isDone, hd]

/-- A unit that waits in the pool is raised when 2 ms have passed, and not before. -/
theorem exec_unitAging_waiting (s : State) {lnum i r since last : Nat} {p : Bool} {l : Launch}
    (hl : tget s.launches lnum = some l) (hh : l.heldBy = none) (hc : l.classOf r < 3)
    (hu : tget l.units i = some (.waiting p r since last)) :
    exec (.unitAging lnum i) s =
        .next (if last + agingCycles ≤ s.now then s.setUnit lnum i (.waiting p (r + 1) since s.now) else s) := by
  change execUnitAging lnum i s = _
  simp only [execUnitAging, State.launch?, hl, hu, hh, hc, Option.isNone_none, Bool.true_and,
    decide_true, Bool.and_true, decide_eq_true_eq]

theorem exec_unitAging_evicted (s : State) {lnum i g r since last : Nat} {l : Launch}
    (hl : tget s.launches lnum = some l) (hh : l.heldBy = none) (hc : l.classOf r < 3)
    (hu : tget l.units i = some (.evicted g true r since last)) (hdue : last + 3200000 ≤ s.now) :
    exec (.unitAging lnum i) s = .next (s.setUnit lnum i (.evicted g true (r + 1) since s.now)) := by
  change execUnitAging lnum i s = _
  simp [execUnitAging, State.launch?, hl, hu, hh, hc, agingCycles, hdue]

/-! ## The trip (R454) -/

/-- Where nothing is under way the stop at TRIP only cuts the power. -/
theorem exec_thermalTrip_quiet (s : State) (die : Nat) (hf : s.inflight = []) (hv : ∀ c ∈ s.cores, c.2.vec.queue = []) :
    exec (.thermalTrip die) s = .next { s with mp := { s.mp with powerCut := true, boot := 0xF0 } } := by
  have keep : ∀ l : Table Core, (∀ c ∈ l, c.2.vec.queue = []) →
      l.foldl (fun s c => (s.finishVector c.1 c.2.vec.queue.length).flushCore c.1) s = s := by
    intro l hl
    induction l with
    | nil => rfl
    | cons c l ih =>
      have hc : (s.finishVector c.1 c.2.vec.queue.length).flushCore c.1 = s := by
        rw [hl c (by simp)]
        simp [State.finishVector, State.flushCore, hf]
      rw [List.foldl_cons, hc]
      exact ih fun x hx => hl x (List.mem_cons_of_mem _ hx)
  change execThermalTrip die s = _
  simp only [execThermalTrip, keep s.cores hv, bootTrip]

/-- Without core power an event that needs it stops the run (log 71). -/
theorem step_powerCut {t : State} {e : Event} {es : List Event} (hp : t.mp.powerCut = true) (ha : t.agenda = e :: es)
    (he : offCore e = false) : step t = .fault .powerCut := by
  simp [step, State.oneStep, State.unpowered, hp, ha, he]

/-! ## The statement -/

/-- Settles O37: each error and each event of the power management, by what its meaning does to the state. -/
theorem errorsAndPower : Obligations.ErrorsAndPower := by
  unfold Obligations.ErrorsAndPower
  refine ⟨fun h die way spa s _ => ⟨fun place => ?_, rfl, ?_, ?_, ?_⟩, fun die h e lnum nj s d hd => ?_⟩
  · refine ⟨_, exec_correctableError ⟨h, place⟩ s, dropEntry_mem s h place, ?_, ?_, ?_, ?_, ?_, ?_, ?_, ?_⟩
    · rw [State.core_modCore_same, Core.countError, dropEntry_errcnt]
    · rintro rfl; rfl
    · rintro n rfl
      rw [State.core_modCore_same]; exact dropEntry_itlb s h n
    · rintro n rfl
      rw [State.core_modCore_same]; exact dropEntry_dtlb s h n
    · rintro n l rfl hl
      rw [State.modCore_clusterTlb, dropEntry_clusterTlb, hl]; rfl
    · rintro n l rfl hl
      rw [State.modCore_nestedTlb, dropEntry_nestedTlb, hl]; rfl
    · rintro pc rfl
      rw [State.core_modCore_same]; exact dropEntry_icache s h pc
    · rintro n rfl
      exact dropEntry_predictor s h n
  · intro p hp
    have hexec : exec (.uncorrectableError p) s = .next (s.addPoison spa) := by
      obtain rfl | rfl : p = .hbm spa ∨ p = .l2data spa := by simpa using hp
      · rfl
      · rfl
    exact ⟨_, hexec, rfl, mem_addPoison s spa⟩
  · rintro r n u hr rfl hn rfl
    have hp : ∀ c, (s.listCharge (s.tenantOf r.id.ctx)).protectedJob c = s.protectedJob c :=
      protectedJob_congr rfl rfl
    rw [exec_unitState s h r hr, charge_default s _ hn]
    refine ⟨fun hj => ?_, fun c hj => ⟨fun hc => ?_, fun hc => ?_⟩⟩
    · rw [hj]; rfl
    · rw [hj, List.foldl_cons, hp, if_pos hc]; rfl
    · rw [hj, List.foldl_cons, hp, if_neg (by simp [hc])]; rfl
  · rintro ts rfl
    obtain ⟨m, hexec, hout, hkept⟩ := exec_l2TagParityError s die way spa
    exact ⟨_, hexec, rfl, fenceWay_fenced s die way m, hout, hkept⟩
  · subst hd
    refine ⟨exec_leaveGrant_full s die, ?_, ?_, ?_, fun _ => rfl, fun _ => rfl, ?_⟩
    · rintro w hw rfl he hfree hthr
      refine ⟨_, exec_leaveGrant_one s die hw he hfree hthr, rfl, ?_, ?_⟩
      · rw [die_everyCore, die_modDie_same, hw]; simp
      · rw [core_everyCore_same]
        exact engineLeave_grantPlace _ _ _
    · rintro rfl he hheld hbusy
      rw [exec_leaveRelease_idle s he hheld hbusy]
      refine ⟨fun hdue => ⟨_, if_pos hdue, rfl, ?_, ?_⟩, fun hearly => if_neg (Nat.not_le.mpr hearly)⟩
      · rw [die_modDie_same, die_modCore]
      · rw [core_modDie, State.core_modCore_same, engineLeave_modLeave]; rfl
    · rintro l z hl hdone rfl
      refine ⟨⟨_, exec_energyMeter s nj hl hdone, addEnergy_mem s lnum _, ?_, fun i hi => ?_⟩, ?_⟩
      · simp only [State.modLaunch, addEnergy_launches s hl, tget_tmod, hl, if_true, Option.map_some, ← Int.sub_eq_add_neg]
        split <;> rfl
      · simp only [State.modLaunch, addEnergy_launches s hl, tget_tmod, Ne.symm hi, if_false]
      · intro i r since last hh hc
        refine ⟨fun p hu => ?_, fun g hu hdue => exec_unitAging_evicted s hl hh hc hu hdue⟩
        rw [exec_unitAging_waiting s hl hh hc hu]
        exact ⟨fun hdue => congrArg _ (if_pos hdue), fun hearly => congrArg _ (if_neg (Nat.not_le.mpr hearly))⟩
    · intro hf hv
      have hexec := exec_thermalTrip_quiet s die hf hv
      refine ⟨hexec, fun t e es ht ha he => step_powerCut ?_ ha he⟩
      rw [hexec] at ht
      injection ht with ht
      rw [← ht]

end Sys2Proof.Machine
end

section
/-! PROOFS. PREPARE takes what follows at once from the state of the launches (R318), so that it may complete a job. -/

namespace Sys2Proof.Machine

/-- PREPARE of one entry, at address 0 of the host's memory. -/
def prepareOne : BitVec 512 := BitVec.ofNat 512 (3 + 2 ^ 64)

/-- A page that the journal of a partition holds for context 0. -/
def heldPage : JPage := { ctx := 0, page := 0, bytes := [] }

/-- The partition of cores 0 to 15, with CKEN, which holds `heldPage`. -/
def journaling : Part := { Part.blank with hlen := 16, cken := true, jpages := [heldPage] }

/-- A root whose job has no launch and no running graph left: the job has ended, and has not been completed. -/
def endedRoot : Ctx :=
  { Ctx.blank with
    st := .live, coreLen := 16
    job := some { image := 0, arg := 0, cls := 0, graphs := [], slots := [], jobmap := none, opening := none } }

/-- The module with that root alone; the host's memory holds the entry of PREPARE that leaves the partition as it is. -/
def endedJob : State :=
  { State.reset with mem := [(spaHost + 4, 16)], ctxs := [(0, endedRoot)], parts := [(0, journaling)] }

theorem commanded_prepareOne : Commanded endedJob prepareOne [(8, 8), (0x10, 8)] :=
  ⟨.inl rfl, ⟨rfl, .inl rfl⟩, by decide +kernel, by decide +kernel⟩

/-- What the journal of partition 0 holds after a command. -/
def journalAfter : Out → List JPage
  | .next t => (t.part 0).jpages
  | _ => []

/-- The job completes in the step of PREPARE, and the commit of its last phase empties the journal (R318, R430). -/
theorem prepare_empties_journal : journalAfter (exec (.prepare 0 prepareOne) endedJob) = [] := by
  change journalAfter (execPrepare 0 prepareOne endedJob) = []
  decide +kernel

/-- Refutes O51: its PREPARE clause says that the partition changes in its prepared layout alone, but where a job has ended
that is not yet completed, as in `endedJob`, the step of PREPARE completes it and empties the partition's journal. -/
theorem not_partitionCommandsAct : ¬ Obligations.PartitionCommandsAct := by
  unfold Obligations.PartitionCommandsAct
  intro hall
  obtain ⟨-, -, -, hprepare, -⟩ := hall 0 prepareOne endedJob
  obtain ⟨-, -, hdone⟩ := hprepare 0 0 0 16 journaling commanded_prepareOne (by decide +kernel) (by decide +kernel)
    ⟨rfl, by decide⟩ (by decide +kernel) rfl (by decide)
  obtain ⟨t, hexec, -, -, -, hpart, -⟩ := hdone endedRoot rfl rfl rfl rfl (by decide) (by decide +kernel)
  have hempty := prepare_empties_journal
  rw [hexec] at hempty
  have hfull : (t.part 0).jpages = [heldPage] := by rw [hpart]; rfl
  exact List.cons_ne_nil _ _ (hfull.symm.trans hempty)

end Sys2Proof.Machine
end

section
/-! PROOFS. Bytes and codes: a list of bytes read back as a number and from memory (R2), and a code of a format that fits its
width (R23, R42). -/

namespace Sys2Proof.Machine

/-! ## Bytes (R2) -/

@[simp] theorem length_bytesOf (k n : Nat) : (bytesOf k n).length = k := by
  induction k generalizing n with
  | zero => rfl
  | succ k ih => simp [bytesOf, ih]

theorem numOf_bytesOf (k n : Nat) : numOf (bytesOf k n) = n % 256 ^ k := by
  induction k generalizing n with
  | zero => rw [Nat.pow_zero, Nat.mod_one]; rfl
  | succ k ih =>
    rw [bytesOf, numOf, ih, BitVec.toNat_ofNat, show 256 ^ (k + 1) = 256 * 256 ^ k from Nat.pow_succ']
    exact Nat.mod_mul.symm

/-- What was stored is read back. -/
theorem memBytes_memStore {m : Memory} (hm : Memory.wf m = true) (a : Nat) (bs : List Byte) :
    memBytes (memStore m a bs) a bs.length = bs := by
  induction bs generalizing m a with
  | nil => rfl
  | cons b bs ih =>
    have hfirst : memGet (memStore (memSet m a b) (a + 1) bs) (a + 0) = b := by
      rw [memGet_memStore_ne _ _ _ _ (.inl (by omega)), memGet_memSet hm, if_pos (Nat.add_zero a).symm]
    have hrest := ih (memSet_wf a b hm) (a + 1)
    simp only [memBytes] at hrest ⊢
    rw [memStore, List.length_cons, List.range_succ_eq_map, List.map_cons, List.map_map, hfirst]
    refine congrArg (b :: ·) (Eq.trans (List.map_congr_left fun i _ => ?_) hrest)
    rw [Function.comp_apply, Nat.succ_eq_add_one, Nat.add_comm i 1, Nat.add_assoc]

/-! ## Codes (R23, R42) -/

/-- The code of a magnitude that the format holds leaves the sign bit free. -/
theorem codeOf_lt {f : FFmt} {n : Nat} {g : Int} (hn : n ≠ 0) (hg : f.emin - f.fbits ≤ g)
    (hmax : g + (Nat.log2 n : Int) ≤ f.emax) : codeOf f n g < 2 ^ (f.width - 1) := by
  have htop : (f.emax + f.bias + 1).toNat * 2 ^ f.fbits ≤ 2 ^ (f.width - 1) := by cases f <;> decide
  have hone : 2 ^ f.fbits ≤ 2 ^ (f.width - 1) := by cases f <;> decide
  have hlog : n < 2 ^ (Nat.log2 n + 1) := Nat.lt_log2_self
  rw [codeOf, if_neg hn]
  generalize Nat.log2 n = l at hmax hlog ⊢
  by_cases hsub : g + (l : Int) < f.emin
  · rw [if_pos hsub]
    generalize hk : (g - (f.emin - f.fbits)).toNat = k
    calc n * 2 ^ k < 2 ^ (l + 1) * 2 ^ k := Nat.mul_lt_mul_of_pos_right hlog (Nat.two_pow_pos k)
      _ = 2 ^ (l + 1 + k) := (Nat.pow_add ..).symm
      _ ≤ 2 ^ f.fbits := Nat.pow_le_pow_right (by decide) (by omega)
      _ ≤ 2 ^ (f.width - 1) := hone
  · rw [if_neg hsub]
    have hfr : (if l ≤ f.fbits then n * 2 ^ (f.fbits - l) else n / 2 ^ (l - f.fbits)) < 2 ^ (f.fbits + 1) := by
      split
      · rw [show f.fbits + 1 = l + 1 + (f.fbits - l) by omega, Nat.pow_add]
        exact Nat.mul_lt_mul_of_pos_right hlog (Nat.two_pow_pos _)
      · rw [Nat.div_lt_iff_lt_mul (Nat.two_pow_pos _), ← Nat.pow_add, show f.fbits + 1 + (l - f.fbits) = l + 1 by omega]
        exact hlog
    generalize (if l ≤ f.fbits then n * 2 ^ (f.fbits - l) else n / 2 ^ (l - f.fbits)) = fr at hfr ⊢
    have hex : (g + (l : Int) + f.bias).toNat + 1 ≤ (f.emax + f.bias + 1).toNat := by
      have : f.emin = 1 - (f.bias : Int) := rfl
      omega
    calc (g + (l : Int) + f.bias).toNat * 2 ^ f.fbits + (fr - 2 ^ f.fbits)
        < ((g + (l : Int) + f.bias).toNat + 1) * 2 ^ f.fbits := by
          have := Nat.two_pow_pos f.fbits
          rw [Nat.pow_succ] at hfr
          rw [Nat.add_mul]; omega
      _ ≤ (f.emax + f.bias + 1).toNat * 2 ^ f.fbits := Nat.mul_le_mul_right _ hex
      _ ≤ 2 ^ (f.width - 1) := htop

theorem signed_lt {f : FFmt} {n : Nat} (neg : Bool) (h : n < 2 ^ (f.width - 1)) : f.signed neg n < 2 ^ f.width := by
  have hw : 2 ^ f.width = 2 ^ (f.width - 1) + 2 ^ (f.width - 1) := by cases f <;> rfl
  unfold FFmt.signed
  split <;> omega

/-- encode_float answers a code of the format's width. -/
theorem encodeFloat_lt (v : Num) (f : FFmt) (rnd : Rnd) (sat : Bool) : (encodeFloat v f rnd sat).1 < 2 ^ f.width := by
  have hnan : f.nanCode < 2 ^ f.width := by cases f <;> decide
  have hinf : f.infCode < 2 ^ (f.width - 1) := by cases f <;> decide
  have hmax : f.maxCode < 2 ^ (f.width - 1) := by cases f <;> decide
  have hzero : 0 < 2 ^ (f.width - 1) := Nat.two_pow_pos _
  cases v with
  | nan s => exact hnan
  | inf neg =>
    simp only [encodeFloat]
    split
    · exact signed_lt neg hmax
    · exact signed_lt neg hinf
  | fin neg m e st =>
    simp only [encodeFloat]
    split
    · exact signed_lt neg hzero
    · generalize hg : max (e + (sizeOf2 m : Int) - 1) f.emin - (f.fbits : Int) = g
      generalize (roundGrid neg m e st rnd g).1 = n
      split
      · split
        · exact signed_lt neg hmax
        · split
          · exact signed_lt neg hmax
          · exact signed_lt neg hinf
      · next hfits =>
        refine signed_lt neg ?_
        by_cases hn : n = 0
        · rw [codeOf, if_pos hn]; exact hzero
        · refine codeOf_lt hn (by omega) ?_
          simp only [Bool.and_eq_true, Bool.or_eq_true, bne_iff_ne, decide_eq_true_eq, not_and, not_or] at hfits
          have := (hfits hn).1
          omega

end Sys2Proof.Machine
end

section
/-! PROOFS. The vector unit performs the command at its head (R189, R190, R193–R195, R199, R205–R208). -/

namespace Sys2Proof.Machine

/-! ## Local memory and streams (R135, R153, R164, R190, R191) -/

/-- A write of bytes that a compute core backs is a write of memory and nothing else. -/
theorem State.storeLoc_alias (t : State) (c : Nat) {a h off : Nat} (bs : List Byte) (hge : spaAlias ≤ a)
    (ha : aliasParts (a - spaAlias) = (h, off)) (hc : isService h = false) :
    t.storeLoc c (.mem a) bs = { t with mem := memStore t.mem a bs } := by
  have hraw : t.storeRaw c (.mem a) bs = { t with mem := memStore t.mem a bs } := by
    simp only [State.storeRaw, State.writeLoc, State.writeMem, homeOf_alias hge, if_pos hge, ha, State.hookRaw, hc,
      Bool.not_false, if_true]
  simp only [State.storeLoc, hraw, State.settleFrom, if_true]

theorem State.physAddr_compute (s : State) {h : Nat} (off : Nat) (hc : isService h = false) :
    s.physAddr h off = aliasBase h + ((s.core h).phys (off / 0x4000) * 0x4000 + off % 0x4000) := by
  rw [State.physAddr, hc, if_neg Bool.false_ne_true, Nat.add_assoc]

/-- The bytes of one bank follow one another. -/
theorem State.physAddr_add (s : State) (h : Nat) {off i : Nat} (hi : off % 0x4000 + i < 0x4000) :
    s.physAddr h (off + i) = s.physAddr h off + i := by
  simp only [State.physAddr]
  split
  · omega
  · rw [show (off + i) / 0x4000 = off / 0x4000 by omega]; omega

theorem State.localBytes_eq (s : State) (h : Nat) {off n : Nat} (hn : off % 0x4000 + n ≤ 0x4000) :
    s.localBytes h off n = memBytes s.mem (s.physAddr h off) n :=
  List.map_congr_left fun i hi => by rw [s.physAddr_add h (by have := List.mem_range.mp hi; omega)]

/-- The address of a byte of a compute core's bank names that core (R15). -/
theorem State.physAddr_alias (s : State) {h off : Nat} (hh : h < 4096) (hc : isService h = false)
    (hp : (s.core h).phys (off / 0x4000) < 128) :
    spaAlias ≤ s.physAddr h off ∧ aliasParts (s.physAddr h off - spaAlias) =
      (h, (s.core h).phys (off / 0x4000) * 0x4000 + off % 0x4000) := by
  rw [s.physAddr_compute off hc]
  exact ⟨Nat.le_add_right_of_le (aliasBase_ge h), aliasParts_alias hh (by omega)⟩

/-- A stream's write within one bank is a write of memory and nothing else. -/
theorem State.streamStore_eq (s : State) {h off : Nat} (bs : List Byte) (hh : h < 4096) (hc : isService h = false)
    (hp : (s.core h).phys (off / 0x4000) < 128) (h0 : bs ≠ []) (hn : off % 0x4000 + bs.length ≤ 0x4000) :
    s.streamStore h off bs = { s with mem := memStore s.mem (s.physAddr h off) bs } := by
  have hlen : 0 < bs.length := List.length_pos_iff.mpr h0
  have hbanks : banksOf off bs.length = [off / 0x4000] := by
    rw [banksOf, if_neg (by omega), show (off + bs.length - 1) / 0x4000 - off / 0x4000 + 1 = 1 by omega]
    simp
  have hlo : max off (off / 0x4000 * 0x4000) = off := by omega
  have hhi : min (off + bs.length) ((off / 0x4000 + 1) * 0x4000) - off = bs.length := by omega
  simp only [State.streamStore, hbanks, List.foldl_cons, List.foldl_nil, hlo, hhi, Nat.sub_self, List.drop_zero,
    List.take_length]
  obtain ⟨hge, hparts⟩ := s.physAddr_alias hh hc hp
  exact State.storeLoc_alias s _ bs hge hparts hc

theorem State.core_advanceStream (s : State) (h k n : Nat) :
    (s.advanceStream h k n).core h = (s.core h).modStream k fun st => { st with pos := st.pos + n } :=
  State.core_modCore_same ..

theorem Core.stream_modStream (c : Core) (k j : Nat) (f : Stream → Stream) :
    (c.modStream k f).stream j = if k = j then f (c.stream k) else c.stream j := by
  simp only [Core.stream, Core.modStream, tget_tput]
  split <;> rfl

/-- What the advance of one stream leaves alone, the advance of all that a command names does. -/
theorem State.advanceNamed_keeps {α : Type} (P : State → α) (h n : Nat) (hP : ∀ t k, P (t.advanceStream h k n) = P t)
    (s : State) (q : VecCmd) : P (s.advanceNamed h q n) = P s := by
  unfold State.advanceNamed
  generalize (q.sources ++ q.dests).eraseDups = l
  induction l generalizing s with
  | nil => rfl
  | cons k l ih => exact (ih _).trans (hP s k)

theorem State.mem_advanceNamed (s : State) (h : Nat) (q : VecCmd) (n : Nat) : (s.advanceNamed h q n).mem = s.mem :=
  State.advanceNamed_keeps (·.mem) h n (fun _ _ => rfl) s q

theorem State.thread_advanceNamed (s : State) (h : Nat) (q : VecCmd) (n tid : Nat) :
    (s.advanceNamed h q n).thread h tid = s.thread h tid :=
  State.advanceNamed_keeps (·.thread h tid) h n (fun t k => by rw [State.thread, t.core_advanceStream]; rfl) s q

theorem State.q_advanceNamed (s : State) (h : Nat) (q : VecCmd) (n : Nat) :
    ((s.advanceNamed h q n).core h).vec.q = (s.core h).vec.q :=
  State.advanceNamed_keeps (fun t => (t.core h).vec.q) h n (fun t k => by rw [t.core_advanceStream]; rfl) s q

theorem State.physAddr_advanceNamed (s : State) (h : Nat) (q : VecCmd) (n off : Nat) :
    (s.advanceNamed h q n).physAddr h off = s.physAddr h off :=
  State.advanceNamed_keeps (·.physAddr h off) h n
    (fun t k => by simp only [State.physAddr, t.core_advanceStream]; rfl) s q

theorem nodup_eraseDups : (l : List Nat) → l.eraseDups.Nodup
  | [] => List.nodup_nil
  | a :: l => by
    rw [List.eraseDups_cons, List.nodup_cons, List.mem_eraseDups, List.mem_filter]
    refine ⟨fun ha => ?_, nodup_eraseDups _⟩
    rw [beq_self_eq_true] at ha
    exact Bool.false_ne_true ha.2
termination_by l => l.length
decreasing_by exact Nat.lt_succ_of_le (List.length_filter_le ..)

/-- A named stream advances once, and no other (R190). -/
theorem State.stream_advanceNamed (s : State) (h : Nat) (q : VecCmd) (n k : Nat) :
    ((s.advanceNamed h q n).core h).stream k =
      if k ∈ q.sources ++ q.dests then { (s.core h).stream k with pos := ((s.core h).stream k).pos + n }
      else (s.core h).stream k := by
  have hfold : ∀ (l : List Nat) (t : State), l.Nodup →
      ((l.foldl (fun t j => t.advanceStream h j n) t).core h).stream k =
        if k ∈ l then { (t.core h).stream k with pos := ((t.core h).stream k).pos + n } else (t.core h).stream k := by
    intro l
    induction l with
    | nil => intro t _; rfl
    | cons j l ih =>
      intro t hl
      obtain ⟨hj, hl⟩ := List.nodup_cons.mp hl
      rw [List.foldl_cons, ih _ hl, t.core_advanceStream, Core.stream_modStream]
      by_cases hjk : j = k
      · subst hjk; simp [hj]
      · simp [hjk, Ne.symm hjk]
  rw [State.advanceNamed, hfold _ s (nodup_eraseDups _)]
  simp only [List.mem_eraseDups]

/-! ## The command leaves the queue (R192, R193, R208) -/

/-- The commands behind the head are what is left of a core's vector queue. -/
def State.popVec (s : State) (h : Nat) (rest : List VecCmd) : State :=
  s.modCore h fun c => { c with vec := { c.vec with queue := rest } }

theorem State.core_popVec (s : State) (h : Nat) (rest : List VecCmd) :
    (s.popVec h rest).core h = { s.core h with vec := { (s.core h).vec with queue := rest } } :=
  State.core_modCore_same ..

theorem State.thread_popVec (s : State) (h tid : Nat) (rest : List VecCmd) :
    (s.popVec h rest).thread h tid = s.thread h tid := by
  rw [State.thread, s.core_popVec]; rfl

theorem State.physAddr_popVec (s : State) (h off : Nat) (rest : List VecCmd) :
    (s.popVec h rest).physAddr h off = s.physAddr h off := by
  simp only [State.physAddr, s.core_popVec]; rfl

theorem State.streamElem_popVec (s : State) (h : Nat) (rest : List VecCmd) (st : Stream) (o : Int) :
    (s.popVec h rest).streamElem h st o = s.streamElem h st o := by
  simp only [State.streamElem, State.localBytes, s.physAddr_popVec, s.core_popVec]; rfl

theorem State.core_modThread (s : State) (h tid : Nat) (f : Thread → Thread) :
    (s.modThread h tid f).core h = (s.core h).modThread tid f := State.core_modCore_same ..

section
variable {s : State} {h : Nat} {c : Core} {th : Thread} {q : VecCmd} {rest : List VecCmd}

theorem Serves.thread_eq (hs : Serves s h q.tid c th) : s.thread h q.tid = th := by
  rw [State.thread, hs.core, Core.thread, hs.thread]; rfl

theorem Serves.thread_popVec (hs : Serves s h q.tid c th) : (s.popVec h rest).thread h q.tid = th := by
  rw [s.thread_popVec, hs.thread_eq]

theorem Serves.core_popVec (hs : Serves s h q.tid c th) :
    (s.popVec h rest).core h = { c with vec := { c.vec with queue := rest } } := by
  rw [s.core_popVec, hs.core]

theorem Serves.stream_popVec (hs : Serves s h q.tid c th) (k : Nat) :
    ((s.popVec h rest).core h).stream k = c.stream k := by
  rw [hs.core_popVec]; rfl

/-- A head that fails a check leaves the queue with its late fault. -/
theorem exec_vector_fault (hs : Serves s h q.tid c th) (hq : c.vec.queue = q :: rest) {code : Nat}
    (hf : s.vecFault h q = some code) :
    exec (.vectorCommandPerform h) s = .next ((s.popVec h rest).lateOf h q.tid q.ply q.addr q.op.unit code) := by
  change execVectorCommandPerform h s = _
  simp only [execVectorCommandPerform, State.vecReady, hs.core, hq, hs.thread_eq, hs.free, hf]
  rfl

/-- A head that passes its checks runs, and its thread takes its flags. -/
theorem exec_vector_run (hs : Serves s h q.tid c th) (hq : c.vec.queue = q :: rest) (hf : s.vecFault h q = none) :
    exec (.vectorCommandPerform h) s =
      .next (((s.popVec h rest).vecRun h q).1.raiseAt h q.tid ((s.popVec h rest).vecRun h q).2) := by
  change execVectorCommandPerform h s = _
  simp only [execVectorCommandPerform, State.vecReady, hs.core, hq, hs.thread_eq, hs.free, hf]
  rfl

/-! ## The checks (R208) -/

theorem some_ite_eq_none {α : Type} {p : Prop} [Decidable p] {x : α} {o : Option α} :
    (if p then some x else o) = none ↔ ¬p ∧ o = none := by
  by_cases hp : p <;> simp [hp]

/-- The streams of a command that passes its checks: their banks may be used, and their next positions lie in the range. -/
theorem vecFault_eq_none (hf : s.vecFault h q = none) :
    ∀ k ∈ q.sources ++ q.dests, (s.core h).bankBad h ((s.core h).stream k) = false ∧
      ∀ o ∈ ((s.core h).stream k).next (s.thread h q.tid).u.vlen, ((s.core h).stream k).outside
        (streamElems h ((s.core h).streamFmt h ((s.core h).stream k).b0).1) o = false := by
  simp only [State.vecFault, some_ite_eq_none] at hf
  obtain ⟨-, -, -, hbank, -, hrange, -⟩ := hf
  simp only [List.any_eq_true, not_exists, not_and, Bool.not_eq_true] at hbank hrange
  exact fun k hk => ⟨hbank k hk, hrange k hk⟩

/-- The first bank of a stream whose banks may be used is claimed, where the core is a compute core. -/
theorem claimed_of_bankBad {k : Stream} (hb : c.bankBad h k = false) (hc : isService h = false) (hn : k.nb = 1) :
    c.claimed k.b0 = true := by
  have hclaimed : c.claimed k.b0 = true ∧ shadowIn c.tiles k.b0 = false := by
    simpa [Core.bankBad, hc, Stream.banks, hn] using hb
  exact hclaimed.1

theorem Core.claimed_lt {n : Nat} (hc : c.claimed n = true) : n < 96 := by
  unfold Core.claimed at hc
  split at hc
  · simp only [Bool.and_eq_true, decide_eq_true_eq] at hc; exact hc.1
  · cases hc

/-! ## What a change of a thread leaves alone -/

theorem State.vec_modThread (s : State) (h tid : Nat) (f : Thread → Thread) :
    ((s.modThread h tid f).core h).vec = (s.core h).vec := by
  rw [s.core_modThread]; rfl

theorem State.stream_modThread (s : State) (h tid k : Nat) (f : Thread → Thread) :
    ((s.modThread h tid f).core h).stream k = (s.core h).stream k := by
  rw [s.core_modThread]; rfl

theorem State.physAddr_modThread (s : State) (h tid off : Nat) (f : Thread → Thread) :
    (s.modThread h tid f).physAddr h off = s.physAddr h off := by
  simp only [State.physAddr, s.core_modThread]; rfl

theorem State.u_raiseAt (s : State) (h tid : Nat) (fl : Flags) :
    ((s.raiseAt h tid fl).thread h tid).u = (s.thread h tid).u := by
  rw [State.raiseAt, s.thread_modThread_same]; rfl

theorem State.fflags_raiseAt (s : State) (h tid : Nat) (fl : Flags) :
    ((s.raiseAt h tid fl).thread h tid).r.fflags = (s.thread h tid).r.fflags ||| fl := by
  rw [State.raiseAt, s.thread_modThread_same]; rfl

theorem State.u_wordsAt (s : State) (h tid : Nat) (f : UnitWords → UnitWords) :
    ((s.wordsAt h tid f).thread h tid).u = f (s.thread h tid).u := by
  rw [State.wordsAt, s.thread_modThread_same]; rfl

/-! ## A late fault, and the commands that configure (R205–R208) -/

theorem thread_lateOf (s : State) (h tid : Nat) (ply : Word32) (addr : Word) (unit code : Nat)
    (hroom : (s.thread h tid).late.length < 4) :
    (s.lateOf h tid ply addr unit code).thread h tid = { s.thread h tid with
      late := (s.thread h tid).late ++ [{ code := code, ply := ply, addr := addr, unit := unit }] } := by
  rw [State.lateOf, lateFault, s.thread_modThread_same, if_pos hroom]

theorem vector_fault_performed (hs : Serves s h q.tid c th) (hq : c.vec.queue = q :: rest) {code : Nat}
    (hroom : th.late.length < 4) (hf : s.vecFault h q = some code) :
    ∃ t, exec (.vectorCommandPerform h) s = .next t ∧ t.mem = s.mem ∧ (t.core h).vec = { c.vec with queue := rest } ∧
      t.thread h q.tid = { th with
        late := th.late ++ [{ code := code, ply := q.ply, addr := q.addr, unit := q.op.unit }] } := by
  refine ⟨_, exec_vector_fault hs hq hf, rfl, ?_, ?_⟩
  · rw [State.lateOf, lateFault, State.vec_modThread, hs.core_popVec]
  · rw [thread_lateOf _ _ _ _ _ _ _ (by rwa [hs.thread_popVec]), hs.thread_popVec]

theorem vecRun_vsetvl (s : State) (h : Nat) (hop : q.op = .vsetvl) :
    s.vecRun h q = if 1 ≤ q.a.toNat ∧ q.a.toNat ≤ 4096 then
        (s.wordsAt h q.tid fun u => { u with vlen := q.a.toNat, vcstat := 0 }, 0)
      else (s.wordsAt h q.tid fun u => { u with vcstat := 2 }, 0) := by
  simp only [State.vecRun, State.vecConfig, hop]
  by_cases ha : 1 ≤ q.a.toNat ∧ q.a.toNat ≤ 4096
  · rw [if_pos ha, if_neg (by omega)]
    simp only [State.wordsAt, State.modThread_modThread]; rfl
  · rw [if_neg ha, if_pos (by omega)]; rfl

theorem vsetvl_performed (hs : Serves s h q.tid c th) (hq : c.vec.queue = q :: rest) (hf : s.vecFault h q = none)
    (hop : q.op = .vsetvl) :
    ∃ t, exec (.vectorCommandPerform h) s = .next t ∧ t.mem = s.mem ∧ (t.core h).vec = { c.vec with queue := rest } ∧
      (t.thread h q.tid).u =
        if 1 ≤ q.a.toNat ∧ q.a.toNat ≤ 4096 then { th.u with vlen := q.a.toNat, vcstat := 0 }
        else { th.u with vcstat := 2 } := by
  refine ⟨_, exec_vector_run hs hq hf, ?_⟩
  rw [vecRun_vsetvl _ h hop, State.u_raiseAt, State.raiseAt, State.vec_modThread]
  split <;>
    exact ⟨rfl, by rw [State.wordsAt, State.vec_modThread, hs.core_popVec],
      by rw [State.u_wordsAt, hs.thread_popVec]⟩

theorem vclrq_performed (hs : Serves s h q.tid c th) (hq : c.vec.queue = q :: rest) (hf : s.vecFault h q = none)
    (hop : q.op = .vclrq) :
    ∃ t, exec (.vectorCommandPerform h) s = .next t ∧ t.mem = s.mem ∧ tget (t.core h).vec.q q.dst = some QAcc.clear ∧
      (t.core h).vec.queue = rest := by
  have hrun : (s.popVec h rest).vecRun h q = ((s.popVec h rest).modQ h q.dst (fun _ => QAcc.clear), 0) := by
    rw [State.vecRun, hop]
  refine ⟨_, exec_vector_run hs hq hf, ?_⟩
  rw [hrun, State.raiseAt, State.vec_modThread, State.modQ, State.core_modCore_same, hs.core_popVec]
  exact ⟨rfl, tget_tput_same .., rfl⟩

/-- VSON of a stream of the unit that is disabled and has no count of 0 (R189). -/
theorem vecRun_vson (s : State) (h : Nat) (hop : q.op = .vson) {r : Resident} (hu : (s.core h).unit = some r)
    (hr : r.streams.getLsbD q.dst = true) (hen : ((s.core h).stream q.dst).en = false)
    (hdims : ∀ d ∈ ((s.core h).stream q.dst).dims, d.1 ≠ 0) :
    s.vecRun h q = ((s.modCore h (·.modStream q.dst fun _ =>
      { (s.core h).stream q.dst with en := true, owner := q.tid, pos := 0 })).wordsAt h q.tid
        fun u => { u with vcstat := 0 }, 0) := by
  have hany : ((s.core h).stream q.dst).dims.any (fun d => d.1 == 0) = false := by simpa using hdims
  simp only [State.vecRun, State.vecConfig, hop, hen, hany, hu, Option.map_some, Option.getD_some, hr]
  rfl

theorem vson_performed (hs : Serves s h q.tid c th) (hq : c.vec.queue = q :: rest) (hf : s.vecFault h q = none)
    (hop : q.op = .vson) {r : Resident} (hu : c.unit = some r) (hr : r.streams.getLsbD q.dst = true)
    (hen : (c.stream q.dst).en = false) (hdims : ∀ d ∈ (c.stream q.dst).dims, d.1 ≠ 0) :
    ∃ t, exec (.vectorCommandPerform h) s = .next t ∧ t.mem = s.mem ∧ (t.thread h q.tid).u.vcstat = 0 ∧
      (t.core h).stream q.dst = { c.stream q.dst with en := true, owner := q.tid, pos := 0 } := by
  refine ⟨_, exec_vector_run hs hq hf, ?_⟩
  rw [vecRun_vson _ h hop (by rw [hs.core_popVec]; exact hu) hr (by rwa [hs.stream_popVec]) (by rwa [hs.stream_popVec]),
    hs.stream_popVec, State.u_raiseAt, State.u_wordsAt, State.raiseAt, State.stream_modThread, State.wordsAt,
    State.stream_modThread, State.core_modCore_same, Core.stream_modStream, if_pos rfl]
  exact ⟨rfl, rfl, rfl⟩

/-! ## Elements (R191, R193–R195, R199) -/

/-- The next element of a role: of a stream, or a scalar. -/
def State.roleElem (s : State) (h : Nat) (k : Option Nat) (scalar : Nat) : Num :=
  match k with
  | some k => s.streamElem h ((s.core h).stream k) (((s.core h).stream k).position ((s.core h).stream k).pos)
  | none => decodeFloat .fp32 scalar

theorem State.roleElems_one (s : State) (h : Nat) (k : Option Nat) (scalar : Nat) :
    s.roleElems h 1 k scalar = [s.roleElem h k scalar] := by
  cases k <;> rfl

theorem State.roleElem_popVec (s : State) (h : Nat) (rest : List VecCmd) (k : Option Nat) (scalar : Nat) :
    (s.popVec h rest).roleElem h k scalar = s.roleElem h k scalar := by
  cases k with
  | none => rfl
  | some k => simp only [State.roleElem, s.streamElem_popVec, s.core_popVec]; rfl

theorem vsumx_performed (hs : Serves s h q.tid c th) (hq : c.vec.queue = q :: rest) (hf : s.vecFault h q = none)
    (hop : q.op = .vsumx) (hlen : th.u.vlen = 1) :
    ∃ t, exec (.vectorCommandPerform h) s = .next t ∧ t.mem = s.mem ∧ tget (t.core h).vec.q q.dst =
        some (((tget c.vec.q q.dst).getD QAcc.clear).add (s.roleElem h (some q.src) 0)) ∧
      (t.core h).stream q.src = { c.stream q.src with pos := (c.stream q.src).pos + 1 } := by
  have hrun : (s.popVec h rest).vecRun h q =
      (((s.popVec h rest).modQ h q.dst (·.add (s.roleElem h (some q.src) 0))).advanceNamed h q 1, 0) := by
    simp only [State.vecRun, hop, hs.thread_popVec, hlen, State.roleElems_one, s.roleElem_popVec]
    rfl
  refine ⟨_, exec_vector_run hs hq hf, ?_⟩
  rw [hrun, State.raiseAt, State.vec_modThread, State.stream_modThread, State.q_advanceNamed, State.stream_advanceNamed,
    if_pos (by simp [VecCmd.sources, VecOp.hasSrc, hop]), State.modQ, State.core_modCore_same, hs.core_popVec]
  exact ⟨State.mem_advanceNamed .., tget_tput_same .., rfl⟩

theorem State.vecMap_one (s : State) (h : Nat) (q : VecCmd) {f : Fmt} {sd : Stream} {o : Int} {r : Nat × Flags} {sat : Bool}
    (hsd : sd = (s.core h).stream q.dst) (ho : o = sd.position sd.pos)
    (hf : fmtOf ((s.core h).streamFmt h sd.b0).1 = some f)
    (hsat : sat = ((s.core h).streamFmt h (sd.place (streamElems h ((s.core h).streamFmt h sd.b0).1)
      ((s.core h).streamFmt h sd.b0).1 o).1).2)
    (hr : r = vecEncode q.op f sat q.rnd (s.roleElem h (some q.src) 0) (vecElem q.op q.a q.rnd
      (s.roleElem h (some q.src) 0) (s.roleElem h q.bStream q.scalar.toNat) (s.roleElem h q.cStream (q.a.toNat / 2 ^ 32)))) :
    s.vecMap h q 1 = (s.streamWrite h sd o r.1, r.2) := by
  subst hsd ho hsat hr
  simp only [State.vecMap, hf, State.roleElems_one]
  simp [Stream.next, nth]

theorem streamElems_fp32 {h : Nat} (hc : isService h = false) : streamElems h 1 = 4096 := by
  rw [streamElems, hc]; rfl

theorem Stream.place_fp32 (sd : Stream) {o : Nat} (ho : o < 4096) :
    sd.place 4096 1 (o : Int) = (sd.b0, sd.b0 * 0x4000 + 4 * o, 0) := by
  simp only [Stream.place, Int.toNat_natCast, Nat.div_eq_of_lt ho, Nat.mod_eq_of_lt ho, Nat.add_zero, Nat.mul_comm 4 o]
  rfl

/-- An element of an FP32 stream of one bank is four bytes of that bank. -/
theorem State.streamWrite_fp32 (s : State) {h o : Nat} {sd : Stream} (v : Nat) (hh : h < 4096) (hc : isService h = false)
    (hp : (s.core h).phys sd.b0 < 128) (hfmt : ((s.core h).bank sd.b0).format = 1) (ho : o < 4096) :
    s.streamWrite h sd o v =
      { s with mem := memStore s.mem (s.physAddr h (sd.b0 * 0x4000 + 4 * o)) (bytesOf 4 v) } := by
  have hcode : ((s.core h).streamFmt h sd.b0).1 = 1 := by rw [Core.streamFmt, hc]; exact hfmt
  simp only [State.streamWrite, hcode, streamElems_fp32 hc, sd.place_fp32 ho]
  exact s.streamStore_eq _ hh hc (by rwa [show (sd.b0 * 0x4000 + 4 * o) / 0x4000 = sd.b0 by omega]) (List.cons_ne_nil _ _)
    (by rw [length_bytesOf]; simp only [elemSize]; omega)

/-- An element-wise command writes its elements, and its streams advance. -/
theorem vecRun_map (s : State) (h : Nat) (hmap : q.op.hasDst = true) (hquant : q.op ≠ .vqnt) :
    s.vecRun h q = ((s.vecMap h q (s.thread h q.tid).u.vlen).1.advanceNamed h q (s.thread h q.tid).u.vlen,
      (s.vecMap h q (s.thread h q.tid).u.vlen).2) := by
  unfold State.vecRun
  split <;> simp_all [VecOp.hasDst]

/-- The code and flags of the next element of a command with an FP32 destination. -/
def State.elemResult (s : State) (h : Nat) (q : VecCmd) (sat : Bool) : Nat × Flags :=
  let x := s.roleElem h (some q.src) 0
  vecEncode q.op (.flt .fp32) sat q.rnd x (vecElem q.op q.a q.rnd x (s.roleElem h q.bStream q.scalar.toNat)
    (s.roleElem h q.cStream (q.a.toNat / 2 ^ 32)))

theorem State.elemResult_popVec (s : State) (h : Nat) (rest : List VecCmd) (sat : Bool) :
    (s.popVec h rest).elemResult h q sat = s.elemResult h q sat := by
  simp only [State.elemResult, s.roleElem_popVec]

/-- A command on one element, with an FP32 destination of one bank of a compute core, at position `o`. -/
structure OneFp32 (h : Nat) (c : Core) (th : Thread) (q : VecCmd) (sd : Stream) (o : Nat) : Prop where
  mesh : h < 4096
  compute : isService h = false
  physical : ∀ n < 128, c.phys n < 128
  single : th.u.vlen = 1
  writes : q.op.hasDst = true
  noQuant : q.op ≠ .vqnt
  dst : sd = c.stream q.dst
  oneBank : sd.nb = 1
  format : (c.bank sd.b0).format = 1
  position : sd.position sd.pos = ((o : Nat) : Int)

section
variable {sd : Stream} {o : Nat}

theorem hasSrc_of_hasDst {op : VecOp} (hop : op.hasDst = true) : op.hasSrc = true := by
  unfold VecOp.hasSrc
  split
  case h_4 => exact hop
  all_goals rfl

theorem OneFp32.dst_named (h1 : OneFp32 h c th q sd o) : q.dst ∈ q.sources ++ q.dests := by
  simp [VecCmd.dests, h1.writes]

theorem OneFp32.src_named (h1 : OneFp32 h c th q sd o) : q.src ∈ q.sources ++ q.dests := by
  simp [VecCmd.sources, hasSrc_of_hasDst h1.writes]

/-- The checks put the element in a claimed bank, and inside it. -/
theorem OneFp32.inside (h1 : OneFp32 h c th q sd o) (hs : Serves s h q.tid c th) (hf : s.vecFault h q = none) :
    sd.b0 < 96 ∧ o < 4096 := by
  obtain ⟨hgood, hrange⟩ := vecFault_eq_none hf q.dst h1.dst_named
  rw [hs.core, ← h1.dst] at hgood hrange
  refine ⟨Core.claimed_lt (claimed_of_bankBad hgood h1.compute h1.oneBank), ?_⟩
  have hnext : (o : Int) ∈ sd.next (s.thread h q.tid).u.vlen := by
    rw [hs.thread_eq, h1.single, ← h1.position]; exact List.mem_singleton_self _
  have hfmt : (c.streamFmt h sd.b0).1 = 1 := by rw [Core.streamFmt, h1.compute]; exact h1.format
  have hin := hrange o hnext
  rw [hfmt, streamElems_fp32 h1.compute] at hin
  simp only [Stream.outside, h1.oneBank, Bool.or_eq_false_iff, decide_eq_false_iff_not] at hin
  omega

/-- The command writes the four bytes of its result, and its streams advance. -/
theorem OneFp32.vecRun (h1 : OneFp32 h c th q sd o) (hs : Serves s h q.tid c th) (hf : s.vecFault h q = none) :
    (s.popVec h rest).vecRun h q =
      (({ s.popVec h rest with
          mem := memStore s.mem (s.physAddr h (sd.b0 * 0x4000 + 4 * o))
            (bytesOf 4 (s.elemResult h q (c.bank sd.b0).sat).1) } : State).advanceNamed h q 1,
        (s.elemResult h q (c.bank sd.b0).sat).2) := by
  obtain ⟨hb0, ho⟩ := h1.inside hs hf
  have hbank : ∀ n, ((s.popVec h rest).core h).bank n = c.bank n := fun n => by rw [hs.core_popVec]; rfl
  have hfmt : ∀ n, ((s.popVec h rest).core h).streamFmt h n = ((c.bank n).format, (c.bank n).sat) := fun n => by
    rw [Core.streamFmt, h1.compute, hbank]; rfl
  have hmap := (s.popVec h rest).vecMap_one h q (sd := sd) (o := o) (f := .flt .fp32)
    (r := (s.popVec h rest).elemResult h q (c.bank sd.b0).sat) (sat := (c.bank sd.b0).sat)
    (by rw [hs.core_popVec]; exact h1.dst) h1.position.symm (by rw [hfmt, h1.format]; rfl)
    (by rw [hfmt sd.b0, h1.format, streamElems_fp32 h1.compute, sd.place_fp32 ho, hfmt]) rfl
  have hwrite := (s.popVec h rest).streamWrite_fp32 (sd := sd) (s.elemResult h q (c.bank sd.b0).sat).1 h1.mesh h1.compute
    (by rw [hs.core_popVec]; exact h1.physical _ (by omega)) (by rw [hbank, h1.format]) ho
  rw [s.physAddr_popVec] at hwrite
  rw [vecRun_map _ h h1.writes h1.noQuant, hs.thread_popVec, h1.single, hmap, s.elemResult_popVec, hwrite]
  rfl

/-- The command is performed: its bytes, its flags, its streams, and the memory that it leaves alone. -/
theorem OneFp32.performed (h1 : OneFp32 h c th q sd o) (hinv : s.Inv) (hs : Serves s h q.tid c th)
    (hq : c.vec.queue = q :: rest) (hf : s.vecFault h q = none) {r : Nat × Flags}
    (hr : r = s.elemResult h q (c.bank sd.b0).sat) :
    ∃ t, exec (.vectorCommandPerform h) s = .next t ∧
      t.localBytes h (sd.b0 * 0x4000 + 4 * o) 4 = bytesOf 4 r.1 ∧
      (t.thread h q.tid).r.fflags = th.r.fflags ||| r.2 ∧
      (∀ k ∈ q.sources ++ q.dests, (t.core h).stream k = { c.stream k with pos := (c.stream k).pos + 1 }) ∧
      ∀ a p, p = aliasBase h + c.phys sd.b0 * 0x4000 + 4 * o → a < p ∨ p + 4 ≤ a → memGet t.mem a = memGet s.mem a := by
  obtain ⟨-, ho⟩ := h1.inside hs hf
  refine ⟨_, exec_vector_run hs hq hf, ?_⟩
  rw [h1.vecRun hs hf, ← hr, State.fflags_raiseAt, State.thread_advanceNamed]
  refine ⟨?_, ?_, fun k hk => ?_, fun a p hp ha => ?_⟩
  · rw [State.localBytes_eq _ _ (by omega), State.raiseAt, State.modThread_mem, State.mem_advanceNamed,
      State.physAddr_modThread, State.physAddr_advanceNamed]
    have hread := memBytes_memStore hinv (s.physAddr h (sd.b0 * 0x4000 + 4 * o)) (bytesOf 4 r.1)
    rw [length_bytesOf] at hread
    exact (congrArg (memBytes _ · 4) (s.physAddr_popVec h _ rest)).trans hread
  · exact congrArg (fun x : Thread => x.r.fflags ||| r.2) hs.thread_popVec
  · rw [State.raiseAt, State.stream_modThread, State.stream_advanceNamed, if_pos hk]
    exact congrArg (fun x : Stream => { x with pos := x.pos + 1 }) (hs.stream_popVec k)
  · have haddr : s.physAddr h (sd.b0 * 0x4000 + 4 * o) = p := by
      rw [hp, s.physAddr_compute _ h1.compute, hs.core, show (sd.b0 * 0x4000 + 4 * o) / 0x4000 = sd.b0 by omega]
      omega
    rw [State.raiseAt, State.modThread_mem, State.mem_advanceNamed]
    exact memGet_memStore_ne _ _ _ _ (by rw [length_bytesOf, haddr]; exact ha)

end

/-- The result of VADD, VSUB or VMUL with a broadcast scalar is its exact result, encoded once (R195). -/
theorem elemResult_scalar (s : State) (h : Nat) (sat : Bool) (hbf : q.bf < 28) {x y : Num}
    (hx : x = s.roleElem h (some q.src) 0) (hy : y = decodeFloat .fp32 q.scalar.toNat) {e : VecOp × NumF}
    (he : e ∈ [(VecOp.vadd, addNum x y q.rnd), (.vsub, addNum x y.negate q.rnd), (.vmul, mulNum x y)]) (hop : q.op = e.1) :
    s.elemResult h q sat =
      ((encodeFloat e.2.1 .fp32 q.rnd sat).1, (encodeFloat e.2.1 .fp32 q.rnd sat).2 ||| e.2.2) := by
  have hb : q.bStream = none := by rw [VecCmd.bStream, if_neg (by omega)]
  subst hx hy
  simp only [List.mem_cons, List.not_mem_nil, or_false] at he
  rw [State.elemResult, hb]
  rcases he with rfl | rfl | rfl <;> rw [hop] <;> rfl

end

/-- Settles O41. A head that fails a check becomes a late fault (`vector_fault_performed`); one that passes runs as its
operation says, and an element-wise one on one element stores the code of its exact result (`OneFp32.performed`). -/
theorem vectorCommandsArePerformed : Obligations.VectorCommandsArePerformed := by
  unfold Obligations.VectorCommandsArePerformed
  intro h s c th q rest hinv hs hq
  refine ⟨fun code hroom hf => vector_fault_performed hs hq hroom hf, fun hf =>
    ⟨vsetvl_performed hs hq hf, vclrq_performed hs hq hf,
      fun r hop hu hr hen hdims => vson_performed hs hq hf hop hu hr hen hdims, ?_, ?_⟩⟩
  · rintro sx hop hlen rfl
    have hsum := vsumx_performed hs hq hf hop hlen
    rwa [State.roleElem, hs.core] at hsum
  · rintro sx sd sat x y o hlen hbf hc hh hphys rfl hsd hnb hfmt rfl hpos hx hy e he hop
    have hkind : q.op.hasDst = true ∧ q.op ≠ .vqnt := by
      simp only [List.mem_cons, List.not_mem_nil, or_false] at he
      rcases he with rfl | rfl | rfl <;> simp [hop, VecOp.hasDst]
    have hone : OneFp32 h c th q sd o := ⟨hh, hc, hphys, hlen, hkind.1, hkind.2, hsd, hnb, hfmt, hpos⟩
    have hres := elemResult_scalar s h (c.bank sd.b0).sat hbf (by rw [hx, State.roleElem, hs.core]) hy he hop
    obtain ⟨t, hexec, hbytes, hflags, hstreams, hframe⟩ := hone.performed hinv hs hq hf hres.symm
    refine ⟨t, hexec, ?_, hflags, hstreams _ hone.src_named, ?_, hframe⟩
    · rw [hbytes, numOf_bytesOf]
      exact Nat.mod_eq_of_lt (encodeFloat_lt e.2.1 .fp32 q.rnd _)
    · rw [hstreams _ hone.dst_named, hsd]

end Sys2Proof.Machine
end
